-- ==== Sys2Proof/Word.lean ====
section
/-! DEFINITION. The word types of the machine and their plainest arithmetic (00 R4, 02 R22). -/

namespace Sys2Proof

/-- A scalar register's value, 64 bits (02 R22). -/
abbrev Word := BitVec 64

/-- One instruction word (03 R47). -/
abbrev InstrWord := BitVec 32

/-- One byte of memory. -/
abbrev Byte := BitVec 8

/-- An accumulator row, 1,024 bytes, byte 0 in the low bits (00 R4, 01 R11). -/
abbrev Row := BitVec 8192

/-- A bit tile of 256 rows of 256 bits; tile bit (i, n) is bit 256 i + n (10 R195). -/
abbrev Tile := BitVec 65536

end Sys2Proof
end

