-- ==== Sys2Proof/Config.lean ====
section
/-! DEFINITION. What the spec leaves to the part: free values and the functions it names without giving their bits. -/

namespace Sys2Proof.Config

/-- A value the spec leaves open, one per count of `State.freeCount` and width: nothing constrains it
(DESIGN CHOICE, log entry 6). -/
opaque freeValue : Nat → (w : Nat) → BitVec w

/-- The 384-bit key hash fused into the package (22 R443; DESIGN CHOICE, log entry 7). -/
opaque fusedKeyHash : BitVec 384

/-- The private half of the package's identity key, and the nonce with which it signs a hash (22 R444; DESIGN CHOICE, log entry 7). -/
opaque identityKey : Nat
opaque identityNonce : BitVec 384 → Nat

end Sys2Proof.Config
end

