-- ==== Sys2Proof/Syntax.lean ====
section
/-! DEFINITION. Every instruction and every step of the spec's opcode table as data: one constructor a row
(03 R47 to R62; the steps without a word: 95). -/

namespace Sys2Proof

/-- The three roles of a slot (02 R18); the numbers of sys.status.ROLE are 1, 2, 3. -/
inductive Role where
  | loader | computer | storer
deriving DecidableEq, Repr

/-- The two ring ports (01 R14). -/
inductive Port where
  | up | down
deriving DecidableEq, Repr

/-- The operand fields of a VX pair (03 R54). -/
structure VxOps where
  vd : BitVec 8
  va : BitVec 8
  vb : BitVec 8
  mask : BitVec 4
  ty : BitVec 4
  aux : BitVec 6
  tok : BitVec 10
deriving DecidableEq, Repr

/-- The operand fields of an MX pair (03 R54). -/
structure MxOps where
  row : BitVec 8
  pe : BitVec 1
  pm : BitVec 2
  pk : BitVec 2
  pn : BitVec 2
  cnt : BitVec 8
  wf : BitVec 4
  af : BitVec 4
  sat : BitVec 1
  sreg : BitVec 5
  tok : BitVec 10
deriving DecidableEq, Repr

/-- The operand fields of an EX pair (03 R54). -/
structure ExOps where
  d : BitVec 5
  a : BitVec 5
  b : BitVec 5
  c : BitVec 5
  q : BitVec 1
  aux : BitVec 16
  tok : BitVec 10
deriving DecidableEq, Repr

/-- Who sends a message that is delivered: a started MSG of an own core's copy queue, or another package of the
ring (17 R370), with the record's virtual and physical address and the S bit of its page. -/
inductive MsgSource where
  | own (core : BitVec 6) (q : BitVec 1)
  | peer (handler va : BitVec 64) (record : BitVec 34) (sup : Bool) (payload : List (BitVec 8))
deriving DecidableEq, Repr

/-- Who asks for a key-value lookup: a started KV command of an own core's copy queue, or another package, which
asks this owner to resolve (0), retain (1) or release (2) a block (13 R281, 17 R366, R367). -/
inductive KvSource where
  | own (core : BitVec 6) (q : BitVec 1)
  | peer (dom : BitVec 4) (gbn : BitVec 34) (op : BitVec 2)
deriving DecidableEq, Repr

/-- An access that another package of the ring sends to this owner's deep store (13 R278): a load (0), a store (1)
or an atomic of operation code `fn` (2), of 2^w bytes. -/
structure RemoteAccess where
  kind : BitVec 2
  pa : BitVec 34
  w : BitVec 2
  fn : BitVec 4
  data : BitVec 64
  data2 : BitVec 64
deriving DecidableEq, Repr

/-- Where a step happens: the slot (and through it the core, cluster and die, 01 R9), the role, the copy queue, the
domain, the ring port and the ring position it concerns. -/
structure Context where
  slot : BitVec 8
  role : Role
  q : BitVec 1
  dom : BitVec 4
  port : Port
  pos : BitVec 8
deriving DecidableEq, Repr

/-- One constructor per row of the opcode table. The first argument `st` of an instruction with a word is its stall
count S (03 R47). A step without a word acts on the unit that `Context` names (a slot, its core, its cluster, its
die, a queue, a domain, a port), as an instruction acts in the slot and role it names. -/
inductive Instr where
  | add (st : BitVec 3) (d a b : BitVec 5)
  | sub (st : BitVec 3) (d a b : BitVec 5)
  | and (st : BitVec 3) (d a b : BitVec 5)
  | or (st : BitVec 3) (d a b : BitVec 5)
  | xor (st : BitVec 3) (d a b : BitVec 5)
  | andn (st : BitVec 3) (d a b : BitVec 5)
  | orn (st : BitVec 3) (d a b : BitVec 5)
  | shl (st : BitVec 3) (d a b : BitVec 5)
  | shr (st : BitVec 3) (d a b : BitVec 5)
  | sar (st : BitVec 3) (d a b : BitVec 5)
  | rotl (st : BitVec 3) (d a b : BitVec 5)
  | min (st : BitVec 3) (d a b : BitVec 5)
  | max (st : BitVec 3) (d a b : BitVec 5)
  | minu (st : BitVec 3) (d a b : BitVec 5)
  | maxu (st : BitVec 3) (d a b : BitVec 5)
  | slt (st : BitVec 3) (d a b : BitVec 5)
  | sltu (st : BitVec 3) (d a b : BitVec 5)
  | seq (st : BitVec 3) (d a b : BitVec 5)
  | sne (st : BitVec 3) (d a b : BitVec 5)
  | mul (st : BitVec 3) (d a b : BitVec 5)
  | mulh (st : BitVec 3) (d a b : BitVec 5)
  | mulhu (st : BitVec 3) (d a b : BitVec 5)
  | div (st : BitVec 3) (d a b : BitVec 5)
  | divu (st : BitVec 3) (d a b : BitVec 5)
  | rem (st : BitVec 3) (d a b : BitVec 5)
  | remu (st : BitVec 3) (d a b : BitVec 5)
  | clz (st : BitVec 3) (d a : BitVec 5)
  | ctz (st : BitVec 3) (d a : BitVec 5)
  | popc (st : BitVec 3) (d a : BitVec 5)
  | brev (st : BitVec 3) (d a : BitVec 5)
  | bswap (st : BitVec 3) (d a : BitVec 5)
  | sel (st f : BitVec 3) (d a b : BitVec 5)
  | addImm (st : BitVec 3) (d a : BitVec 5) (imm : BitVec 12)
  | andImm (st : BitVec 3) (d a : BitVec 5) (imm : BitVec 12)
  | orImm (st : BitVec 3) (d a : BitVec 5) (imm : BitVec 12)
  | xorImm (st : BitVec 3) (d a : BitVec 5) (imm : BitVec 12)
  | shlImm (st : BitVec 3) (d a : BitVec 5) (imm : BitVec 12)
  | shrImm (st : BitVec 3) (d a : BitVec 5) (imm : BitVec 12)
  | sarImm (st : BitVec 3) (d a : BitVec 5) (imm : BitVec 12)
  | rotlImm (st : BitVec 3) (d a : BitVec 5) (imm : BitVec 12)
  | sltImm (st : BitVec 3) (d a : BitVec 5) (imm : BitVec 12)
  | sltuImm (st : BitVec 3) (d a : BitVec 5) (imm : BitVec 12)
  | seqImm (st : BitVec 3) (d a : BitVec 5) (imm : BitVec 12)
  | sneImm (st : BitVec 3) (d a : BitVec 5) (imm : BitVec 12)
  | minImm (st : BitVec 3) (d a : BitVec 5) (imm : BitVec 12)
  | maxImm (st : BitVec 3) (d a : BitVec 5) (imm : BitVec 12)
  | mulImm (st : BitVec 3) (d a : BitVec 5) (imm : BitVec 12)
  | exts (st : BitVec 3) (d a : BitVec 5) (w p : BitVec 6)
  | extz (st : BitVec 3) (d a : BitVec 5) (w p : BitVec 6)
  | ins (st : BitVec 3) (d a : BitVec 5) (w p : BitVec 6)
  | alignup (st : BitVec 3) (d a : BitVec 5) (n : BitVec 6)
  | lea (st : BitVec 3) (d a b : BitVec 5) (k : BitVec 3)
  | wrap (st : BitVec 3) (d a b : BitVec 5) (k : BitVec 7)
  | movi (st : BitVec 3) (d : BitVec 5) (imm : BitVec 17)
  | fcmp (st f : BitVec 3) (a b : BitVec 5) (cond : BitVec 7)
  | flog (st fd fa fb : BitVec 3) (op : BitVec 7)
  | nul (st f : BitVec 3) (n : BitVec 4)
  | beq (st : BitVec 3) (a b : BitVec 5) (off : BitVec 8) (tw : BitVec 4)
  | bne (st : BitVec 3) (a b : BitVec 5) (off : BitVec 8) (tw : BitVec 4)
  | blt (st : BitVec 3) (a b : BitVec 5) (off : BitVec 8) (tw : BitVec 4)
  | bge (st : BitVec 3) (a b : BitVec 5) (off : BitVec 8) (tw : BitVec 4)
  | bltu (st : BitVec 3) (a b : BitVec 5) (off : BitVec 8) (tw : BitVec 4)
  | bgeu (st : BitVec 3) (a b : BitVec 5) (off : BitVec 8) (tw : BitVec 4)
  | bf (st f : BitVec 3) (off : BitVec 8) (tw : BitVec 4)
  | bfN (st f : BitVec 3) (off : BitVec 8) (tw : BitVec 4)
  | loop (st : BitVec 3) (a : BitVec 5) (off : BitVec 8) (tw : BitVec 4)
  | j (st : BitVec 3) (off : BitVec 18) (tw : BitVec 4)
  | jl (st : BitVec 3) (off : BitVec 18) (tw : BitVec 4)
  | ji (st : BitVec 3) (d a : BitVec 5)
  | ldB (st : BitVec 3) (t base : BitVec 5) (stream : BitVec 4) (disp : BitVec 8)
  | ldBu (st : BitVec 3) (t base : BitVec 5) (stream : BitVec 4) (disp : BitVec 8)
  | ldH (st : BitVec 3) (t base : BitVec 5) (stream : BitVec 4) (disp : BitVec 8)
  | ldHu (st : BitVec 3) (t base : BitVec 5) (stream : BitVec 4) (disp : BitVec 8)
  | ldW (st : BitVec 3) (t base : BitVec 5) (stream : BitVec 4) (disp : BitVec 8)
  | ldWu (st : BitVec 3) (t base : BitVec 5) (stream : BitVec 4) (disp : BitVec 8)
  | ldD (st : BitVec 3) (t base : BitVec 5) (stream : BitVec 4) (disp : BitVec 8)
  | stB (st : BitVec 3) (t base : BitVec 5) (stream : BitVec 4) (disp : BitVec 8)
  | stH (st : BitVec 3) (t base : BitVec 5) (stream : BitVec 4) (disp : BitVec 8)
  | stW (st : BitVec 3) (t base : BitVec 5) (stream : BitVec 4) (disp : BitVec 8)
  | stD (st : BitVec 3) (t base : BitVec 5) (stream : BitVec 4) (disp : BitVec 8)
  | ldq (st : BitVec 3) (q : BitVec 2) (base : BitVec 5) (stream : BitVec 4) (disp : BitVec 8)
  | stq (st : BitVec 3) (q : BitVec 1) (base : BitVec 5) (stream : BitVec 4) (disp : BitVec 8)
  | ldo (st : BitVec 3) (d a : BitVec 5) (ord : BitVec 3) (sx : BitVec 1) (w : BitVec 2)
  | sto (st : BitVec 3) (a b : BitVec 5) (ord : BitVec 3) (w : BitVec 2)
  | fence (st ord sco : BitVec 3)
  | xfence (st : BitVec 3) (mask : BitVec 16)
  | aaddW (st : BitVec 3) (d a b : BitVec 5) (ord : BitVec 3)
  | aandW (st : BitVec 3) (d a b : BitVec 5) (ord : BitVec 3)
  | aorW (st : BitVec 3) (d a b : BitVec 5) (ord : BitVec 3)
  | axorW (st : BitVec 3) (d a b : BitVec 5) (ord : BitVec 3)
  | aminSW (st : BitVec 3) (d a b : BitVec 5) (ord : BitVec 3)
  | amaxSW (st : BitVec 3) (d a b : BitVec 5) (ord : BitVec 3)
  | aminUW (st : BitVec 3) (d a b : BitVec 5) (ord : BitVec 3)
  | amaxUW (st : BitVec 3) (d a b : BitVec 5) (ord : BitVec 3)
  | afaddW (st : BitVec 3) (d a b : BitVec 5) (ord : BitVec 3)
  | aexchW (st : BitVec 3) (d a b : BitVec 5) (ord : BitVec 3)
  | aincwW (st : BitVec 3) (d a b : BitVec 5) (ord : BitVec 3)
  | adecwW (st : BitVec 3) (d a b : BitVec 5) (ord : BitVec 3)
  | aaddD (st : BitVec 3) (d a b : BitVec 5) (ord : BitVec 3)
  | aandD (st : BitVec 3) (d a b : BitVec 5) (ord : BitVec 3)
  | aorD (st : BitVec 3) (d a b : BitVec 5) (ord : BitVec 3)
  | axorD (st : BitVec 3) (d a b : BitVec 5) (ord : BitVec 3)
  | aminSD (st : BitVec 3) (d a b : BitVec 5) (ord : BitVec 3)
  | amaxSD (st : BitVec 3) (d a b : BitVec 5) (ord : BitVec 3)
  | aminUD (st : BitVec 3) (d a b : BitVec 5) (ord : BitVec 3)
  | amaxUD (st : BitVec 3) (d a b : BitVec 5) (ord : BitVec 3)
  | aexchD (st : BitVec 3) (d a b : BitVec 5) (ord : BitVec 3)
  | aincwD (st : BitVec 3) (d a b : BitVec 5) (ord : BitVec 3)
  | adecwD (st : BitVec 3) (d a b : BitVec 5) (ord : BitVec 3)
  | waitaW (st : BitVec 3) (d a b : BitVec 5)
  | waitaD (st : BitVec 3) (d a b : BitVec 5)
  | phnew (st : BitVec 3) (d a : BitVec 5)
  | phregS (st : BitVec 3) (d a b : BitVec 5)
  | phregW (st : BitVec 3) (d a b : BitVec 5)
  | phregSw (st : BitVec 3) (d a b : BitVec 5)
  | phdrop (st : BitVec 3) (a : BitVec 5)
  | phsig (st : BitVec 3) (a : BitVec 5)
  | phwait (st : BitVec 3) (a : BitVec 5)
  | phnext (st : BitVec 3) (a : BitVec 5)
  | phlink (st : BitVec 3) (d a b : BitVec 5)
  | phqry (st : BitVec 3) (d a : BitVec 5)
  | spawn (st : BitVec 3) (d a b : BitVec 5)
  | spawnj (st : BitVec 3) (d a b : BitVec 5)
  | join (st : BitVec 3) (a : BitVec 5)
  | exit (st : BitVec 3)
  | yield (st : BitVec 3)
  | susp (st : BitVec 3)
  | self (st : BitVec 3) (d : BitVec 5)
  | prio (st : BitVec 3) (d a : BitVec 5)
  | evset (st : BitVec 3) (a b : BitVec 5)
  | evclr (st : BitVec 3) (a b : BitVec 5)
  | evwait (st : BitVec 3) (a b : BitVec 5)
  | evtest (st : BitVec 3) (d a : BitVec 5)
  | twait (st : BitVec 3) (a : BitVec 5)
  | frameq (st : BitVec 3) (d a : BitVec 5)
  | bend (st : BitVec 3)
  | scope (st : BitVec 3) (d a b : BitVec 5)
  | cancel (st : BitVec 3) (a : BitVec 5)
  | scqry (st : BitVec 3) (d a : BitVec 5)
  | scack (st : BitVec 3) (d a b : BitVec 5)
  | tbinit (st : BitVec 3) (a b : BitVec 5)
  | tbexp (st : BitVec 3) (a b : BitVec 5)
  | tbarv (st : BitVec 3) (d a b : BitVec 5)
  | tbwait (st : BitVec 3) (d a b : BitVec 5)
  | tksig (st : BitVec 3) (n : BitVec 4)
  | tkwait (st : BitVec 3) (n : BitVec 4)
  | seghdr (st : BitVec 3) (d a : BitVec 5)
  | stgq (st : BitVec 3) (q : BitVec 2)
  | stgrel (st : BitVec 3)
  | parkSet (st : BitVec 3) (d a b : BitVec 5)
  | nop (st : BitVec 3)
  | eret (st : BitVec 3)
  | halt (st : BitVec 3)
  | brk (st : BitVec 3)
  | tick (st : BitVec 3) (d : BitVec 5)
  | sysr (st : BitVec 3) (d : BitVec 5) (reg : BitVec 17)
  | sysw (st : BitVec 3) (d : BitVec 5) (reg : BitVec 17)
  | trap (st : BitVec 3) (code : BitVec 17)
  | jrnlStore (st : BitVec 3) (d a b : BitVec 5)
  | replay (st : BitVec 3) (d : BitVec 5)
  | snap (st : BitVec 3) (d : BitVec 5)
  | ckptClose (st : BitVec 3) (d a : BitVec 5)
  | tlbinv (st : BitVec 3) (a b : BitVec 5)
  | vld (st : BitVec 3) (v : VxOps)
  | vst (st : BitVec 3) (v : VxOps)
  | vmov (st : BitVec 3) (v : VxOps)
  | vbcst (st : BitVec 3) (v : VxOps)
  | viota (st : BitVec 3) (v : VxOps)
  | vadd (st : BitVec 3) (v : VxOps)
  | vsub (st : BitVec 3) (v : VxOps)
  | vmul (st : BitVec 3) (v : VxOps)
  | vfma (st : BitVec 3) (v : VxOps)
  | vfms (st : BitVec 3) (v : VxOps)
  | vmin (st : BitVec 3) (v : VxOps)
  | vmax (st : BitVec 3) (v : VxOps)
  | vabs (st : BitVec 3) (v : VxOps)
  | vneg (st : BitVec 3) (v : VxOps)
  | vdiv (st : BitVec 3) (v : VxOps)
  | vsqrt (st : BitVec 3) (v : VxOps)
  | vrsq (st : BitVec 3) (v : VxOps)
  | vrcp (st : BitVec 3) (v : VxOps)
  | vexp2 (st : BitVec 3) (v : VxOps)
  | vlog2 (st : BitVec 3) (v : VxOps)
  | vand (st : BitVec 3) (v : VxOps)
  | vor (st : BitVec 3) (v : VxOps)
  | vxor (st : BitVec 3) (v : VxOps)
  | vshl (st : BitVec 3) (v : VxOps)
  | vshr (st : BitVec 3) (v : VxOps)
  | vsar (st : BitVec 3) (v : VxOps)
  | vcmp (st : BitVec 3) (v : VxOps)
  | vsel (st : BitVec 3) (v : VxOps)
  | vpop (st : BitVec 3) (v : VxOps)
  | vmlog (st : BitVec 3) (v : VxOps)
  | vshuf (st : BitVec 3) (v : VxOps)
  | vrot (st : BitVec 3) (v : VxOps)
  | vext (st : BitVec 3) (v : VxOps)
  | vins (st : BitVec 3) (v : VxOps)
  | vred (st : BitVec 3) (v : VxOps)
  | vscan (st : BitVec 3) (v : VxOps)
  | vcvt (st : BitVec 3) (v : VxOps)
  | vqnt (st : BitVec 3) (v : VxOps)
  | vdeq (st : BitVec 3) (v : VxOps)
  | vtag (st : BitVec 3) (v : VxOps)
  | vhad (st : BitVec 3) (v : VxOps)
  | vcon (st : BitVec 3) (v : VxOps)
  | vopld (st : BitVec 3) (v : VxOps)
  | bld (st : BitVec 3) (v : VxOps)
  | bst (st : BitVec 3) (v : VxOps)
  | brow (st : BitVec 3) (v : VxOps)
  | bfill (st : BitVec 3) (v : VxOps)
  | bpopr (st : BitVec 3) (v : VxOps)
  | bpopc (st : BitVec 3) (v : VxOps)
  | btrn (st : BitVec 3) (v : VxOps)
  | bcomp (st : BitVec 3) (v : VxOps)
  | bclos (st : BitVec 3) (v : VxOps)
  | blog (st : BitVec 3) (v : VxOps)
  | vselb (st : BitVec 3) (v : VxOps)
  | mlds (st : BitVec 3) (m : MxOps)
  | mflip (st : BitVec 3) (m : MxOps)
  | mstr (st : BitVec 3) (m : MxOps)
  | mzero (st : BitVec 3) (m : MxOps)
  | mpset (st : BitVec 3) (m : MxOps)
  | mpget (st : BitVec 3) (m : MxOps)
  | mdrain (st : BitVec 3) (m : MxOps)
  | ocld (st : BitVec 3) (m : MxOps)
  | ocmp (st : BitVec 3) (m : MxOps)
  | cpy (st : BitVec 3) (x : ExOps)
  | cpyt (st : BitVec 3) (x : ExOps)
  | kvget (st : BitVec 3) (x : ExOps)
  | kvputStore (st : BitVec 3) (x : ExOps)
  | kvputRetain (st : BitVec 3) (x : ExOps)
  | kvputRelease (st : BitVec 3) (x : ExOps)
  | msg (st : BitVec 3) (x : ExOps)
  | dtld (st : BitVec 3) (x : ExOps)
  | acas (st : BitVec 3) (x : ExOps)
  | aaddb (st : BitVec 3) (x : ExOps)
  | movl (st : BitVec 3) (d : BitVec 5) (imm : BitVec 32)
  | lhi (st : BitVec 3) (d : BitVec 5) (imm : BitVec 32)
  | diagdRead (st : BitVec 3) (d : BitVec 5)
  | diagdWrite (st : BitVec 3) (d : BitVec 5)
  | snapArm (st : BitVec 3) (d : BitVec 5)
  | einjArm (st : BitVec 3) (d : BitVec 5)
  | mgmtRegWrite (off : BitVec 16) (v : BitVec 64)
  | messageDelivery (src : MsgSource)
  | kvOwnerLookup (src : KvSource)
  | parkClear (st : BitVec 3) (d a b : BitVec 5)
  | parkRead (st : BitVec 3) (d a b : BitVec 5)
  | jrnlLoad (st : BitVec 3) (d a b : BitVec 5)
  | jrnlAbandon (st : BitVec 3) (d a b : BitVec 5)
  | ckptRollback (st : BitVec 3) (d a : BitVec 5)
  | ckptQuery (st : BitVec 3) (d a : BitVec 5)
  | errorLogClear (st : BitVec 3) (d : BitVec 5)
  | eventsClear (mask : BitVec 64)
  | attestRequest (addr : BitVec 64)
  | frameset (v : BitVec 64)
  | translationWalk (va : BitVec 56)
  | tier1RemoteAccess (acc : RemoteAccess)
  | linkFlitReceive (seq : BitVec 16) (crcOk : Bool) (flit : BitVec 512)
  | snapExternalTrigger
  | powerUpReset
  | fwDownload
  | dispatcherElection
  | leaderFailover
  | launchRecordRead
  | indexGrant
  | launchPoolRetry
  | launchCompletion
  | coreRestart
  | frameModeEnable
  | frameModeDisable
  | graftDeclare
  | graftRelease
  | graftTrainTimeout
  | swapGo
  | swapPause
  | swapResume
  | heartbeatSend
  | heartbeatTimeout
  | packagePowerLoss
  | linkRetrain
  | retrainComplete
  | segmentArrival
  | refillComplete
  | ringSlotForward
  | decodeStart
  | decodeComplete
  | segmentCurrent
  | computeFrameEnd
  | timetableRelease
  | entrySlip
  | lateAccessPause
  | lateAccessResume
  | blockCheck
  | holdDrop
  | strandPickup
  | suspensionComplete
  | eventOverflowScan
  | spillRefill
  | placementRetry
  | preemptTrigger
  | preemptDrainEnd
  | pollWake
  | killPointStop
  | trapEntry
  | hangTimeout
  | codeLineFill
  | variableResultLand
  | routerMergeDepart
  | eccScrub
  | vectorCommandStart
  | vectorCommandLand
  | matrixCommandStart
  | matrixCommandComplete
  | copyCommandStart
  | copySettle
  | tbwaitPoll
  | accessPerformed
  | mirrorDieFailure
deriving DecidableEq, Repr

end Sys2Proof
end

