-- ==== Sys2Proof/Machine/Fields.lean ====
section
/-! DEFINITION. The limits of the operand fields (check 3 of 03 R63): small predicates, one per kind of field, and the
function tables of the vector, bit-tile and matrix majors (08 R160, 10 R202, 09 R182). -/

namespace Sys2Proof

/-- A register field naming s1 to s5, the registers a suspension keeps (02 R36). -/
def keptReg (r : BitVec 5) : Bool := decide (1 ≤ r.toNat ∧ r.toNat ≤ 5)

/-- A register field naming s0 to s5 (15 R319, 12 R265). -/
def keptRegOrZero (r : BitVec 5) : Bool := decide (r.toNat ≤ 5)

/-- The fields a FLOG operation uses; those it does not use are zero (04 R79). -/
def flogFieldsOk (op : BitVec 7) (fa fb : BitVec 3) : Bool :=
  if op.toNat ≤ 3 then true
  else if op.toNat ≤ 5 then fb == 0
  else if op.toNat ≤ 7 then fa == 0 && fb == 0
  else false

/-- The limits of an LDO's order, sign and width (03 R61). -/
def ldoOk (ord : BitVec 3) (sx : BitVec 1) (w : BitVec 2) : Bool :=
  decide (ord.toNat = 0 ∨ ord.toNat = 1 ∨ ord.toNat = 4) && !(sx == 1 && w == 3)

/-- The limits of an STO's order (03 R61). -/
def stoOk (ord : BitVec 3) : Bool := decide (ord.toNat = 0 ∨ ord.toNat = 2 ∨ ord.toNat = 4)

/-- The limits of a FENCE's order and scope (15 R308). -/
def fenceOk (ord scope : BitVec 3) : Bool := decide (1 ≤ ord.toNat ∧ ord.toNat ≤ 4 ∧ scope.toNat ≤ 5)

/-- The limits of an atomic's order; a no-return form carries relaxed or release only (15 R312). -/
def atomicOrdOk (d : BitVec 5) (ord : BitVec 3) : Bool :=
  if d == 0 then decide (ord.toNat = 0 ∨ ord.toNat = 2) else decide (ord.toNat ≤ 4)

/-- The system registers SYSR may name (02 R37); 0xC is the diagnostic window, a row of its own. -/
def sysrOk (reg : BitVec 17) : Bool := decide (reg.toNat ≤ 0x10 ∧ reg.toNat ≠ 0xC)

/-- The system registers SYSW may name (02 R37); 0xC, 0xE and 0xF are rows of their own. -/
def syswOk (reg : BitVec 17) : Bool :=
  [0, 1, 3, 4, 5, 6, 0xA, 0xB, 0xD, 0x10].contains reg.toNat

/-- The token field of an engine command: an id is zero when its enable bit is 0 (03 R58). -/
def tokOk (t : BitVec 10) : Bool :=
  (t.getLsbD 9 || t.extractLsb' 5 4 == 0) && (t.getLsbD 4 || t.extractLsb' 0 4 == 0)

/-- What a VX register field names (08 R155). -/
inductive FieldUse where
  | zero | row | pair | tile | sAny | sQueue | mask | opReg | any
deriving DecidableEq, Repr

/-- The limits of a VX register field (03 R55, 08 R155). -/
def FieldUse.ok (u : FieldUse) (f : BitVec 8) : Bool :=
  match u with
  | .zero => f == 0
  | .row => decide (f.toNat ≤ 159)
  | .pair => decide (f.toNat ≤ 158)
  | .tile => decide (f.toNat ≤ 3)
  | .sAny => decide (f.toNat ≤ 31)
  | .sQueue => decide (f.toNat ≤ 31)
  | .mask => decide (f.toNat ≤ 7)
  | .opReg => decide (f.toNat ≤ 3)
  | .any => true

/-- What a function does with its mask field (08 R147, R148). -/
inductive MaskUse where
  | none | write | required
deriving DecidableEq, Repr

/-- The lanes of a row of a format code (07 R141); 0 for RAW and POISON. -/
def lanesOf (ty : Nat) : Nat :=
  match ty with
  | 1 | 2 => 256
  | 3 | 4 => 512
  | 5 | 6 | 7 | 8 => 1024
  | 9 => 1536
  | 10 | 11 => 2048
  | 12 => 8192
  | 13 => 128
  | _ => 0

/-- A format code of floating-point lanes (07 R127, R141). -/
def isFloatTy (ty : Nat) : Bool := [2, 3, 5, 6].contains ty

/-- One row of the function tables of 08 R160 and 10 R202. `pipes` is how many pipes a command holds, `hold` for how
many cycles, `lat` the latency from its start; the two are functions of the type where the table says log2 L. -/
structure VRow where
  major : Nat
  fn : Nat
  vd : FieldUse
  va : FieldUse
  vb : FieldUse
  types : List Nat
  mask : MaskUse
  pipes : Nat
  hold : Nat
  lat : Nat
deriving DecidableEq, Repr

/-- The limits of a function's aux field and of the fields that depend on it (08 R158 to R172, 10 R204 to R211). -/
def auxOk (r : VRow) (v : VxOps) : Bool :=
  let x := v.aux.toNat
  let t := v.ty.toNat
  let intTy := !isFloatTy t
  if r.major = 0x60 then
    match r.fn with
    | 0x08 | 0x09 | 0x0A | 0x0B | 0x0C | 0x0F | 0x10 => x = 0 || (x = 1 && intTy)
    | 0x1B | 0x1C | 0x1D => x = 0 || v.vb == 0
    | 0x20 => x ≤ 5 || (x = 6 && isFloatTy t)
    | 0x23 =>
      if x ≤ 3 then true else if x ≤ 5 then v.vb == 0 else x ≤ 7 && v.va == 0 && v.vb == 0
    | 0x28 => x = 0 || (x = 1 && lanesOf t = 1024)
    | 0x29 => x = 0 || v.vb == 0
    | 0x2A => true
    | 0x30 =>
      let op := x % 8
      let tysOk :=
        match op with
        | 0 => [1, 2, 3, 4, 13].contains t
        | 1 | 2 => [1, 2, 3, 4, 7, 8, 13].contains t
        | 3 | 4 | 5 => [1, 4, 7, 8, 13].contains t
        | _ => false
      tysOk && x < 16 && (x < 8 || (op = 0 && intTy))
    | 0x31 => x % 4 != 3 && x < 16 && (x < 8 || (x % 4 = 0 && intTy))
    | 0x34 => x < 4
    | 0x35 => t != 9 || v.vb == 0
    | 0x36 => true
    | 0x38 => x ≤ 1
    | 0x3C => x % 4 != 3
    | _ => x = 0
  else
    match r.fn with
    | 0x02 =>
      x < 16 && (if x < 8 then FieldUse.ok .row v.vd && FieldUse.ok .tile v.va
                 else FieldUse.ok .tile v.vd && FieldUse.ok .row v.va)
    | 0x03 => x ≤ 6 && (if x ≤ 4 then v.vb == 0 else FieldUse.ok .mask v.vb)
    | 0x0B | 0x0C => x ≤ 1
    | 0x0D => if x ≤ 3 then true else if x ≤ 5 then v.vb == 0 else x ≤ 7 && v.va == 0 && v.vb == 0
    | 0x10 => x < 8
    | _ => x = 0

/-- The mask field's limits: 0 to 7 or 15; 15 alone where the function or the type takes none (03 R55, 08 R147). -/
def maskOk (r : VRow) (v : VxOps) : Bool :=
  let m := v.mask.toNat
  let t := v.ty.toNat
  match r.mask with
  | .none => m = 15
  | .required => m ≤ 7
  | .write =>
    m = 15 || (m ≤ 7 && !([9, 10, 11, 12].contains t) && (t != 0 || r.fn = 0 || r.fn = 1))

/-- Check 3 of a VX pair under its function's row. -/
def vxOk (r : VRow) (v : VxOps) : Bool :=
  r.vd.ok v.vd && r.va.ok v.va && r.vb.ok v.vb && r.types.contains v.ty.toNat && maskOk r v && auxOk r v &&
    tokOk v.tok

/-! The rows of 08 R160. -/
def tAll : List Nat := [0, 1, 2, 3, 4, 5, 6, 7, 8, 9, 10, 11, 12, 13]
def tNum : List Nat := [1, 2, 3, 4, 5, 6, 7, 8, 13]
def tArith : List Nat := [1, 2, 3, 4, 7, 8, 13]
def tLogic : List Nat := [0, 1, 4, 7, 8, 13]
def vldRow : VRow := ⟨0x60, 0x00, .row, .sQueue, .zero, tAll, .write, 1, 1, 8⟩
def vstRow : VRow := ⟨0x60, 0x01, .zero, .sQueue, .row, tAll, .write, 1, 1, 8⟩
def vmovRow : VRow := ⟨0x60, 0x02, .row, .row, .zero, [0, 1, 2, 3, 4, 5, 6, 7, 8, 13], .write, 1, 1, 2⟩
def vbcstRow : VRow := ⟨0x60, 0x03, .row, .sAny, .zero, tNum, .write, 1, 1, 2⟩
def viotaRow : VRow := ⟨0x60, 0x04, .row, .zero, .zero, [1, 2, 4, 13], .write, 1, 1, 2⟩
def vaddRow : VRow := ⟨0x60, 0x08, .row, .row, .row, tArith, .write, 1, 1, 4⟩
def vsubRow : VRow := ⟨0x60, 0x09, .row, .row, .row, tArith, .write, 1, 1, 4⟩
def vmulRow : VRow := ⟨0x60, 0x0A, .row, .row, .row, tArith, .write, 1, 1, 5⟩
def vfmaRow : VRow := ⟨0x60, 0x0B, .row, .row, .row, tArith, .write, 1, 1, 5⟩
def vfmsRow : VRow := ⟨0x60, 0x0C, .row, .row, .row, tArith, .write, 1, 1, 5⟩
def vminRow : VRow := ⟨0x60, 0x0D, .row, .row, .row, tArith, .write, 1, 1, 4⟩
def vmaxRow : VRow := ⟨0x60, 0x0E, .row, .row, .row, tArith, .write, 1, 1, 4⟩
def vabsRow : VRow := ⟨0x60, 0x0F, .row, .row, .zero, [1, 2, 3, 4, 7, 13], .write, 1, 1, 4⟩
def vnegRow : VRow := ⟨0x60, 0x10, .row, .row, .zero, [1, 2, 3, 4, 7, 13], .write, 1, 1, 4⟩
def vdivRow : VRow := ⟨0x60, 0x11, .row, .row, .row, [2, 3], .write, 1, 4, 16⟩
def vsqrtRow : VRow := ⟨0x60, 0x12, .row, .row, .zero, [2, 3], .write, 1, 4, 16⟩
def vrsqRow : VRow := ⟨0x60, 0x13, .row, .row, .zero, [2, 3], .write, 1, 4, 16⟩
def vrcpRow : VRow := ⟨0x60, 0x14, .row, .row, .zero, [2, 3], .write, 1, 4, 16⟩
def vexp2Row : VRow := ⟨0x60, 0x15, .row, .row, .zero, [2, 3], .write, 1, 4, 16⟩
def vlog2Row : VRow := ⟨0x60, 0x16, .row, .row, .zero, [2, 3], .write, 1, 4, 16⟩
def vandRow : VRow := ⟨0x60, 0x18, .row, .row, .row, tLogic, .write, 1, 1, 4⟩
def vorRow : VRow := ⟨0x60, 0x19, .row, .row, .row, tLogic, .write, 1, 1, 4⟩
def vxorRow : VRow := ⟨0x60, 0x1A, .row, .row, .row, tLogic, .write, 1, 1, 4⟩
def vshlRow : VRow := ⟨0x60, 0x1B, .row, .row, .row, [1, 4, 7, 8, 13], .write, 1, 1, 4⟩
def vshrRow : VRow := ⟨0x60, 0x1C, .row, .row, .row, [1, 4, 7, 8, 13], .write, 1, 1, 4⟩
def vsarRow : VRow := ⟨0x60, 0x1D, .row, .row, .row, [1, 4, 7, 8, 13], .write, 1, 1, 4⟩
def vcmpRow : VRow := ⟨0x60, 0x20, .mask, .row, .row, tNum, .write, 1, 1, 4⟩
def vselRow : VRow := ⟨0x60, 0x21, .row, .row, .row, tNum, .required, 1, 1, 2⟩
def vpopRow : VRow := ⟨0x60, 0x22, .row, .mask, .zero, [1], .write, 1, 1, 4⟩
def vmlogRow : VRow := ⟨0x60, 0x23, .mask, .mask, .mask, [0], .none, 1, 1, 2⟩
def vshufRow : VRow := ⟨0x60, 0x28, .row, .row, .row, tNum, .none, 1, 1, 4⟩
def vrotRow : VRow := ⟨0x60, 0x29, .row, .row, .row, tNum, .none, 1, 1, 4⟩
def vextRow : VRow := ⟨0x60, 0x2A, .row, .row, .row, tNum, .none, 1, 1, 4⟩
def vinsRow : VRow := ⟨0x60, 0x2B, .row, .row, .row, tNum, .none, 1, 1, 4⟩
def vredRow : VRow := ⟨0x60, 0x30, .row, .row, .zero, tArith, .write, 1, 0, 0⟩
def vscanRow : VRow := ⟨0x60, 0x31, .row, .row, .zero, [1, 2, 3, 4, 13], .write, 1, 0, 0⟩
def vcvtRow : VRow := ⟨0x60, 0x34, .row, .row, .zero, tNum, .none, 1, 1, 4⟩
def vqntRow : VRow := ⟨0x60, 0x35, .row, .row, .row, [9, 10, 11], .none, 1, 2, 6⟩
def vdeqRow : VRow := ⟨0x60, 0x36, .row, .row, .row, [2, 3], .none, 1, 1, 4⟩
def vtagRow : VRow := ⟨0x60, 0x37, .row, .row, .zero, tAll ++ [15], .none, 1, 1, 2⟩
def vhadRow : VRow := ⟨0x60, 0x38, .row, .row, .zero, [2, 3], .none, 1, 0, 0⟩
def vconRow : VRow := ⟨0x60, 0x3C, .pair, .pair, .zero, [2], .none, 2, 8, 12⟩
def vopldRow : VRow := ⟨0x60, 0x3D, .opReg, .row, .zero, [2], .none, 1, 1, 2⟩

/-! The rows of 10 R202. -/
def bldRow : VRow := ⟨0x61, 0x00, .tile, .sQueue, .zero, [12], .none, 1, 8, 16⟩
def bstRow : VRow := ⟨0x61, 0x01, .zero, .sQueue, .tile, [12], .none, 1, 8, 16⟩
def browRow : VRow := ⟨0x61, 0x02, .any, .any, .zero, [12], .none, 1, 1, 4⟩
def bfillRow : VRow := ⟨0x61, 0x03, .tile, .zero, .any, [12], .none, 1, 1, 4⟩
def bpoprRow : VRow := ⟨0x61, 0x08, .row, .tile, .zero, [1], .none, 1, 2, 6⟩
def bpopcRow : VRow := ⟨0x61, 0x09, .row, .tile, .zero, [1], .none, 1, 2, 6⟩
def btrnRow : VRow := ⟨0x61, 0x0A, .tile, .tile, .zero, [12], .none, 1, 4, 8⟩
def bcompRow : VRow := ⟨0x61, 0x0B, .tile, .tile, .tile, [12], .none, 2, 32, 36⟩
def bclosRow : VRow := ⟨0x61, 0x0C, .tile, .tile, .zero, [12], .none, 2, 256, 260⟩
def blogRow : VRow := ⟨0x61, 0x0D, .tile, .tile, .tile, [12], .none, 1, 1, 2⟩
def vselbRow : VRow := ⟨0x61, 0x10, .row, .row, .sAny, tNum, .none, 1, 1, 2⟩

/-- The format codes WF and AF may hold (03 R56). -/
def isMxCode (c : BitVec 4) : Bool := [3, 5, 6, 7, 9, 10].contains c.toNat

/-- A matrix combination is floating-point when either code is (03 R56). -/
def isMxFloat (m : MxOps) : Bool := [3, 5, 6, 9].contains m.wf.toNat || [3, 5, 6, 9].contains m.af.toNat

/-- No predicates are named (03 R56). -/
def noPred (m : MxOps) : Bool := m.pe == 0 && m.pm == 0 && m.pk == 0 && m.pn == 0

def mldsOk (m : MxOps) : Bool :=
  m.row == 0 && noPred m && m.cnt == 0 && isMxCode m.wf && m.af == 0 && m.sat == 0 && tokOk m.tok
def mflipOk (m : MxOps) : Bool :=
  m.row == 0 && noPred m && m.cnt == 0 && m.wf == 0 && m.af == 0 && m.sat == 0 && m.sreg == 0 && tokOk m.tok
def mstrOk (m : MxOps) : Bool :=
  decide (m.row.toNat ≤ 159 ∧ 1 ≤ m.cnt.toNat ∧ m.cnt.toNat ≤ 160 ∧ m.row.toNat + m.cnt.toNat ≤ 160) &&
    (m.pe == 1 || noPred m) && isMxCode m.wf && isMxCode m.af && !(m.sat == 1 && isMxFloat m) && tokOk m.tok
def mzeroOk (m : MxOps) : Bool :=
  decide (m.row.toNat ≤ 159 ∧ 1 ≤ m.cnt.toNat ∧ m.cnt.toNat ≤ 160 ∧ m.row.toNat + m.cnt.toNat ≤ 160) &&
    noPred m && isMxCode m.wf && isMxCode m.af && m.sat == 0 && m.sreg == 0 && tokOk m.tok
def mpsetOk (m : MxOps) : Bool :=
  decide (m.row.toNat ≤ 7 ∧ m.cnt.toNat % 4 ≠ 3 ∧ m.cnt.toNat < 16) && noPred m && m.wf == 0 && m.af == 0 &&
    m.sat == 0 && m.sreg == 0 && tokOk m.tok
def mpgetOk (m : MxOps) : Bool := mpsetOk m
def mdrainOk (m : MxOps) : Bool := mflipOk m
def ocldOk (m : MxOps) : Bool :=
  let t := m.cnt.toNat % 16
  decide (m.row.toNat ≤ 159 ∧ 1 ≤ t ∧ t ≤ 8 ∧ (m.cnt.toNat / 16) % 4 < lanesOf t / 256 ∧ m.cnt.toNat < 64) &&
    noPred m && m.wf == 0 && m.af == 0 && m.sat == 0 && m.sreg == 0 && tokOk m.tok
def ocmpOk (m : MxOps) : Bool :=
  decide (m.row.toNat ≤ 159) && !([7, 13, 14, 15].contains (m.cnt.toNat % 16)) &&
    noPred m && m.wf == 0 && m.af == 0 && m.sat == 0 && m.sreg == 0 && tokOk m.tok

/-! The aux bits of the copy-unit commands (17 R361, R367). -/
def cpyOk (x : ExOps) : Bool := decide (x.aux.toNat < 4) && tokOk x.tok
def cpytOk (x : ExOps) : Bool := decide (x.aux.toNat < 8) && tokOk x.tok
def kvgetOk (x : ExOps) : Bool := decide (x.aux.toNat % 256 = 0 ∨ x.aux.toNat % 256 = 2) && tokOk x.tok
def kvputMode (x : ExOps) : Nat := (x.aux.toNat / 4) % 4
def kvputAuxOk (x : ExOps) : Bool := x.aux.extractLsb' 0 1 == 0 && x.aux.extractLsb' 4 4 == 0
def kvputStoreOk (x : ExOps) : Bool := kvputAuxOk x && decide (kvputMode x = 0) && tokOk x.tok
def kvputRetainOk (x : ExOps) : Bool :=
  kvputAuxOk x && decide (kvputMode x = 1) && x.aux.extractLsb' 8 8 == 0 && tokOk x.tok
def kvputReleaseOk (x : ExOps) : Bool :=
  kvputAuxOk x && decide (kvputMode x = 2) && x.aux.extractLsb' 8 8 == 0 && tokOk x.tok
def msgOk (x : ExOps) : Bool := x.aux.extractLsb' 0 1 == 0 && x.aux.extractLsb' 2 14 != 0 && tokOk x.tok
def dtldOk (x : ExOps) : Bool := decide (x.aux.toNat = 0 ∨ x.aux.toNat = 2) && tokOk x.tok

/-- The aux layout of ACAS and AADDB (03 R57). -/
def casOk (x : ExOps) : Bool :=
  let succ := x.aux.toNat / 8192
  let fail := (x.aux.toNat / 1024) % 8
  x.q == 0 && x.tok == 0 && decide (succ ≤ 4) && decide (fail = 0 ∨ fail = 1 ∨ fail = 4) &&
    x.aux.extractLsb' 0 9 == 0

end Sys2Proof
end

