-- ==== Sys2Proof/WellFormed.lean ====
section
/-! DEFINITION. Which instructions are well formed: the operand limits of check 3 (03 R51 to R61), one arm per
constructor. A step without a word has none. -/

namespace Sys2Proof

/-- The operand limits of an instruction: `true` exactly when check 3 of 03 R63 finds nothing in its fields. -/
def Instr.wellFormed (i : Instr) : Bool :=
  match i with
  | .add _ _ _ _ => true
  | .sub _ _ _ _ => true
  | .and _ _ _ _ => true
  | .or _ _ _ _ => true
  | .xor _ _ _ _ => true
  | .andn _ _ _ _ => true
  | .orn _ _ _ _ => true
  | .shl _ _ _ _ => true
  | .shr _ _ _ _ => true
  | .sar _ _ _ _ => true
  | .rotl _ _ _ _ => true
  | .min _ _ _ _ => true
  | .max _ _ _ _ => true
  | .minu _ _ _ _ => true
  | .maxu _ _ _ _ => true
  | .slt _ _ _ _ => true
  | .sltu _ _ _ _ => true
  | .seq _ _ _ _ => true
  | .sne _ _ _ _ => true
  | .mul _ _ _ _ => true
  | .mulh _ _ _ _ => true
  | .mulhu _ _ _ _ => true
  | .div _ _ _ _ => true
  | .divu _ _ _ _ => true
  | .rem _ _ _ _ => true
  | .remu _ _ _ _ => true
  | .clz _ _ _ => true
  | .ctz _ _ _ => true
  | .popc _ _ _ => true
  | .brev _ _ _ => true
  | .bswap _ _ _ => true
  | .sel _ _ _ _ _ => true
  | .addImm _ _ _ _ => true
  | .andImm _ _ _ _ => true
  | .orImm _ _ _ _ => true
  | .xorImm _ _ _ _ => true
  | .shlImm _ _ _ imm => decide (imm.toNat ≤ 63)
  | .shrImm _ _ _ imm => decide (imm.toNat ≤ 63)
  | .sarImm _ _ _ imm => decide (imm.toNat ≤ 63)
  | .rotlImm _ _ _ imm => decide (imm.toNat ≤ 63)
  | .sltImm _ _ _ _ => true
  | .sltuImm _ _ _ _ => true
  | .seqImm _ _ _ _ => true
  | .sneImm _ _ _ _ => true
  | .minImm _ _ _ _ => true
  | .maxImm _ _ _ _ => true
  | .mulImm _ _ _ _ => true
  | .exts _ _ _ w p => decide (p.toNat + (w.toNat + 1) ≤ 64)
  | .extz _ _ _ w p => decide (p.toNat + (w.toNat + 1) ≤ 64)
  | .ins _ _ _ w p => decide (p.toNat + (w.toNat + 1) ≤ 64)
  | .alignup _ _ _ _ => true
  | .lea _ _ _ _ _ => true
  | .wrap _ _ _ _ k => decide (1 ≤ k.toNat ∧ k.toNat ≤ 63)
  | .movi _ _ _ => true
  | .fcmp _ _ _ _ cond => decide (cond.toNat ≤ 5)
  | .flog _ _ fa fb op => flogFieldsOk op fa fb
  | .nul _ _ n => n != 0
  | .beq _ _ _ _ tw => tw != 0
  | .bne _ _ _ _ tw => tw != 0
  | .blt _ _ _ _ tw => tw != 0
  | .bge _ _ _ _ tw => tw != 0
  | .bltu _ _ _ _ tw => tw != 0
  | .bgeu _ _ _ _ tw => tw != 0
  | .bf _ _ _ tw => tw != 0
  | .bfN _ _ _ tw => tw != 0
  | .loop _ _ _ tw => tw != 0
  | .j _ _ tw => tw != 0
  | .jl _ _ tw => tw != 0
  | .ji _ _ _ => true
  | .ldB _ _ _ _ _ => true
  | .ldBu _ _ _ _ _ => true
  | .ldH _ _ _ _ _ => true
  | .ldHu _ _ _ _ _ => true
  | .ldW _ _ _ _ _ => true
  | .ldWu _ _ _ _ _ => true
  | .ldD _ _ _ _ _ => true
  | .stB _ _ _ _ _ => true
  | .stH _ _ _ _ _ => true
  | .stW _ _ _ _ _ => true
  | .stD _ _ _ _ _ => true
  | .ldq _ _ _ _ _ => true
  | .stq _ _ _ _ _ => true
  | .ldo _ _ _ ord sx w => ldoOk ord sx w
  | .sto _ _ _ ord _ => stoOk ord
  | .fence _ ord sco => fenceOk ord sco
  | .xfence _ mask => mask != 0
  | .aaddW _ d _ _ ord => atomicOrdOk d ord
  | .aandW _ d _ _ ord => atomicOrdOk d ord
  | .aorW _ d _ _ ord => atomicOrdOk d ord
  | .axorW _ d _ _ ord => atomicOrdOk d ord
  | .aminSW _ d _ _ ord => atomicOrdOk d ord
  | .amaxSW _ d _ _ ord => atomicOrdOk d ord
  | .aminUW _ d _ _ ord => atomicOrdOk d ord
  | .amaxUW _ d _ _ ord => atomicOrdOk d ord
  | .afaddW _ d _ _ ord => atomicOrdOk d ord
  | .aexchW _ d _ _ ord => atomicOrdOk d ord
  | .aincwW _ d _ _ ord => atomicOrdOk d ord
  | .adecwW _ d _ _ ord => atomicOrdOk d ord
  | .aaddD _ d _ _ ord => atomicOrdOk d ord
  | .aandD _ d _ _ ord => atomicOrdOk d ord
  | .aorD _ d _ _ ord => atomicOrdOk d ord
  | .axorD _ d _ _ ord => atomicOrdOk d ord
  | .aminSD _ d _ _ ord => atomicOrdOk d ord
  | .amaxSD _ d _ _ ord => atomicOrdOk d ord
  | .aminUD _ d _ _ ord => atomicOrdOk d ord
  | .amaxUD _ d _ _ ord => atomicOrdOk d ord
  | .aexchD _ d _ _ ord => atomicOrdOk d ord
  | .aincwD _ d _ _ ord => atomicOrdOk d ord
  | .adecwD _ d _ _ ord => atomicOrdOk d ord
  | .waitaW _ _ a b => keptReg a && keptRegOrZero b
  | .waitaD _ _ a b => keptReg a && keptRegOrZero b
  | .phnew _ _ _ => true
  | .phregS _ _ _ _ => true
  | .phregW _ _ _ _ => true
  | .phregSw _ _ _ _ => true
  | .phdrop _ _ => true
  | .phsig _ _ => true
  | .phwait _ a => keptReg a
  | .phnext _ a => keptReg a
  | .phlink _ _ _ _ => true
  | .phqry _ _ _ => true
  | .spawn _ _ _ _ => true
  | .spawnj _ _ _ _ => true
  | .join _ _ => true
  | .exit _ => true
  | .yield _ => true
  | .susp _ => true
  | .self _ _ => true
  | .prio _ _ _ => true
  | .evset _ _ _ => true
  | .evclr _ _ _ => true
  | .evwait _ _ _ => true
  | .evtest _ _ _ => true
  | .twait _ _ => true
  | .frameq _ _ _ => true
  | .bend _ => true
  | .scope _ _ _ _ => true
  | .cancel _ _ => true
  | .scqry _ _ _ => true
  | .scack _ _ a b => keptReg a && keptRegOrZero b
  | .tbinit _ _ _ => true
  | .tbexp _ _ _ => true
  | .tbarv _ _ _ _ => true
  | .tbwait _ _ _ _ => true
  | .tksig _ _ => true
  | .tkwait _ _ => true
  | .seghdr _ _ _ => true
  | .stgq _ _ => true
  | .stgrel _ => true
  | .parkSet _ _ _ _ => true
  | .parkClear _ _ _ _ => true
  | .parkRead _ _ _ _ => true
  | .nop _ => true
  | .eret _ => true
  | .halt _ => true
  | .brk _ => true
  | .tick _ _ => true
  | .sysr _ _ reg => sysrOk reg
  | .sysw _ _ reg => syswOk reg
  | .trap _ _ => true
  | .jrnlStore _ _ _ _ => true
  | .jrnlLoad _ _ _ _ => true
  | .jrnlAbandon _ _ _ _ => true
  | .replay _ _ => true
  | .snap _ _ => true
  | .ckptClose _ _ _ => true
  | .ckptRollback _ _ _ => true
  | .ckptQuery _ _ _ => true
  | .tlbinv _ _ _ => true
  | .vld _ v => vxOk vldRow v
  | .vst _ v => vxOk vstRow v
  | .vmov _ v => vxOk vmovRow v
  | .vbcst _ v => vxOk vbcstRow v
  | .viota _ v => vxOk viotaRow v
  | .vadd _ v => vxOk vaddRow v
  | .vsub _ v => vxOk vsubRow v
  | .vmul _ v => vxOk vmulRow v
  | .vfma _ v => vxOk vfmaRow v
  | .vfms _ v => vxOk vfmsRow v
  | .vmin _ v => vxOk vminRow v
  | .vmax _ v => vxOk vmaxRow v
  | .vabs _ v => vxOk vabsRow v
  | .vneg _ v => vxOk vnegRow v
  | .vdiv _ v => vxOk vdivRow v
  | .vsqrt _ v => vxOk vsqrtRow v
  | .vrsq _ v => vxOk vrsqRow v
  | .vrcp _ v => vxOk vrcpRow v
  | .vexp2 _ v => vxOk vexp2Row v
  | .vlog2 _ v => vxOk vlog2Row v
  | .vand _ v => vxOk vandRow v
  | .vor _ v => vxOk vorRow v
  | .vxor _ v => vxOk vxorRow v
  | .vshl _ v => vxOk vshlRow v
  | .vshr _ v => vxOk vshrRow v
  | .vsar _ v => vxOk vsarRow v
  | .vcmp _ v => vxOk vcmpRow v
  | .vsel _ v => vxOk vselRow v
  | .vpop _ v => vxOk vpopRow v
  | .vmlog _ v => vxOk vmlogRow v
  | .vshuf _ v => vxOk vshufRow v
  | .vrot _ v => vxOk vrotRow v
  | .vext _ v => vxOk vextRow v
  | .vins _ v => vxOk vinsRow v
  | .vred _ v => vxOk vredRow v
  | .vscan _ v => vxOk vscanRow v
  | .vcvt _ v => vxOk vcvtRow v
  | .vqnt _ v => vxOk vqntRow v
  | .vdeq _ v => vxOk vdeqRow v
  | .vtag _ v => vxOk vtagRow v
  | .vhad _ v => vxOk vhadRow v
  | .vcon _ v => vxOk vconRow v
  | .vopld _ v => vxOk vopldRow v
  | .bld _ v => vxOk bldRow v
  | .bst _ v => vxOk bstRow v
  | .brow _ v => vxOk browRow v
  | .bfill _ v => vxOk bfillRow v
  | .bpopr _ v => vxOk bpoprRow v
  | .bpopc _ v => vxOk bpopcRow v
  | .btrn _ v => vxOk btrnRow v
  | .bcomp _ v => vxOk bcompRow v
  | .bclos _ v => vxOk bclosRow v
  | .blog _ v => vxOk blogRow v
  | .vselb _ v => vxOk vselbRow v
  | .mlds _ m => mldsOk m
  | .mflip _ m => mflipOk m
  | .mstr _ m => mstrOk m
  | .mzero _ m => mzeroOk m
  | .mpset _ m => mpsetOk m
  | .mpget _ m => mpgetOk m
  | .mdrain _ m => mdrainOk m
  | .ocld _ m => ocldOk m
  | .ocmp _ m => ocmpOk m
  | .cpy _ x => cpyOk x
  | .cpyt _ x => cpytOk x
  | .kvget _ x => kvgetOk x
  | .kvputStore _ x => kvputStoreOk x
  | .kvputRetain _ x => kvputRetainOk x
  | .kvputRelease _ x => kvputReleaseOk x
  | .msg _ x => msgOk x
  | .dtld _ x => dtldOk x
  | .acas _ x => casOk x
  | .aaddb _ x => casOk x
  | .movl _ _ _ => true
  | .lhi _ _ _ => true
  | .diagdRead _ _ => true
  | .diagdWrite _ _ => true
  | .errorLogClear _ _ => true
  | .snapArm _ _ => true
  | .einjArm _ _ => true
  | .snapExternalTrigger => true
  | .powerUpReset => true
  | .fwDownload => true
  | .dispatcherElection => true
  | .leaderFailover => true
  | .launchRecordRead => true
  | .indexGrant => true
  | .launchPoolRetry => true
  | .launchCompletion => true
  | .eventsClear _ => true
  | .attestRequest _ => true
  | .frameset _ => true
  | .coreRestart => true
  | .frameModeEnable => true
  | .frameModeDisable => true
  | .graftDeclare => true
  | .graftRelease => true
  | .graftTrainTimeout => true
  | .swapGo => true
  | .swapPause => true
  | .swapResume => true
  | .mgmtRegWrite _ _ => true
  | .heartbeatSend => true
  | .heartbeatTimeout => true
  | .packagePowerLoss => true
  | .linkFlitReceive _ _ _ => true
  | .linkRetrain => true
  | .retrainComplete => true
  | .segmentArrival => true
  | .refillComplete => true
  | .ringSlotForward => true
  | .decodeStart => true
  | .decodeComplete => true
  | .segmentCurrent => true
  | .computeFrameEnd => true
  | .timetableRelease => true
  | .entrySlip => true
  | .lateAccessPause => true
  | .lateAccessResume => true
  | .blockCheck => true
  | .holdDrop => true
  | .strandPickup => true
  | .suspensionComplete => true
  | .eventOverflowScan => true
  | .spillRefill => true
  | .placementRetry => true
  | .preemptTrigger => true
  | .preemptDrainEnd => true
  | .pollWake => true
  | .killPointStop => true
  | .trapEntry => true
  | .hangTimeout => true
  | .codeLineFill => true
  | .variableResultLand => true
  | .translationWalk _ => true
  | .routerMergeDepart => true
  | .eccScrub => true
  | .vectorCommandStart => true
  | .vectorCommandLand => true
  | .matrixCommandStart => true
  | .matrixCommandComplete => true
  | .copyCommandStart => true
  | .copySettle => true
  | .tbwaitPoll => true
  | .messageDelivery _ => true
  | .kvOwnerLookup _ => true
  | .accessPerformed => true
  | .tier1RemoteAccess _ => true
  | .mirrorDieFailure => true

/-- The instruction has a word of its own that decodes to it. A step of the table without a word has none, and
seven rows share the word of another row and are told apart by a register's value when they run
(18 R399, 20 R419, R422, R427). -/
def Instr.hasWord (i : Instr) : Bool :=
  match i with
  | .add _ _ _ _ => true
  | .sub _ _ _ _ => true
  | .and _ _ _ _ => true
  | .or _ _ _ _ => true
  | .xor _ _ _ _ => true
  | .andn _ _ _ _ => true
  | .orn _ _ _ _ => true
  | .shl _ _ _ _ => true
  | .shr _ _ _ _ => true
  | .sar _ _ _ _ => true
  | .rotl _ _ _ _ => true
  | .min _ _ _ _ => true
  | .max _ _ _ _ => true
  | .minu _ _ _ _ => true
  | .maxu _ _ _ _ => true
  | .slt _ _ _ _ => true
  | .sltu _ _ _ _ => true
  | .seq _ _ _ _ => true
  | .sne _ _ _ _ => true
  | .mul _ _ _ _ => true
  | .mulh _ _ _ _ => true
  | .mulhu _ _ _ _ => true
  | .div _ _ _ _ => true
  | .divu _ _ _ _ => true
  | .rem _ _ _ _ => true
  | .remu _ _ _ _ => true
  | .clz _ _ _ => true
  | .ctz _ _ _ => true
  | .popc _ _ _ => true
  | .brev _ _ _ => true
  | .bswap _ _ _ => true
  | .sel _ _ _ _ _ => true
  | .addImm _ _ _ _ => true
  | .andImm _ _ _ _ => true
  | .orImm _ _ _ _ => true
  | .xorImm _ _ _ _ => true
  | .shlImm _ _ _ _ => true
  | .shrImm _ _ _ _ => true
  | .sarImm _ _ _ _ => true
  | .rotlImm _ _ _ _ => true
  | .sltImm _ _ _ _ => true
  | .sltuImm _ _ _ _ => true
  | .seqImm _ _ _ _ => true
  | .sneImm _ _ _ _ => true
  | .minImm _ _ _ _ => true
  | .maxImm _ _ _ _ => true
  | .mulImm _ _ _ _ => true
  | .exts _ _ _ _ _ => true
  | .extz _ _ _ _ _ => true
  | .ins _ _ _ _ _ => true
  | .alignup _ _ _ _ => true
  | .lea _ _ _ _ _ => true
  | .wrap _ _ _ _ _ => true
  | .movi _ _ _ => true
  | .fcmp _ _ _ _ _ => true
  | .flog _ _ _ _ _ => true
  | .nul _ _ _ => true
  | .beq _ _ _ _ _ => true
  | .bne _ _ _ _ _ => true
  | .blt _ _ _ _ _ => true
  | .bge _ _ _ _ _ => true
  | .bltu _ _ _ _ _ => true
  | .bgeu _ _ _ _ _ => true
  | .bf _ _ _ _ => true
  | .bfN _ _ _ _ => true
  | .loop _ _ _ _ => true
  | .j _ _ _ => true
  | .jl _ _ _ => true
  | .ji _ _ _ => true
  | .ldB _ _ _ _ _ => true
  | .ldBu _ _ _ _ _ => true
  | .ldH _ _ _ _ _ => true
  | .ldHu _ _ _ _ _ => true
  | .ldW _ _ _ _ _ => true
  | .ldWu _ _ _ _ _ => true
  | .ldD _ _ _ _ _ => true
  | .stB _ _ _ _ _ => true
  | .stH _ _ _ _ _ => true
  | .stW _ _ _ _ _ => true
  | .stD _ _ _ _ _ => true
  | .ldq _ _ _ _ _ => true
  | .stq _ _ _ _ _ => true
  | .ldo _ _ _ _ _ _ => true
  | .sto _ _ _ _ _ => true
  | .fence _ _ _ => true
  | .xfence _ _ => true
  | .aaddW _ _ _ _ _ => true
  | .aandW _ _ _ _ _ => true
  | .aorW _ _ _ _ _ => true
  | .axorW _ _ _ _ _ => true
  | .aminSW _ _ _ _ _ => true
  | .amaxSW _ _ _ _ _ => true
  | .aminUW _ _ _ _ _ => true
  | .amaxUW _ _ _ _ _ => true
  | .afaddW _ _ _ _ _ => true
  | .aexchW _ _ _ _ _ => true
  | .aincwW _ _ _ _ _ => true
  | .adecwW _ _ _ _ _ => true
  | .aaddD _ _ _ _ _ => true
  | .aandD _ _ _ _ _ => true
  | .aorD _ _ _ _ _ => true
  | .axorD _ _ _ _ _ => true
  | .aminSD _ _ _ _ _ => true
  | .amaxSD _ _ _ _ _ => true
  | .aminUD _ _ _ _ _ => true
  | .amaxUD _ _ _ _ _ => true
  | .aexchD _ _ _ _ _ => true
  | .aincwD _ _ _ _ _ => true
  | .adecwD _ _ _ _ _ => true
  | .waitaW _ _ _ _ => true
  | .waitaD _ _ _ _ => true
  | .phnew _ _ _ => true
  | .phregS _ _ _ _ => true
  | .phregW _ _ _ _ => true
  | .phregSw _ _ _ _ => true
  | .phdrop _ _ => true
  | .phsig _ _ => true
  | .phwait _ _ => true
  | .phnext _ _ => true
  | .phlink _ _ _ _ => true
  | .phqry _ _ _ => true
  | .spawn _ _ _ _ => true
  | .spawnj _ _ _ _ => true
  | .join _ _ => true
  | .exit _ => true
  | .yield _ => true
  | .susp _ => true
  | .self _ _ => true
  | .prio _ _ _ => true
  | .evset _ _ _ => true
  | .evclr _ _ _ => true
  | .evwait _ _ _ => true
  | .evtest _ _ _ => true
  | .twait _ _ => true
  | .frameq _ _ _ => true
  | .bend _ => true
  | .scope _ _ _ _ => true
  | .cancel _ _ => true
  | .scqry _ _ _ => true
  | .scack _ _ _ _ => true
  | .tbinit _ _ _ => true
  | .tbexp _ _ _ => true
  | .tbarv _ _ _ _ => true
  | .tbwait _ _ _ _ => true
  | .tksig _ _ => true
  | .tkwait _ _ => true
  | .seghdr _ _ _ => true
  | .stgq _ _ => true
  | .stgrel _ => true
  | .parkSet _ _ _ _ => true
  | .parkClear _ _ _ _ => false
  | .parkRead _ _ _ _ => false
  | .nop _ => true
  | .eret _ => true
  | .halt _ => true
  | .brk _ => true
  | .tick _ _ => true
  | .sysr _ _ _ => true
  | .sysw _ _ _ => true
  | .trap _ _ => true
  | .jrnlStore _ _ _ _ => true
  | .jrnlLoad _ _ _ _ => false
  | .jrnlAbandon _ _ _ _ => false
  | .replay _ _ => true
  | .snap _ _ => true
  | .ckptClose _ _ _ => true
  | .ckptRollback _ _ _ => false
  | .ckptQuery _ _ _ => false
  | .tlbinv _ _ _ => true
  | .vld _ _ => true
  | .vst _ _ => true
  | .vmov _ _ => true
  | .vbcst _ _ => true
  | .viota _ _ => true
  | .vadd _ _ => true
  | .vsub _ _ => true
  | .vmul _ _ => true
  | .vfma _ _ => true
  | .vfms _ _ => true
  | .vmin _ _ => true
  | .vmax _ _ => true
  | .vabs _ _ => true
  | .vneg _ _ => true
  | .vdiv _ _ => true
  | .vsqrt _ _ => true
  | .vrsq _ _ => true
  | .vrcp _ _ => true
  | .vexp2 _ _ => true
  | .vlog2 _ _ => true
  | .vand _ _ => true
  | .vor _ _ => true
  | .vxor _ _ => true
  | .vshl _ _ => true
  | .vshr _ _ => true
  | .vsar _ _ => true
  | .vcmp _ _ => true
  | .vsel _ _ => true
  | .vpop _ _ => true
  | .vmlog _ _ => true
  | .vshuf _ _ => true
  | .vrot _ _ => true
  | .vext _ _ => true
  | .vins _ _ => true
  | .vred _ _ => true
  | .vscan _ _ => true
  | .vcvt _ _ => true
  | .vqnt _ _ => true
  | .vdeq _ _ => true
  | .vtag _ _ => true
  | .vhad _ _ => true
  | .vcon _ _ => true
  | .vopld _ _ => true
  | .bld _ _ => true
  | .bst _ _ => true
  | .brow _ _ => true
  | .bfill _ _ => true
  | .bpopr _ _ => true
  | .bpopc _ _ => true
  | .btrn _ _ => true
  | .bcomp _ _ => true
  | .bclos _ _ => true
  | .blog _ _ => true
  | .vselb _ _ => true
  | .mlds _ _ => true
  | .mflip _ _ => true
  | .mstr _ _ => true
  | .mzero _ _ => true
  | .mpset _ _ => true
  | .mpget _ _ => true
  | .mdrain _ _ => true
  | .ocld _ _ => true
  | .ocmp _ _ => true
  | .cpy _ _ => true
  | .cpyt _ _ => true
  | .kvget _ _ => true
  | .kvputStore _ _ => true
  | .kvputRetain _ _ => true
  | .kvputRelease _ _ => true
  | .msg _ _ => true
  | .dtld _ _ => true
  | .acas _ _ => true
  | .aaddb _ _ => true
  | .movl _ _ _ => true
  | .lhi _ _ _ => true
  | .diagdRead _ _ => true
  | .diagdWrite _ _ => true
  | .errorLogClear _ _ => false
  | .snapArm _ _ => true
  | .einjArm _ _ => true
  | .snapExternalTrigger => false
  | .powerUpReset => false
  | .fwDownload => false
  | .dispatcherElection => false
  | .leaderFailover => false
  | .launchRecordRead => false
  | .indexGrant => false
  | .launchPoolRetry => false
  | .launchCompletion => false
  | .eventsClear _ => false
  | .attestRequest _ => false
  | .frameset _ => false
  | .coreRestart => false
  | .frameModeEnable => false
  | .frameModeDisable => false
  | .graftDeclare => false
  | .graftRelease => false
  | .graftTrainTimeout => false
  | .swapGo => false
  | .swapPause => false
  | .swapResume => false
  | .mgmtRegWrite _ _ => false
  | .heartbeatSend => false
  | .heartbeatTimeout => false
  | .packagePowerLoss => false
  | .linkFlitReceive _ _ _ => false
  | .linkRetrain => false
  | .retrainComplete => false
  | .segmentArrival => false
  | .refillComplete => false
  | .ringSlotForward => false
  | .decodeStart => false
  | .decodeComplete => false
  | .segmentCurrent => false
  | .computeFrameEnd => false
  | .timetableRelease => false
  | .entrySlip => false
  | .lateAccessPause => false
  | .lateAccessResume => false
  | .blockCheck => false
  | .holdDrop => false
  | .strandPickup => false
  | .suspensionComplete => false
  | .eventOverflowScan => false
  | .spillRefill => false
  | .placementRetry => false
  | .preemptTrigger => false
  | .preemptDrainEnd => false
  | .pollWake => false
  | .killPointStop => false
  | .trapEntry => false
  | .hangTimeout => false
  | .codeLineFill => false
  | .variableResultLand => false
  | .translationWalk _ => false
  | .routerMergeDepart => false
  | .eccScrub => false
  | .vectorCommandStart => false
  | .vectorCommandLand => false
  | .matrixCommandStart => false
  | .matrixCommandComplete => false
  | .copyCommandStart => false
  | .copySettle => false
  | .tbwaitPoll => false
  | .messageDelivery _ => false
  | .kvOwnerLookup _ => false
  | .accessPerformed => false
  | .tier1RemoteAccess _ => false
  | .mirrorDieFailure => false

end Sys2Proof
end

