-- ==== Sys2Proof/Decode.lean ====
section
/-! DEFINITION. The decoder, total on any bytes, and the encoder written from the same encoding tables
(03 R47 to R61, and the word layouts of each chapter). -/

namespace Sys2Proof

/-- Why a word is refused at check 3 of 03 R63; every one of them traps ILL. Two more say that the bytes are no
whole instruction. -/
inductive Reject where
  /-- The major opcode is not assigned (R59). -/
  | unassignedMajor
  /-- The minor or function is not assigned (R60). -/
  | unassignedMinor
  /-- A reserved or unused field is nonzero (R60). -/
  | reservedField
  /-- An operand field breaks its limits (R51 to R61). -/
  | operandLimit
  /-- Fewer bytes than the instruction has. -/
  | truncated
deriving DecidableEq, Repr

/-- An instruction whose reserved fields must satisfy `c`. -/
def need (c : Bool) (i : Instr) : Except Reject Instr := if c then .ok i else .error .reservedField

/-- The major opcode of a first word (R47). -/
def majorOf (w : InstrWord) : Nat := (w.extractLsb' 25 7).toNat

/-- Majors from 0x60 to 0x7E are long (R48). -/
def isLongMajor (w : InstrWord) : Bool := decide (0x60 ≤ majorOf w ∧ majorOf w ≤ 0x7E)

/-- An assigned long major: its second word is examined (R59, R64). -/
def isAssignedLong (w : InstrWord) : Bool := decide (0x60 ≤ majorOf w ∧ majorOf w ≤ 0x65)

/-- Major 0x01, scalar arithmetic (R60). -/
def decodeArith (w : InstrWord) : Except Reject Instr :=
  match (w.extractLsb' 0 7).toNat with
  | 0x0 => .ok (.add (w.extractLsb' 22 3) (w.extractLsb' 17 5) (w.extractLsb' 12 5) (w.extractLsb' 7 5))
  | 0x1 => .ok (.sub (w.extractLsb' 22 3) (w.extractLsb' 17 5) (w.extractLsb' 12 5) (w.extractLsb' 7 5))
  | 0x2 => .ok (.and (w.extractLsb' 22 3) (w.extractLsb' 17 5) (w.extractLsb' 12 5) (w.extractLsb' 7 5))
  | 0x3 => .ok (.or (w.extractLsb' 22 3) (w.extractLsb' 17 5) (w.extractLsb' 12 5) (w.extractLsb' 7 5))
  | 0x4 => .ok (.xor (w.extractLsb' 22 3) (w.extractLsb' 17 5) (w.extractLsb' 12 5) (w.extractLsb' 7 5))
  | 0x5 => .ok (.andn (w.extractLsb' 22 3) (w.extractLsb' 17 5) (w.extractLsb' 12 5) (w.extractLsb' 7 5))
  | 0x6 => .ok (.orn (w.extractLsb' 22 3) (w.extractLsb' 17 5) (w.extractLsb' 12 5) (w.extractLsb' 7 5))
  | 0x8 => .ok (.shl (w.extractLsb' 22 3) (w.extractLsb' 17 5) (w.extractLsb' 12 5) (w.extractLsb' 7 5))
  | 0x9 => .ok (.shr (w.extractLsb' 22 3) (w.extractLsb' 17 5) (w.extractLsb' 12 5) (w.extractLsb' 7 5))
  | 0xa => .ok (.sar (w.extractLsb' 22 3) (w.extractLsb' 17 5) (w.extractLsb' 12 5) (w.extractLsb' 7 5))
  | 0xb => .ok (.rotl (w.extractLsb' 22 3) (w.extractLsb' 17 5) (w.extractLsb' 12 5) (w.extractLsb' 7 5))
  | 0x10 => .ok (.min (w.extractLsb' 22 3) (w.extractLsb' 17 5) (w.extractLsb' 12 5) (w.extractLsb' 7 5))
  | 0x11 => .ok (.max (w.extractLsb' 22 3) (w.extractLsb' 17 5) (w.extractLsb' 12 5) (w.extractLsb' 7 5))
  | 0x12 => .ok (.minu (w.extractLsb' 22 3) (w.extractLsb' 17 5) (w.extractLsb' 12 5) (w.extractLsb' 7 5))
  | 0x13 => .ok (.maxu (w.extractLsb' 22 3) (w.extractLsb' 17 5) (w.extractLsb' 12 5) (w.extractLsb' 7 5))
  | 0x18 => .ok (.slt (w.extractLsb' 22 3) (w.extractLsb' 17 5) (w.extractLsb' 12 5) (w.extractLsb' 7 5))
  | 0x19 => .ok (.sltu (w.extractLsb' 22 3) (w.extractLsb' 17 5) (w.extractLsb' 12 5) (w.extractLsb' 7 5))
  | 0x1a => .ok (.seq (w.extractLsb' 22 3) (w.extractLsb' 17 5) (w.extractLsb' 12 5) (w.extractLsb' 7 5))
  | 0x1b => .ok (.sne (w.extractLsb' 22 3) (w.extractLsb' 17 5) (w.extractLsb' 12 5) (w.extractLsb' 7 5))
  | 0x20 => .ok (.mul (w.extractLsb' 22 3) (w.extractLsb' 17 5) (w.extractLsb' 12 5) (w.extractLsb' 7 5))
  | 0x21 => .ok (.mulh (w.extractLsb' 22 3) (w.extractLsb' 17 5) (w.extractLsb' 12 5) (w.extractLsb' 7 5))
  | 0x22 => .ok (.mulhu (w.extractLsb' 22 3) (w.extractLsb' 17 5) (w.extractLsb' 12 5) (w.extractLsb' 7 5))
  | 0x28 => .ok (.div (w.extractLsb' 22 3) (w.extractLsb' 17 5) (w.extractLsb' 12 5) (w.extractLsb' 7 5))
  | 0x29 => .ok (.divu (w.extractLsb' 22 3) (w.extractLsb' 17 5) (w.extractLsb' 12 5) (w.extractLsb' 7 5))
  | 0x2a => .ok (.rem (w.extractLsb' 22 3) (w.extractLsb' 17 5) (w.extractLsb' 12 5) (w.extractLsb' 7 5))
  | 0x2b => .ok (.remu (w.extractLsb' 22 3) (w.extractLsb' 17 5) (w.extractLsb' 12 5) (w.extractLsb' 7 5))
  | 0x30 => need (w.extractLsb' 7 5 == 0) (.clz (w.extractLsb' 22 3) (w.extractLsb' 17 5) (w.extractLsb' 12 5))
  | 0x31 => need (w.extractLsb' 7 5 == 0) (.ctz (w.extractLsb' 22 3) (w.extractLsb' 17 5) (w.extractLsb' 12 5))
  | 0x32 => need (w.extractLsb' 7 5 == 0) (.popc (w.extractLsb' 22 3) (w.extractLsb' 17 5) (w.extractLsb' 12 5))
  | 0x33 => need (w.extractLsb' 7 5 == 0) (.brev (w.extractLsb' 22 3) (w.extractLsb' 17 5) (w.extractLsb' 12 5))
  | 0x34 => need (w.extractLsb' 7 5 == 0) (.bswap (w.extractLsb' 22 3) (w.extractLsb' 17 5) (w.extractLsb' 12 5))
  | k =>
    if k / 8 = 7 then .ok (.sel (w.extractLsb' 22 3) (w.extractLsb' 0 3) (w.extractLsb' 17 5) (w.extractLsb' 12 5) (w.extractLsb' 7 5)) else .error .unassignedMinor

/-- Major 0x45, WAITA; a k other than 2 and 3 breaks a limit (R60). -/
def decodeWaita (w : InstrWord) : Except Reject Instr :=
  match (w.extractLsb' 0 7).toNat with
  | 0x2 => .ok (.waitaW (w.extractLsb' 22 3) (w.extractLsb' 17 5) (w.extractLsb' 12 5) (w.extractLsb' 7 5))
  | 0x3 => .ok (.waitaD (w.extractLsb' 22 3) (w.extractLsb' 17 5) (w.extractLsb' 12 5) (w.extractLsb' 7 5))
  | _ => .error .unassignedMinor

/-- Major 0x46, phasers (R61, 15 R328). -/
def decodePhaser (w : InstrWord) : Except Reject Instr :=
  match (w.extractLsb' 0 7).toNat with
  | 0x0 => need (w.extractLsb' 7 5 == 0) (.phnew (w.extractLsb' 22 3) (w.extractLsb' 17 5) (w.extractLsb' 12 5))
  | 0x1 => .ok (.phregS (w.extractLsb' 22 3) (w.extractLsb' 17 5) (w.extractLsb' 12 5) (w.extractLsb' 7 5))
  | 0x2 => .ok (.phregW (w.extractLsb' 22 3) (w.extractLsb' 17 5) (w.extractLsb' 12 5) (w.extractLsb' 7 5))
  | 0x3 => .ok (.phregSw (w.extractLsb' 22 3) (w.extractLsb' 17 5) (w.extractLsb' 12 5) (w.extractLsb' 7 5))
  | 0x4 => need (w.extractLsb' 17 5 == 0 && w.extractLsb' 7 5 == 0) (.phdrop (w.extractLsb' 22 3) (w.extractLsb' 12 5))
  | 0x5 => need (w.extractLsb' 17 5 == 0 && w.extractLsb' 7 5 == 0) (.phsig (w.extractLsb' 22 3) (w.extractLsb' 12 5))
  | 0x6 => need (w.extractLsb' 17 5 == 0 && w.extractLsb' 7 5 == 0) (.phwait (w.extractLsb' 22 3) (w.extractLsb' 12 5))
  | 0x7 => need (w.extractLsb' 17 5 == 0 && w.extractLsb' 7 5 == 0) (.phnext (w.extractLsb' 22 3) (w.extractLsb' 12 5))
  | 0x8 => .ok (.phlink (w.extractLsb' 22 3) (w.extractLsb' 17 5) (w.extractLsb' 12 5) (w.extractLsb' 7 5))
  | 0x9 => need (w.extractLsb' 7 5 == 0) (.phqry (w.extractLsb' 22 3) (w.extractLsb' 17 5) (w.extractLsb' 12 5))
  | _ => .error .unassignedMinor

/-- Major 0x48, strands and events (R61, 11 R231). -/
def decodeStrand (w : InstrWord) : Except Reject Instr :=
  match (w.extractLsb' 0 7).toNat with
  | 0x0 => .ok (.spawn (w.extractLsb' 22 3) (w.extractLsb' 17 5) (w.extractLsb' 12 5) (w.extractLsb' 7 5))
  | 0x1 => .ok (.spawnj (w.extractLsb' 22 3) (w.extractLsb' 17 5) (w.extractLsb' 12 5) (w.extractLsb' 7 5))
  | 0x2 => need (w.extractLsb' 17 5 == 0 && w.extractLsb' 7 5 == 0) (.join (w.extractLsb' 22 3) (w.extractLsb' 12 5))
  | 0x3 => need (w.extractLsb' 17 5 == 0 && w.extractLsb' 12 5 == 0 && w.extractLsb' 7 5 == 0) (.exit (w.extractLsb' 22 3))
  | 0x4 => need (w.extractLsb' 17 5 == 0 && w.extractLsb' 12 5 == 0 && w.extractLsb' 7 5 == 0) (.yield (w.extractLsb' 22 3))
  | 0x5 => need (w.extractLsb' 17 5 == 0 && w.extractLsb' 12 5 == 0 && w.extractLsb' 7 5 == 0) (.susp (w.extractLsb' 22 3))
  | 0x6 => need (w.extractLsb' 12 5 == 0 && w.extractLsb' 7 5 == 0) (.self (w.extractLsb' 22 3) (w.extractLsb' 17 5))
  | 0x7 => need (w.extractLsb' 7 5 == 0) (.prio (w.extractLsb' 22 3) (w.extractLsb' 17 5) (w.extractLsb' 12 5))
  | 0x8 => need (w.extractLsb' 17 5 == 0) (.evset (w.extractLsb' 22 3) (w.extractLsb' 12 5) (w.extractLsb' 7 5))
  | 0x9 => need (w.extractLsb' 17 5 == 0) (.evclr (w.extractLsb' 22 3) (w.extractLsb' 12 5) (w.extractLsb' 7 5))
  | 0xa => need (w.extractLsb' 17 5 == 0) (.evwait (w.extractLsb' 22 3) (w.extractLsb' 12 5) (w.extractLsb' 7 5))
  | 0xb => need (w.extractLsb' 7 5 == 0) (.evtest (w.extractLsb' 22 3) (w.extractLsb' 17 5) (w.extractLsb' 12 5))
  | _ => .error .unassignedMinor

/-- Major 0x49, timetables and scopes (R61, 12 R256). -/
def decodeFrame (w : InstrWord) : Except Reject Instr :=
  match (w.extractLsb' 0 7).toNat with
  | 0x0 => need (w.extractLsb' 17 5 == 0 && w.extractLsb' 7 5 == 0) (.twait (w.extractLsb' 22 3) (w.extractLsb' 12 5))
  | 0x1 => need (w.extractLsb' 7 5 == 0) (.frameq (w.extractLsb' 22 3) (w.extractLsb' 17 5) (w.extractLsb' 12 5))
  | 0x2 => need (w.extractLsb' 17 5 == 0 && w.extractLsb' 12 5 == 0 && w.extractLsb' 7 5 == 0) (.bend (w.extractLsb' 22 3))
  | 0x3 => .ok (.scope (w.extractLsb' 22 3) (w.extractLsb' 17 5) (w.extractLsb' 12 5) (w.extractLsb' 7 5))
  | 0x4 => need (w.extractLsb' 17 5 == 0 && w.extractLsb' 7 5 == 0) (.cancel (w.extractLsb' 22 3) (w.extractLsb' 12 5))
  | 0x5 => need (w.extractLsb' 7 5 == 0) (.scqry (w.extractLsb' 22 3) (w.extractLsb' 17 5) (w.extractLsb' 12 5))
  | 0x6 => .ok (.scack (w.extractLsb' 22 3) (w.extractLsb' 17 5) (w.extractLsb' 12 5) (w.extractLsb' 7 5))
  | _ => .error .unassignedMinor

/-- Major 0x4A, barriers and tokens (R61, 17 R355). -/
def decodeBarrier (w : InstrWord) : Except Reject Instr :=
  match (w.extractLsb' 0 7).toNat with
  | 0x0 => need (w.extractLsb' 17 5 == 0) (.tbinit (w.extractLsb' 22 3) (w.extractLsb' 12 5) (w.extractLsb' 7 5))
  | 0x1 => need (w.extractLsb' 17 5 == 0) (.tbexp (w.extractLsb' 22 3) (w.extractLsb' 12 5) (w.extractLsb' 7 5))
  | 0x2 => .ok (.tbarv (w.extractLsb' 22 3) (w.extractLsb' 17 5) (w.extractLsb' 12 5) (w.extractLsb' 7 5))
  | 0x3 => .ok (.tbwait (w.extractLsb' 22 3) (w.extractLsb' 17 5) (w.extractLsb' 12 5) (w.extractLsb' 7 5))
  | k =>
    if k / 16 = 1 then need (w.extractLsb' 7 15 == 0) (.tksig (w.extractLsb' 22 3) (w.extractLsb' 0 4))
    else if k / 16 = 2 then need (w.extractLsb' 7 15 == 0) (.tkwait (w.extractLsb' 22 3) (w.extractLsb' 0 4)) else .error .unassignedMinor

/-- Major 0x4B, staging (R61, 18 R395). -/
def decodeStaging (w : InstrWord) : Except Reject Instr :=
  match (w.extractLsb' 0 7).toNat with
  | 0x0 => need (w.extractLsb' 7 5 == 0) (.seghdr (w.extractLsb' 22 3) (w.extractLsb' 17 5) (w.extractLsb' 12 5))
  | 0x1 => need (w.extractLsb' 19 3 == 0 && w.extractLsb' 7 10 == 0) (.stgq (w.extractLsb' 22 3) (w.extractLsb' 17 2))
  | 0x2 => need (w.extractLsb' 17 5 == 0 && w.extractLsb' 12 5 == 0 && w.extractLsb' 7 5 == 0) (.stgrel (w.extractLsb' 22 3))
  | 0x3 => .ok (.parkSet (w.extractLsb' 22 3) (w.extractLsb' 17 5) (w.extractLsb' 12 5) (w.extractLsb' 7 5))
  | _ => .error .unassignedMinor

/-- Major 0x4C, NOP, ERET, HALT, BRK, TICK (R61). -/
def decodeSystem (w : InstrWord) : Except Reject Instr :=
  match (w.extractLsb' 0 7).toNat with
  | 0x0 => need (w.extractLsb' 17 5 == 0 && w.extractLsb' 12 5 == 0 && w.extractLsb' 7 5 == 0) (.nop (w.extractLsb' 22 3))
  | 0x1 => need (w.extractLsb' 17 5 == 0 && w.extractLsb' 12 5 == 0 && w.extractLsb' 7 5 == 0) (.eret (w.extractLsb' 22 3))
  | 0x2 => need (w.extractLsb' 17 5 == 0 && w.extractLsb' 12 5 == 0 && w.extractLsb' 7 5 == 0) (.halt (w.extractLsb' 22 3))
  | 0x3 => need (w.extractLsb' 17 5 == 0 && w.extractLsb' 12 5 == 0 && w.extractLsb' 7 5 == 0) (.brk (w.extractLsb' 22 3))
  | 0x4 => need (w.extractLsb' 12 5 == 0 && w.extractLsb' 7 5 == 0) (.tick (w.extractLsb' 22 3) (w.extractLsb' 17 5))
  | _ => .error .unassignedMinor

/-- Major 0x50, journal, snapshot, checkpoint, translation (R61, 20). -/
def decodeJournal (w : InstrWord) : Except Reject Instr :=
  match (w.extractLsb' 0 7).toNat with
  | 0x0 => .ok (.jrnlStore (w.extractLsb' 22 3) (w.extractLsb' 17 5) (w.extractLsb' 12 5) (w.extractLsb' 7 5))
  | 0x1 => need (w.extractLsb' 12 5 == 0 && w.extractLsb' 7 5 == 0) (.replay (w.extractLsb' 22 3) (w.extractLsb' 17 5))
  | 0x2 => need (w.extractLsb' 12 5 == 0 && w.extractLsb' 7 5 == 0) (.snap (w.extractLsb' 22 3) (w.extractLsb' 17 5))
  | 0x3 => need (w.extractLsb' 7 5 == 0) (.ckptClose (w.extractLsb' 22 3) (w.extractLsb' 17 5) (w.extractLsb' 12 5))
  | 0x4 => need (w.extractLsb' 17 5 == 0) (.tlbinv (w.extractLsb' 22 3) (w.extractLsb' 12 5) (w.extractLsb' 7 5))
  | _ => .error .unassignedMinor

/-- Major 0x43, the atomics of 32 bits (R61). -/
def decodeAtomicW (w : InstrWord) : Except Reject Instr :=
  match (w.extractLsb' 3 4).toNat with
  | 0 => .ok (.aaddW (w.extractLsb' 22 3) (w.extractLsb' 17 5) (w.extractLsb' 12 5) (w.extractLsb' 7 5) (w.extractLsb' 0 3))
  | 1 => .ok (.aandW (w.extractLsb' 22 3) (w.extractLsb' 17 5) (w.extractLsb' 12 5) (w.extractLsb' 7 5) (w.extractLsb' 0 3))
  | 2 => .ok (.aorW (w.extractLsb' 22 3) (w.extractLsb' 17 5) (w.extractLsb' 12 5) (w.extractLsb' 7 5) (w.extractLsb' 0 3))
  | 3 => .ok (.axorW (w.extractLsb' 22 3) (w.extractLsb' 17 5) (w.extractLsb' 12 5) (w.extractLsb' 7 5) (w.extractLsb' 0 3))
  | 4 => .ok (.aminSW (w.extractLsb' 22 3) (w.extractLsb' 17 5) (w.extractLsb' 12 5) (w.extractLsb' 7 5) (w.extractLsb' 0 3))
  | 5 => .ok (.amaxSW (w.extractLsb' 22 3) (w.extractLsb' 17 5) (w.extractLsb' 12 5) (w.extractLsb' 7 5) (w.extractLsb' 0 3))
  | 6 => .ok (.aminUW (w.extractLsb' 22 3) (w.extractLsb' 17 5) (w.extractLsb' 12 5) (w.extractLsb' 7 5) (w.extractLsb' 0 3))
  | 7 => .ok (.amaxUW (w.extractLsb' 22 3) (w.extractLsb' 17 5) (w.extractLsb' 12 5) (w.extractLsb' 7 5) (w.extractLsb' 0 3))
  | 8 => .ok (.afaddW (w.extractLsb' 22 3) (w.extractLsb' 17 5) (w.extractLsb' 12 5) (w.extractLsb' 7 5) (w.extractLsb' 0 3))
  | 9 => .ok (.aexchW (w.extractLsb' 22 3) (w.extractLsb' 17 5) (w.extractLsb' 12 5) (w.extractLsb' 7 5) (w.extractLsb' 0 3))
  | 10 => .ok (.aincwW (w.extractLsb' 22 3) (w.extractLsb' 17 5) (w.extractLsb' 12 5) (w.extractLsb' 7 5) (w.extractLsb' 0 3))
  | 11 => .ok (.adecwW (w.extractLsb' 22 3) (w.extractLsb' 17 5) (w.extractLsb' 12 5) (w.extractLsb' 7 5) (w.extractLsb' 0 3))
  | _ => .error .unassignedMinor

/-- Major 0x44, the atomics of 64 bits (R61). -/
def decodeAtomicD (w : InstrWord) : Except Reject Instr :=
  match (w.extractLsb' 3 4).toNat with
  | 0 => .ok (.aaddD (w.extractLsb' 22 3) (w.extractLsb' 17 5) (w.extractLsb' 12 5) (w.extractLsb' 7 5) (w.extractLsb' 0 3))
  | 1 => .ok (.aandD (w.extractLsb' 22 3) (w.extractLsb' 17 5) (w.extractLsb' 12 5) (w.extractLsb' 7 5) (w.extractLsb' 0 3))
  | 2 => .ok (.aorD (w.extractLsb' 22 3) (w.extractLsb' 17 5) (w.extractLsb' 12 5) (w.extractLsb' 7 5) (w.extractLsb' 0 3))
  | 3 => .ok (.axorD (w.extractLsb' 22 3) (w.extractLsb' 17 5) (w.extractLsb' 12 5) (w.extractLsb' 7 5) (w.extractLsb' 0 3))
  | 4 => .ok (.aminSD (w.extractLsb' 22 3) (w.extractLsb' 17 5) (w.extractLsb' 12 5) (w.extractLsb' 7 5) (w.extractLsb' 0 3))
  | 5 => .ok (.amaxSD (w.extractLsb' 22 3) (w.extractLsb' 17 5) (w.extractLsb' 12 5) (w.extractLsb' 7 5) (w.extractLsb' 0 3))
  | 6 => .ok (.aminUD (w.extractLsb' 22 3) (w.extractLsb' 17 5) (w.extractLsb' 12 5) (w.extractLsb' 7 5) (w.extractLsb' 0 3))
  | 7 => .ok (.amaxUD (w.extractLsb' 22 3) (w.extractLsb' 17 5) (w.extractLsb' 12 5) (w.extractLsb' 7 5) (w.extractLsb' 0 3))
  | 9 => .ok (.aexchD (w.extractLsb' 22 3) (w.extractLsb' 17 5) (w.extractLsb' 12 5) (w.extractLsb' 7 5) (w.extractLsb' 0 3))
  | 10 => .ok (.aincwD (w.extractLsb' 22 3) (w.extractLsb' 17 5) (w.extractLsb' 12 5) (w.extractLsb' 7 5) (w.extractLsb' 0 3))
  | 11 => .ok (.adecwD (w.extractLsb' 22 3) (w.extractLsb' 17 5) (w.extractLsb' 12 5) (w.extractLsb' 7 5) (w.extractLsb' 0 3))
  | _ => .error .unassignedMinor

/-- A short instruction: majors 0x01 to 0x5F (R48, R59). -/
def decodeShort (w : InstrWord) : Except Reject Instr :=
  match majorOf w with
  | 0x1 => decodeArith w
  | 0x2 => .ok (.addImm (w.extractLsb' 22 3) (w.extractLsb' 17 5) (w.extractLsb' 12 5) (w.extractLsb' 0 12))
  | 0x3 => .ok (.andImm (w.extractLsb' 22 3) (w.extractLsb' 17 5) (w.extractLsb' 12 5) (w.extractLsb' 0 12))
  | 0x4 => .ok (.orImm (w.extractLsb' 22 3) (w.extractLsb' 17 5) (w.extractLsb' 12 5) (w.extractLsb' 0 12))
  | 0x5 => .ok (.xorImm (w.extractLsb' 22 3) (w.extractLsb' 17 5) (w.extractLsb' 12 5) (w.extractLsb' 0 12))
  | 0x6 => .ok (.shlImm (w.extractLsb' 22 3) (w.extractLsb' 17 5) (w.extractLsb' 12 5) (w.extractLsb' 0 12))
  | 0x7 => .ok (.shrImm (w.extractLsb' 22 3) (w.extractLsb' 17 5) (w.extractLsb' 12 5) (w.extractLsb' 0 12))
  | 0x8 => .ok (.sarImm (w.extractLsb' 22 3) (w.extractLsb' 17 5) (w.extractLsb' 12 5) (w.extractLsb' 0 12))
  | 0x9 => .ok (.rotlImm (w.extractLsb' 22 3) (w.extractLsb' 17 5) (w.extractLsb' 12 5) (w.extractLsb' 0 12))
  | 0xa => .ok (.sltImm (w.extractLsb' 22 3) (w.extractLsb' 17 5) (w.extractLsb' 12 5) (w.extractLsb' 0 12))
  | 0xb => .ok (.sltuImm (w.extractLsb' 22 3) (w.extractLsb' 17 5) (w.extractLsb' 12 5) (w.extractLsb' 0 12))
  | 0xc => .ok (.seqImm (w.extractLsb' 22 3) (w.extractLsb' 17 5) (w.extractLsb' 12 5) (w.extractLsb' 0 12))
  | 0xd => .ok (.sneImm (w.extractLsb' 22 3) (w.extractLsb' 17 5) (w.extractLsb' 12 5) (w.extractLsb' 0 12))
  | 0xe => .ok (.minImm (w.extractLsb' 22 3) (w.extractLsb' 17 5) (w.extractLsb' 12 5) (w.extractLsb' 0 12))
  | 0xf => .ok (.maxImm (w.extractLsb' 22 3) (w.extractLsb' 17 5) (w.extractLsb' 12 5) (w.extractLsb' 0 12))
  | 0x10 => .ok (.mulImm (w.extractLsb' 22 3) (w.extractLsb' 17 5) (w.extractLsb' 12 5) (w.extractLsb' 0 12))
  | 0x11 => .ok (.exts (w.extractLsb' 22 3) (w.extractLsb' 17 5) (w.extractLsb' 12 5) (w.extractLsb' 6 6) (w.extractLsb' 0 6))
  | 0x12 => .ok (.extz (w.extractLsb' 22 3) (w.extractLsb' 17 5) (w.extractLsb' 12 5) (w.extractLsb' 6 6) (w.extractLsb' 0 6))
  | 0x13 => .ok (.ins (w.extractLsb' 22 3) (w.extractLsb' 17 5) (w.extractLsb' 12 5) (w.extractLsb' 6 6) (w.extractLsb' 0 6))
  | 0x14 => need (w.extractLsb' 6 6 == 0) (.alignup (w.extractLsb' 22 3) (w.extractLsb' 17 5) (w.extractLsb' 12 5) (w.extractLsb' 0 6))
  | 0x15 => need (w.extractLsb' 3 4 == 0) (.lea (w.extractLsb' 22 3) (w.extractLsb' 17 5) (w.extractLsb' 12 5) (w.extractLsb' 7 5) (w.extractLsb' 0 3))
  | 0x16 => .ok (.wrap (w.extractLsb' 22 3) (w.extractLsb' 17 5) (w.extractLsb' 12 5) (w.extractLsb' 7 5) (w.extractLsb' 0 7))
  | 0x17 => .ok (.movi (w.extractLsb' 22 3) (w.extractLsb' 17 5) (w.extractLsb' 0 17))
  | 0x18 => need (w.extractLsb' 20 2 == 0) (.fcmp (w.extractLsb' 22 3) (w.extractLsb' 17 3) (w.extractLsb' 12 5) (w.extractLsb' 7 5) (w.extractLsb' 0 7))
  | 0x19 => need (w.extractLsb' 20 2 == 0 && w.extractLsb' 15 2 == 0 && w.extractLsb' 10 2 == 0) (.flog (w.extractLsb' 22 3) (w.extractLsb' 17 3) (w.extractLsb' 12 3) (w.extractLsb' 7 3) (w.extractLsb' 0 7))
  | 0x1a => need (w.extractLsb' 20 2 == 0 && w.extractLsb' 4 13 == 0) (.nul (w.extractLsb' 22 3) (w.extractLsb' 17 3) (w.extractLsb' 0 4))
  | 0x20 => .ok (.beq (w.extractLsb' 22 3) (w.extractLsb' 17 5) (w.extractLsb' 12 5) (w.extractLsb' 4 8) (w.extractLsb' 0 4))
  | 0x21 => .ok (.bne (w.extractLsb' 22 3) (w.extractLsb' 17 5) (w.extractLsb' 12 5) (w.extractLsb' 4 8) (w.extractLsb' 0 4))
  | 0x22 => .ok (.blt (w.extractLsb' 22 3) (w.extractLsb' 17 5) (w.extractLsb' 12 5) (w.extractLsb' 4 8) (w.extractLsb' 0 4))
  | 0x23 => .ok (.bge (w.extractLsb' 22 3) (w.extractLsb' 17 5) (w.extractLsb' 12 5) (w.extractLsb' 4 8) (w.extractLsb' 0 4))
  | 0x24 => .ok (.bltu (w.extractLsb' 22 3) (w.extractLsb' 17 5) (w.extractLsb' 12 5) (w.extractLsb' 4 8) (w.extractLsb' 0 4))
  | 0x25 => .ok (.bgeu (w.extractLsb' 22 3) (w.extractLsb' 17 5) (w.extractLsb' 12 5) (w.extractLsb' 4 8) (w.extractLsb' 0 4))
  | 0x26 => if w.extractLsb' 21 1 == 0 then need (w.extractLsb' 20 2 == 0 && w.extractLsb' 12 5 == 0) (.bf (w.extractLsb' 22 3) (w.extractLsb' 17 3) (w.extractLsb' 4 8) (w.extractLsb' 0 4)) else need (w.extractLsb' 20 2 == 2 && w.extractLsb' 12 5 == 0) (.bfN (w.extractLsb' 22 3) (w.extractLsb' 17 3) (w.extractLsb' 4 8) (w.extractLsb' 0 4))
  | 0x27 => need (w.extractLsb' 12 5 == 0) (.loop (w.extractLsb' 22 3) (w.extractLsb' 17 5) (w.extractLsb' 4 8) (w.extractLsb' 0 4))
  | 0x28 => .ok (.j (w.extractLsb' 22 3) (w.extractLsb' 4 18) (w.extractLsb' 0 4))
  | 0x29 => .ok (.jl (w.extractLsb' 22 3) (w.extractLsb' 4 18) (w.extractLsb' 0 4))
  | 0x2a => need (w.extractLsb' 0 12 == 0) (.ji (w.extractLsb' 22 3) (w.extractLsb' 17 5) (w.extractLsb' 12 5))
  | 0x30 => .ok (.ldB (w.extractLsb' 22 3) (w.extractLsb' 17 5) (w.extractLsb' 12 5) (w.extractLsb' 8 4) (w.extractLsb' 0 8))
  | 0x31 => .ok (.ldBu (w.extractLsb' 22 3) (w.extractLsb' 17 5) (w.extractLsb' 12 5) (w.extractLsb' 8 4) (w.extractLsb' 0 8))
  | 0x32 => .ok (.ldH (w.extractLsb' 22 3) (w.extractLsb' 17 5) (w.extractLsb' 12 5) (w.extractLsb' 8 4) (w.extractLsb' 0 8))
  | 0x33 => .ok (.ldHu (w.extractLsb' 22 3) (w.extractLsb' 17 5) (w.extractLsb' 12 5) (w.extractLsb' 8 4) (w.extractLsb' 0 8))
  | 0x34 => .ok (.ldW (w.extractLsb' 22 3) (w.extractLsb' 17 5) (w.extractLsb' 12 5) (w.extractLsb' 8 4) (w.extractLsb' 0 8))
  | 0x35 => .ok (.ldWu (w.extractLsb' 22 3) (w.extractLsb' 17 5) (w.extractLsb' 12 5) (w.extractLsb' 8 4) (w.extractLsb' 0 8))
  | 0x36 => .ok (.ldD (w.extractLsb' 22 3) (w.extractLsb' 17 5) (w.extractLsb' 12 5) (w.extractLsb' 8 4) (w.extractLsb' 0 8))
  | 0x38 => .ok (.stB (w.extractLsb' 22 3) (w.extractLsb' 17 5) (w.extractLsb' 12 5) (w.extractLsb' 8 4) (w.extractLsb' 0 8))
  | 0x39 => .ok (.stH (w.extractLsb' 22 3) (w.extractLsb' 17 5) (w.extractLsb' 12 5) (w.extractLsb' 8 4) (w.extractLsb' 0 8))
  | 0x3a => .ok (.stW (w.extractLsb' 22 3) (w.extractLsb' 17 5) (w.extractLsb' 12 5) (w.extractLsb' 8 4) (w.extractLsb' 0 8))
  | 0x3b => .ok (.stD (w.extractLsb' 22 3) (w.extractLsb' 17 5) (w.extractLsb' 12 5) (w.extractLsb' 8 4) (w.extractLsb' 0 8))
  | 0x3c => need (w.extractLsb' 19 3 == 0) (.ldq (w.extractLsb' 22 3) (w.extractLsb' 17 2) (w.extractLsb' 12 5) (w.extractLsb' 8 4) (w.extractLsb' 0 8))
  | 0x3d => need (w.extractLsb' 18 4 == 0) (.stq (w.extractLsb' 22 3) (w.extractLsb' 17 1) (w.extractLsb' 12 5) (w.extractLsb' 8 4) (w.extractLsb' 0 8))
  | 0x40 => if w.extractLsb' 6 1 == 0 then need (w.extractLsb' 7 5 == 0) (.ldo (w.extractLsb' 22 3) (w.extractLsb' 17 5) (w.extractLsb' 12 5) (w.extractLsb' 3 3) (w.extractLsb' 2 1) (w.extractLsb' 0 2)) else need (w.extractLsb' 17 5 == 0 && w.extractLsb' 2 1 == 0) (.sto (w.extractLsb' 22 3) (w.extractLsb' 12 5) (w.extractLsb' 7 5) (w.extractLsb' 3 3) (w.extractLsb' 0 2))
  | 0x41 => need (w.extractLsb' 17 5 == 0 && w.extractLsb' 6 11 == 0) (.fence (w.extractLsb' 22 3) (w.extractLsb' 3 3) (w.extractLsb' 0 3))
  | 0x42 => need (w.extractLsb' 17 5 == 0 && w.extractLsb' 16 1 == 0) (.xfence (w.extractLsb' 22 3) (w.extractLsb' 0 16))
  | 0x43 => decodeAtomicW w
  | 0x44 => decodeAtomicD w
  | 0x45 => decodeWaita w
  | 0x46 => decodePhaser w
  | 0x48 => decodeStrand w
  | 0x49 => decodeFrame w
  | 0x4a => decodeBarrier w
  | 0x4b => decodeStaging w
  | 0x4c => decodeSystem w
  | 0x4d => if w.extractLsb' 0 17 == 0xC then .ok (.diagdRead (w.extractLsb' 22 3) (w.extractLsb' 17 5)) else .ok (.sysr (w.extractLsb' 22 3) (w.extractLsb' 17 5) (w.extractLsb' 0 17))
  | 0x4e =>
    if w.extractLsb' 0 17 == 0xC then .ok (.diagdWrite (w.extractLsb' 22 3) (w.extractLsb' 17 5))
    else if w.extractLsb' 0 17 == 0xE then .ok (.einjArm (w.extractLsb' 22 3) (w.extractLsb' 17 5))
    else if w.extractLsb' 0 17 == 0xF then .ok (.snapArm (w.extractLsb' 22 3) (w.extractLsb' 17 5))
    else .ok (.sysw (w.extractLsb' 22 3) (w.extractLsb' 17 5) (w.extractLsb' 0 17))
  | 0x4f => need (w.extractLsb' 17 5 == 0) (.trap (w.extractLsb' 22 3) (w.extractLsb' 0 17))
  | 0x50 => decodeJournal w
  | _ => .error .unassignedMajor

/-- The operand fields of a VX pair (R54). -/
def vxOps (w x : InstrWord) : VxOps :=
  { vd := w.extractLsb' 14 8, va := w.extractLsb' 6 8, vb := x.extractLsb' 24 8, mask := x.extractLsb' 20 4,
    ty := x.extractLsb' 16 4, aux := x.extractLsb' 10 6, tok := x.extractLsb' 0 10 }

/-- The operand fields of an MX pair (R54). -/
def mxOps (w x : InstrWord) : MxOps :=
  { row := w.extractLsb' 14 8, pe := w.extractLsb' 13 1, pm := w.extractLsb' 11 2, pk := w.extractLsb' 9 2,
    pn := w.extractLsb' 7 2, cnt := x.extractLsb' 24 8, wf := x.extractLsb' 20 4, af := x.extractLsb' 16 4,
    sat := x.extractLsb' 15 1, sreg := x.extractLsb' 10 5, tok := x.extractLsb' 0 10 }

/-- The operand fields of an EX pair (R54). -/
def exOps (w x : InstrWord) : ExOps :=
  { d := w.extractLsb' 17 5, a := w.extractLsb' 12 5, b := w.extractLsb' 7 5, c := x.extractLsb' 27 5,
    q := x.extractLsb' 26 1, aux := x.extractLsb' 10 16, tok := x.extractLsb' 0 10 }

/-- Major 0x60, the vector functions (R62). -/
def decodeVector (w x : InstrWord) : Except Reject Instr :=
  let st := w.extractLsb' 22 3
  match (w.extractLsb' 0 6).toNat with
  | 0x0 => .ok (.vld st (vxOps w x))
  | 0x1 => .ok (.vst st (vxOps w x))
  | 0x2 => .ok (.vmov st (vxOps w x))
  | 0x3 => .ok (.vbcst st (vxOps w x))
  | 0x4 => .ok (.viota st (vxOps w x))
  | 0x8 => .ok (.vadd st (vxOps w x))
  | 0x9 => .ok (.vsub st (vxOps w x))
  | 0xa => .ok (.vmul st (vxOps w x))
  | 0xb => .ok (.vfma st (vxOps w x))
  | 0xc => .ok (.vfms st (vxOps w x))
  | 0xd => .ok (.vmin st (vxOps w x))
  | 0xe => .ok (.vmax st (vxOps w x))
  | 0xf => .ok (.vabs st (vxOps w x))
  | 0x10 => .ok (.vneg st (vxOps w x))
  | 0x11 => .ok (.vdiv st (vxOps w x))
  | 0x12 => .ok (.vsqrt st (vxOps w x))
  | 0x13 => .ok (.vrsq st (vxOps w x))
  | 0x14 => .ok (.vrcp st (vxOps w x))
  | 0x15 => .ok (.vexp2 st (vxOps w x))
  | 0x16 => .ok (.vlog2 st (vxOps w x))
  | 0x18 => .ok (.vand st (vxOps w x))
  | 0x19 => .ok (.vor st (vxOps w x))
  | 0x1a => .ok (.vxor st (vxOps w x))
  | 0x1b => .ok (.vshl st (vxOps w x))
  | 0x1c => .ok (.vshr st (vxOps w x))
  | 0x1d => .ok (.vsar st (vxOps w x))
  | 0x20 => .ok (.vcmp st (vxOps w x))
  | 0x21 => .ok (.vsel st (vxOps w x))
  | 0x22 => .ok (.vpop st (vxOps w x))
  | 0x23 => .ok (.vmlog st (vxOps w x))
  | 0x28 => .ok (.vshuf st (vxOps w x))
  | 0x29 => .ok (.vrot st (vxOps w x))
  | 0x2a => .ok (.vext st (vxOps w x))
  | 0x2b => .ok (.vins st (vxOps w x))
  | 0x30 => .ok (.vred st (vxOps w x))
  | 0x31 => .ok (.vscan st (vxOps w x))
  | 0x34 => .ok (.vcvt st (vxOps w x))
  | 0x35 => .ok (.vqnt st (vxOps w x))
  | 0x36 => .ok (.vdeq st (vxOps w x))
  | 0x37 => .ok (.vtag st (vxOps w x))
  | 0x38 => .ok (.vhad st (vxOps w x))
  | 0x3c => .ok (.vcon st (vxOps w x))
  | 0x3d => .ok (.vopld st (vxOps w x))
  | _ => .error .unassignedMinor

/-- Major 0x61, the bit-tile functions (R62). -/
def decodeTile (w x : InstrWord) : Except Reject Instr :=
  let st := w.extractLsb' 22 3
  match (w.extractLsb' 0 6).toNat with
  | 0x0 => .ok (.bld st (vxOps w x))
  | 0x1 => .ok (.bst st (vxOps w x))
  | 0x2 => .ok (.brow st (vxOps w x))
  | 0x3 => .ok (.bfill st (vxOps w x))
  | 0x8 => .ok (.bpopr st (vxOps w x))
  | 0x9 => .ok (.bpopc st (vxOps w x))
  | 0xa => .ok (.btrn st (vxOps w x))
  | 0xb => .ok (.bcomp st (vxOps w x))
  | 0xc => .ok (.bclos st (vxOps w x))
  | 0xd => .ok (.blog st (vxOps w x))
  | 0x10 => .ok (.vselb st (vxOps w x))
  | _ => .error .unassignedMinor

/-- Major 0x62, the matrix and outer-comparison functions (R62). -/
def decodeMatrix (w x : InstrWord) : Except Reject Instr :=
  let st := w.extractLsb' 22 3
  match (w.extractLsb' 0 7).toNat with
  | 0x0 => .ok (.mlds st (mxOps w x))
  | 0x1 => .ok (.mflip st (mxOps w x))
  | 0x2 => .ok (.mstr st (mxOps w x))
  | 0x3 => .ok (.mzero st (mxOps w x))
  | 0x4 => .ok (.mpset st (mxOps w x))
  | 0x5 => .ok (.mpget st (mxOps w x))
  | 0x6 => .ok (.mdrain st (mxOps w x))
  | 0x10 => .ok (.ocld st (mxOps w x))
  | 0x11 => .ok (.ocmp st (mxOps w x))
  | _ => .error .unassignedMinor

/-- Major 0x63, the copy-unit commands; MODE 3 of KVPUT breaks a limit (R62, 17 R367). -/
def decodeCopy (w x : InstrWord) : Except Reject Instr :=
  let st := w.extractLsb' 22 3
  match (w.extractLsb' 0 7).toNat with
  | 0x0 => .ok (.cpy st (exOps w x))
  | 0x1 => .ok (.cpyt st (exOps w x))
  | 0x2 => .ok (.kvget st (exOps w x))
  | 0x4 => .ok (.msg st (exOps w x))
  | 0x5 => .ok (.dtld st (exOps w x))
  | 0x3 =>
    match kvputMode (exOps w x) with
    | 0 => .ok (.kvputStore st (exOps w x))
    | 1 => .ok (.kvputRetain st (exOps w x))
    | 2 => .ok (.kvputRelease st (exOps w x))
    | _ => .error .operandLimit
  | _ => .error .unassignedMinor

/-- Major 0x64, ACAS and AADDB (R62). -/
def decodeCas (w x : InstrWord) : Except Reject Instr :=
  let st := w.extractLsb' 22 3
  match (w.extractLsb' 0 7).toNat with
  | 0x0 => .ok (.acas st (exOps w x))
  | 0x1 => .ok (.aaddb st (exOps w x))
  | _ => .error .unassignedMinor

/-- A long instruction: majors 0x60 to 0x65 are assigned (R48, R59). -/
def decodeLong (w x : InstrWord) : Except Reject Instr :=
  match majorOf w with
  | 0x60 => decodeVector w x
  | 0x61 => decodeTile w x
  | 0x62 => decodeMatrix w x
  | 0x63 => decodeCopy w x
  | 0x64 => decodeCas w x
  | 0x65 =>
    match (w.extractLsb' 0 4).toNat with
    | 0 => need (w.extractLsb' 4 13 == 0) (.movl (w.extractLsb' 22 3) (w.extractLsb' 17 5) x)
    | 1 => need (w.extractLsb' 4 13 == 0) (.lhi (w.extractLsb' 22 3) (w.extractLsb' 17 5) x)
    | _ => .error .unassignedMinor
  | _ => .error .unassignedMajor

/-- The operand limits, the last part of check 3. -/
def limited (r : Except Reject Instr) : Except Reject Instr :=
  match r with
  | .ok i => if i.wellFormed then .ok i else .error .operandLimit
  | .error e => .error e

/-- The instruction that words `w` and, for a long major, `x` encode (check 3 of R63). -/
def decode (w x : InstrWord) : Except Reject Instr :=
  limited (if isLongMajor w then decodeLong w x else decodeShort w)

/-- A 32-bit word from its four bytes, the least significant first (00 R4). -/
def wordOfBytes (b0 b1 b2 b3 : Byte) : InstrWord := b3 ++ b2 ++ b1 ++ b0

/-- The four bytes of a word, the least significant first (00 R4). -/
def bytesOfWord (w : InstrWord) : List Byte :=
  [w.extractLsb' 0 8, w.extractLsb' 8 8, w.extractLsb' 16 8, w.extractLsb' 24 8]

/-- One instruction from the front of a list of bytes, with the bytes that follow it. -/
def decodeBytes (bs : List Byte) : Except Reject (Instr × List Byte) :=
  match bs with
  | b0 :: b1 :: b2 :: b3 :: r =>
    let w := wordOfBytes b0 b1 b2 b3
    if isAssignedLong w then
      match r with
      | c0 :: c1 :: c2 :: c3 :: r' =>
        match decode w (wordOfBytes c0 c1 c2 c3) with
        | .ok i => .ok (i, r')
        | .error e => .error e
      | _ => .error .truncated
    else
      match decode w 0 with
      | .ok i => .ok (i, r)
      | .error e => .error e
  | _ => .error .truncated

/-- The instruction the decoder reads from bits numbered as the opcode table numbers them: the first word in bits
31 to 0, a long pair's second word in bits 63 to 32; bits above `nbits` are zero. -/
def decodeTableWord (nbits w : Nat) : Option Instr :=
  let v := w % 2 ^ nbits
  let w0 := BitVec.ofNat 32 v
  let w1 := BitVec.ofNat 32 (v / 2 ^ 32)
  match decodeBytes (bytesOfWord w0 ++ bytesOfWord w1) with
  | .ok (i, _) => some i
  | .error _ => none

/-! The encoder. -/

/-- The two words of a VX pair (R54). -/
def encVx (major : BitVec 7) (fn : BitVec 6) (st : BitVec 3) (v : VxOps) : InstrWord × InstrWord :=
  (major ++ st ++ v.vd ++ v.va ++ fn, v.vb ++ v.mask ++ v.ty ++ v.aux ++ v.tok)

/-- The two words of an MX pair (R54). -/
def encMx (major : BitVec 7) (fn : BitVec 7) (st : BitVec 3) (m : MxOps) : InstrWord × InstrWord :=
  (major ++ st ++ m.row ++ m.pe ++ m.pm ++ m.pk ++ m.pn ++ fn, m.cnt ++ m.wf ++ m.af ++ m.sat ++ m.sreg ++ m.tok)

/-- The two words of an EX pair (R54). -/
def encEx (major : BitVec 7) (fn : BitVec 7) (st : BitVec 3) (x : ExOps) : InstrWord × InstrWord :=
  (major ++ st ++ x.d ++ x.a ++ x.b ++ fn, x.c ++ x.q ++ x.aux ++ x.tok)

/-- The words of an instruction: the first word, and the second word of a long pair or 0. A step without a word
encodes to zeros, which no instruction does. -/
def encode (i : Instr) : InstrWord × InstrWord :=
  match i with
  | .add st d a b => ((0x1#7) ++ st ++ d ++ a ++ b ++ (0x0#7), 0)
  | .sub st d a b => ((0x1#7) ++ st ++ d ++ a ++ b ++ (0x1#7), 0)
  | .and st d a b => ((0x1#7) ++ st ++ d ++ a ++ b ++ (0x2#7), 0)
  | .or st d a b => ((0x1#7) ++ st ++ d ++ a ++ b ++ (0x3#7), 0)
  | .xor st d a b => ((0x1#7) ++ st ++ d ++ a ++ b ++ (0x4#7), 0)
  | .andn st d a b => ((0x1#7) ++ st ++ d ++ a ++ b ++ (0x5#7), 0)
  | .orn st d a b => ((0x1#7) ++ st ++ d ++ a ++ b ++ (0x6#7), 0)
  | .shl st d a b => ((0x1#7) ++ st ++ d ++ a ++ b ++ (0x8#7), 0)
  | .shr st d a b => ((0x1#7) ++ st ++ d ++ a ++ b ++ (0x9#7), 0)
  | .sar st d a b => ((0x1#7) ++ st ++ d ++ a ++ b ++ (0xa#7), 0)
  | .rotl st d a b => ((0x1#7) ++ st ++ d ++ a ++ b ++ (0xb#7), 0)
  | .min st d a b => ((0x1#7) ++ st ++ d ++ a ++ b ++ (0x10#7), 0)
  | .max st d a b => ((0x1#7) ++ st ++ d ++ a ++ b ++ (0x11#7), 0)
  | .minu st d a b => ((0x1#7) ++ st ++ d ++ a ++ b ++ (0x12#7), 0)
  | .maxu st d a b => ((0x1#7) ++ st ++ d ++ a ++ b ++ (0x13#7), 0)
  | .slt st d a b => ((0x1#7) ++ st ++ d ++ a ++ b ++ (0x18#7), 0)
  | .sltu st d a b => ((0x1#7) ++ st ++ d ++ a ++ b ++ (0x19#7), 0)
  | .seq st d a b => ((0x1#7) ++ st ++ d ++ a ++ b ++ (0x1a#7), 0)
  | .sne st d a b => ((0x1#7) ++ st ++ d ++ a ++ b ++ (0x1b#7), 0)
  | .mul st d a b => ((0x1#7) ++ st ++ d ++ a ++ b ++ (0x20#7), 0)
  | .mulh st d a b => ((0x1#7) ++ st ++ d ++ a ++ b ++ (0x21#7), 0)
  | .mulhu st d a b => ((0x1#7) ++ st ++ d ++ a ++ b ++ (0x22#7), 0)
  | .div st d a b => ((0x1#7) ++ st ++ d ++ a ++ b ++ (0x28#7), 0)
  | .divu st d a b => ((0x1#7) ++ st ++ d ++ a ++ b ++ (0x29#7), 0)
  | .rem st d a b => ((0x1#7) ++ st ++ d ++ a ++ b ++ (0x2a#7), 0)
  | .remu st d a b => ((0x1#7) ++ st ++ d ++ a ++ b ++ (0x2b#7), 0)
  | .clz st d a => ((0x1#7) ++ st ++ d ++ a ++ (0x0#5) ++ (0x30#7), 0)
  | .ctz st d a => ((0x1#7) ++ st ++ d ++ a ++ (0x0#5) ++ (0x31#7), 0)
  | .popc st d a => ((0x1#7) ++ st ++ d ++ a ++ (0x0#5) ++ (0x32#7), 0)
  | .brev st d a => ((0x1#7) ++ st ++ d ++ a ++ (0x0#5) ++ (0x33#7), 0)
  | .bswap st d a => ((0x1#7) ++ st ++ d ++ a ++ (0x0#5) ++ (0x34#7), 0)
  | .sel st f d a b => ((0x1#7) ++ st ++ d ++ a ++ b ++ (0x7#4) ++ f, 0)
  | .addImm st d a imm => ((0x2#7) ++ st ++ d ++ a ++ imm, 0)
  | .andImm st d a imm => ((0x3#7) ++ st ++ d ++ a ++ imm, 0)
  | .orImm st d a imm => ((0x4#7) ++ st ++ d ++ a ++ imm, 0)
  | .xorImm st d a imm => ((0x5#7) ++ st ++ d ++ a ++ imm, 0)
  | .shlImm st d a imm => ((0x6#7) ++ st ++ d ++ a ++ imm, 0)
  | .shrImm st d a imm => ((0x7#7) ++ st ++ d ++ a ++ imm, 0)
  | .sarImm st d a imm => ((0x8#7) ++ st ++ d ++ a ++ imm, 0)
  | .rotlImm st d a imm => ((0x9#7) ++ st ++ d ++ a ++ imm, 0)
  | .sltImm st d a imm => ((0xa#7) ++ st ++ d ++ a ++ imm, 0)
  | .sltuImm st d a imm => ((0xb#7) ++ st ++ d ++ a ++ imm, 0)
  | .seqImm st d a imm => ((0xc#7) ++ st ++ d ++ a ++ imm, 0)
  | .sneImm st d a imm => ((0xd#7) ++ st ++ d ++ a ++ imm, 0)
  | .minImm st d a imm => ((0xe#7) ++ st ++ d ++ a ++ imm, 0)
  | .maxImm st d a imm => ((0xf#7) ++ st ++ d ++ a ++ imm, 0)
  | .mulImm st d a imm => ((0x10#7) ++ st ++ d ++ a ++ imm, 0)
  | .exts st d a w p => ((0x11#7) ++ st ++ d ++ a ++ w ++ p, 0)
  | .extz st d a w p => ((0x12#7) ++ st ++ d ++ a ++ w ++ p, 0)
  | .ins st d a w p => ((0x13#7) ++ st ++ d ++ a ++ w ++ p, 0)
  | .alignup st d a n => ((0x14#7) ++ st ++ d ++ a ++ (0x0#6) ++ n, 0)
  | .lea st d a b k => ((0x15#7) ++ st ++ d ++ a ++ b ++ (0x0#4) ++ k, 0)
  | .wrap st d a b k => ((0x16#7) ++ st ++ d ++ a ++ b ++ k, 0)
  | .movi st d imm => ((0x17#7) ++ st ++ d ++ imm, 0)
  | .fcmp st f a b cond => ((0x18#7) ++ st ++ (0x0#2) ++ f ++ a ++ b ++ cond, 0)
  | .flog st fd fa fb op => ((0x19#7) ++ st ++ (0x0#2) ++ fd ++ (0x0#2) ++ fa ++ (0x0#2) ++ fb ++ op, 0)
  | .nul st f n => ((0x1a#7) ++ st ++ (0x0#2) ++ f ++ (0x0#13) ++ n, 0)
  | .beq st a b off tw => ((0x20#7) ++ st ++ a ++ b ++ off ++ tw, 0)
  | .bne st a b off tw => ((0x21#7) ++ st ++ a ++ b ++ off ++ tw, 0)
  | .blt st a b off tw => ((0x22#7) ++ st ++ a ++ b ++ off ++ tw, 0)
  | .bge st a b off tw => ((0x23#7) ++ st ++ a ++ b ++ off ++ tw, 0)
  | .bltu st a b off tw => ((0x24#7) ++ st ++ a ++ b ++ off ++ tw, 0)
  | .bgeu st a b off tw => ((0x25#7) ++ st ++ a ++ b ++ off ++ tw, 0)
  | .bf st f off tw => ((0x26#7) ++ st ++ (0x0#2) ++ f ++ (0x0#5) ++ off ++ tw, 0)
  | .bfN st f off tw => ((0x26#7) ++ st ++ (0x2#2) ++ f ++ (0x0#5) ++ off ++ tw, 0)
  | .loop st a off tw => ((0x27#7) ++ st ++ a ++ (0x0#5) ++ off ++ tw, 0)
  | .j st off tw => ((0x28#7) ++ st ++ off ++ tw, 0)
  | .jl st off tw => ((0x29#7) ++ st ++ off ++ tw, 0)
  | .ji st d a => ((0x2a#7) ++ st ++ d ++ a ++ (0x0#12), 0)
  | .ldB st t base stream disp => ((0x30#7) ++ st ++ t ++ base ++ stream ++ disp, 0)
  | .ldBu st t base stream disp => ((0x31#7) ++ st ++ t ++ base ++ stream ++ disp, 0)
  | .ldH st t base stream disp => ((0x32#7) ++ st ++ t ++ base ++ stream ++ disp, 0)
  | .ldHu st t base stream disp => ((0x33#7) ++ st ++ t ++ base ++ stream ++ disp, 0)
  | .ldW st t base stream disp => ((0x34#7) ++ st ++ t ++ base ++ stream ++ disp, 0)
  | .ldWu st t base stream disp => ((0x35#7) ++ st ++ t ++ base ++ stream ++ disp, 0)
  | .ldD st t base stream disp => ((0x36#7) ++ st ++ t ++ base ++ stream ++ disp, 0)
  | .stB st t base stream disp => ((0x38#7) ++ st ++ t ++ base ++ stream ++ disp, 0)
  | .stH st t base stream disp => ((0x39#7) ++ st ++ t ++ base ++ stream ++ disp, 0)
  | .stW st t base stream disp => ((0x3a#7) ++ st ++ t ++ base ++ stream ++ disp, 0)
  | .stD st t base stream disp => ((0x3b#7) ++ st ++ t ++ base ++ stream ++ disp, 0)
  | .ldq st q base stream disp => ((0x3c#7) ++ st ++ (0x0#3) ++ q ++ base ++ stream ++ disp, 0)
  | .stq st q base stream disp => ((0x3d#7) ++ st ++ (0x0#4) ++ q ++ base ++ stream ++ disp, 0)
  | .ldo st d a ord sx w => ((0x40#7) ++ st ++ d ++ a ++ (0x0#5) ++ (0x0#1) ++ ord ++ sx ++ w, 0)
  | .sto st a b ord w => ((0x40#7) ++ st ++ (0x0#5) ++ a ++ b ++ (0x1#1) ++ ord ++ (0x0#1) ++ w, 0)
  | .fence st ord sco => ((0x41#7) ++ st ++ (0x0#5) ++ (0x0#11) ++ ord ++ sco, 0)
  | .xfence st mask => ((0x42#7) ++ st ++ (0x0#5) ++ (0x0#1) ++ mask, 0)
  | .aaddW st d a b ord => ((0x43#7) ++ st ++ d ++ a ++ b ++ (0x0#4) ++ ord, 0)
  | .aandW st d a b ord => ((0x43#7) ++ st ++ d ++ a ++ b ++ (0x1#4) ++ ord, 0)
  | .aorW st d a b ord => ((0x43#7) ++ st ++ d ++ a ++ b ++ (0x2#4) ++ ord, 0)
  | .axorW st d a b ord => ((0x43#7) ++ st ++ d ++ a ++ b ++ (0x3#4) ++ ord, 0)
  | .aminSW st d a b ord => ((0x43#7) ++ st ++ d ++ a ++ b ++ (0x4#4) ++ ord, 0)
  | .amaxSW st d a b ord => ((0x43#7) ++ st ++ d ++ a ++ b ++ (0x5#4) ++ ord, 0)
  | .aminUW st d a b ord => ((0x43#7) ++ st ++ d ++ a ++ b ++ (0x6#4) ++ ord, 0)
  | .amaxUW st d a b ord => ((0x43#7) ++ st ++ d ++ a ++ b ++ (0x7#4) ++ ord, 0)
  | .afaddW st d a b ord => ((0x43#7) ++ st ++ d ++ a ++ b ++ (0x8#4) ++ ord, 0)
  | .aexchW st d a b ord => ((0x43#7) ++ st ++ d ++ a ++ b ++ (0x9#4) ++ ord, 0)
  | .aincwW st d a b ord => ((0x43#7) ++ st ++ d ++ a ++ b ++ (0xa#4) ++ ord, 0)
  | .adecwW st d a b ord => ((0x43#7) ++ st ++ d ++ a ++ b ++ (0xb#4) ++ ord, 0)
  | .aaddD st d a b ord => ((0x44#7) ++ st ++ d ++ a ++ b ++ (0x0#4) ++ ord, 0)
  | .aandD st d a b ord => ((0x44#7) ++ st ++ d ++ a ++ b ++ (0x1#4) ++ ord, 0)
  | .aorD st d a b ord => ((0x44#7) ++ st ++ d ++ a ++ b ++ (0x2#4) ++ ord, 0)
  | .axorD st d a b ord => ((0x44#7) ++ st ++ d ++ a ++ b ++ (0x3#4) ++ ord, 0)
  | .aminSD st d a b ord => ((0x44#7) ++ st ++ d ++ a ++ b ++ (0x4#4) ++ ord, 0)
  | .amaxSD st d a b ord => ((0x44#7) ++ st ++ d ++ a ++ b ++ (0x5#4) ++ ord, 0)
  | .aminUD st d a b ord => ((0x44#7) ++ st ++ d ++ a ++ b ++ (0x6#4) ++ ord, 0)
  | .amaxUD st d a b ord => ((0x44#7) ++ st ++ d ++ a ++ b ++ (0x7#4) ++ ord, 0)
  | .aexchD st d a b ord => ((0x44#7) ++ st ++ d ++ a ++ b ++ (0x9#4) ++ ord, 0)
  | .aincwD st d a b ord => ((0x44#7) ++ st ++ d ++ a ++ b ++ (0xa#4) ++ ord, 0)
  | .adecwD st d a b ord => ((0x44#7) ++ st ++ d ++ a ++ b ++ (0xb#4) ++ ord, 0)
  | .waitaW st d a b => ((0x45#7) ++ st ++ d ++ a ++ b ++ (0x2#7), 0)
  | .waitaD st d a b => ((0x45#7) ++ st ++ d ++ a ++ b ++ (0x3#7), 0)
  | .phnew st d a => ((0x46#7) ++ st ++ d ++ a ++ (0x0#5) ++ (0x0#7), 0)
  | .phregS st d a b => ((0x46#7) ++ st ++ d ++ a ++ b ++ (0x1#7), 0)
  | .phregW st d a b => ((0x46#7) ++ st ++ d ++ a ++ b ++ (0x2#7), 0)
  | .phregSw st d a b => ((0x46#7) ++ st ++ d ++ a ++ b ++ (0x3#7), 0)
  | .phdrop st a => ((0x46#7) ++ st ++ (0x0#5) ++ a ++ (0x0#5) ++ (0x4#7), 0)
  | .phsig st a => ((0x46#7) ++ st ++ (0x0#5) ++ a ++ (0x0#5) ++ (0x5#7), 0)
  | .phwait st a => ((0x46#7) ++ st ++ (0x0#5) ++ a ++ (0x0#5) ++ (0x6#7), 0)
  | .phnext st a => ((0x46#7) ++ st ++ (0x0#5) ++ a ++ (0x0#5) ++ (0x7#7), 0)
  | .phlink st d a b => ((0x46#7) ++ st ++ d ++ a ++ b ++ (0x8#7), 0)
  | .phqry st d a => ((0x46#7) ++ st ++ d ++ a ++ (0x0#5) ++ (0x9#7), 0)
  | .spawn st d a b => ((0x48#7) ++ st ++ d ++ a ++ b ++ (0x0#7), 0)
  | .spawnj st d a b => ((0x48#7) ++ st ++ d ++ a ++ b ++ (0x1#7), 0)
  | .join st a => ((0x48#7) ++ st ++ (0x0#5) ++ a ++ (0x0#5) ++ (0x2#7), 0)
  | .exit st => ((0x48#7) ++ st ++ (0x0#5) ++ (0x0#5) ++ (0x0#5) ++ (0x3#7), 0)
  | .yield st => ((0x48#7) ++ st ++ (0x0#5) ++ (0x0#5) ++ (0x0#5) ++ (0x4#7), 0)
  | .susp st => ((0x48#7) ++ st ++ (0x0#5) ++ (0x0#5) ++ (0x0#5) ++ (0x5#7), 0)
  | .self st d => ((0x48#7) ++ st ++ d ++ (0x0#5) ++ (0x0#5) ++ (0x6#7), 0)
  | .prio st d a => ((0x48#7) ++ st ++ d ++ a ++ (0x0#5) ++ (0x7#7), 0)
  | .evset st a b => ((0x48#7) ++ st ++ (0x0#5) ++ a ++ b ++ (0x8#7), 0)
  | .evclr st a b => ((0x48#7) ++ st ++ (0x0#5) ++ a ++ b ++ (0x9#7), 0)
  | .evwait st a b => ((0x48#7) ++ st ++ (0x0#5) ++ a ++ b ++ (0xa#7), 0)
  | .evtest st d a => ((0x48#7) ++ st ++ d ++ a ++ (0x0#5) ++ (0xb#7), 0)
  | .twait st a => ((0x49#7) ++ st ++ (0x0#5) ++ a ++ (0x0#5) ++ (0x0#7), 0)
  | .frameq st d a => ((0x49#7) ++ st ++ d ++ a ++ (0x0#5) ++ (0x1#7), 0)
  | .bend st => ((0x49#7) ++ st ++ (0x0#5) ++ (0x0#5) ++ (0x0#5) ++ (0x2#7), 0)
  | .scope st d a b => ((0x49#7) ++ st ++ d ++ a ++ b ++ (0x3#7), 0)
  | .cancel st a => ((0x49#7) ++ st ++ (0x0#5) ++ a ++ (0x0#5) ++ (0x4#7), 0)
  | .scqry st d a => ((0x49#7) ++ st ++ d ++ a ++ (0x0#5) ++ (0x5#7), 0)
  | .scack st d a b => ((0x49#7) ++ st ++ d ++ a ++ b ++ (0x6#7), 0)
  | .tbinit st a b => ((0x4a#7) ++ st ++ (0x0#5) ++ a ++ b ++ (0x0#7), 0)
  | .tbexp st a b => ((0x4a#7) ++ st ++ (0x0#5) ++ a ++ b ++ (0x1#7), 0)
  | .tbarv st d a b => ((0x4a#7) ++ st ++ d ++ a ++ b ++ (0x2#7), 0)
  | .tbwait st d a b => ((0x4a#7) ++ st ++ d ++ a ++ b ++ (0x3#7), 0)
  | .tksig st n => ((0x4a#7) ++ st ++ (0x0#15) ++ (0x1#3) ++ n, 0)
  | .tkwait st n => ((0x4a#7) ++ st ++ (0x0#15) ++ (0x2#3) ++ n, 0)
  | .seghdr st d a => ((0x4b#7) ++ st ++ d ++ a ++ (0x0#5) ++ (0x0#7), 0)
  | .stgq st q => ((0x4b#7) ++ st ++ (0x0#3) ++ q ++ (0x0#10) ++ (0x1#7), 0)
  | .stgrel st => ((0x4b#7) ++ st ++ (0x0#5) ++ (0x0#5) ++ (0x0#5) ++ (0x2#7), 0)
  | .parkSet st d a b => ((0x4b#7) ++ st ++ d ++ a ++ b ++ (0x3#7), 0)
  | .parkClear st d a b => ((0x4b#7) ++ st ++ d ++ a ++ b ++ (0x3#7), 0)
  | .parkRead st d a b => ((0x4b#7) ++ st ++ d ++ a ++ b ++ (0x3#7), 0)
  | .nop st => ((0x4c#7) ++ st ++ (0x0#5) ++ (0x0#5) ++ (0x0#5) ++ (0x0#7), 0)
  | .eret st => ((0x4c#7) ++ st ++ (0x0#5) ++ (0x0#5) ++ (0x0#5) ++ (0x1#7), 0)
  | .halt st => ((0x4c#7) ++ st ++ (0x0#5) ++ (0x0#5) ++ (0x0#5) ++ (0x2#7), 0)
  | .brk st => ((0x4c#7) ++ st ++ (0x0#5) ++ (0x0#5) ++ (0x0#5) ++ (0x3#7), 0)
  | .tick st d => ((0x4c#7) ++ st ++ d ++ (0x0#5) ++ (0x0#5) ++ (0x4#7), 0)
  | .sysr st d reg => ((0x4d#7) ++ st ++ d ++ reg, 0)
  | .sysw st d reg => ((0x4e#7) ++ st ++ d ++ reg, 0)
  | .trap st code => ((0x4f#7) ++ st ++ (0x0#5) ++ code, 0)
  | .jrnlStore st d a b => ((0x50#7) ++ st ++ d ++ a ++ b ++ (0x0#7), 0)
  | .jrnlLoad st d a b => ((0x50#7) ++ st ++ d ++ a ++ b ++ (0x0#7), 0)
  | .jrnlAbandon st d a b => ((0x50#7) ++ st ++ d ++ a ++ b ++ (0x0#7), 0)
  | .replay st d => ((0x50#7) ++ st ++ d ++ (0x0#5) ++ (0x0#5) ++ (0x1#7), 0)
  | .snap st d => ((0x50#7) ++ st ++ d ++ (0x0#5) ++ (0x0#5) ++ (0x2#7), 0)
  | .ckptClose st d a => ((0x50#7) ++ st ++ d ++ a ++ (0x0#5) ++ (0x3#7), 0)
  | .ckptRollback st d a => ((0x50#7) ++ st ++ d ++ a ++ (0x0#5) ++ (0x3#7), 0)
  | .ckptQuery st d a => ((0x50#7) ++ st ++ d ++ a ++ (0x0#5) ++ (0x3#7), 0)
  | .tlbinv st a b => ((0x50#7) ++ st ++ (0x0#5) ++ a ++ b ++ (0x4#7), 0)
  | .vld st v => encVx 0x60 0x0 st v
  | .vst st v => encVx 0x60 0x1 st v
  | .vmov st v => encVx 0x60 0x2 st v
  | .vbcst st v => encVx 0x60 0x3 st v
  | .viota st v => encVx 0x60 0x4 st v
  | .vadd st v => encVx 0x60 0x8 st v
  | .vsub st v => encVx 0x60 0x9 st v
  | .vmul st v => encVx 0x60 0xa st v
  | .vfma st v => encVx 0x60 0xb st v
  | .vfms st v => encVx 0x60 0xc st v
  | .vmin st v => encVx 0x60 0xd st v
  | .vmax st v => encVx 0x60 0xe st v
  | .vabs st v => encVx 0x60 0xf st v
  | .vneg st v => encVx 0x60 0x10 st v
  | .vdiv st v => encVx 0x60 0x11 st v
  | .vsqrt st v => encVx 0x60 0x12 st v
  | .vrsq st v => encVx 0x60 0x13 st v
  | .vrcp st v => encVx 0x60 0x14 st v
  | .vexp2 st v => encVx 0x60 0x15 st v
  | .vlog2 st v => encVx 0x60 0x16 st v
  | .vand st v => encVx 0x60 0x18 st v
  | .vor st v => encVx 0x60 0x19 st v
  | .vxor st v => encVx 0x60 0x1a st v
  | .vshl st v => encVx 0x60 0x1b st v
  | .vshr st v => encVx 0x60 0x1c st v
  | .vsar st v => encVx 0x60 0x1d st v
  | .vcmp st v => encVx 0x60 0x20 st v
  | .vsel st v => encVx 0x60 0x21 st v
  | .vpop st v => encVx 0x60 0x22 st v
  | .vmlog st v => encVx 0x60 0x23 st v
  | .vshuf st v => encVx 0x60 0x28 st v
  | .vrot st v => encVx 0x60 0x29 st v
  | .vext st v => encVx 0x60 0x2a st v
  | .vins st v => encVx 0x60 0x2b st v
  | .vred st v => encVx 0x60 0x30 st v
  | .vscan st v => encVx 0x60 0x31 st v
  | .vcvt st v => encVx 0x60 0x34 st v
  | .vqnt st v => encVx 0x60 0x35 st v
  | .vdeq st v => encVx 0x60 0x36 st v
  | .vtag st v => encVx 0x60 0x37 st v
  | .vhad st v => encVx 0x60 0x38 st v
  | .vcon st v => encVx 0x60 0x3c st v
  | .vopld st v => encVx 0x60 0x3d st v
  | .bld st v => encVx 0x61 0x0 st v
  | .bst st v => encVx 0x61 0x1 st v
  | .brow st v => encVx 0x61 0x2 st v
  | .bfill st v => encVx 0x61 0x3 st v
  | .bpopr st v => encVx 0x61 0x8 st v
  | .bpopc st v => encVx 0x61 0x9 st v
  | .btrn st v => encVx 0x61 0xa st v
  | .bcomp st v => encVx 0x61 0xb st v
  | .bclos st v => encVx 0x61 0xc st v
  | .blog st v => encVx 0x61 0xd st v
  | .vselb st v => encVx 0x61 0x10 st v
  | .mlds st m => encMx 0x62 0x0 st m
  | .mflip st m => encMx 0x62 0x1 st m
  | .mstr st m => encMx 0x62 0x2 st m
  | .mzero st m => encMx 0x62 0x3 st m
  | .mpset st m => encMx 0x62 0x4 st m
  | .mpget st m => encMx 0x62 0x5 st m
  | .mdrain st m => encMx 0x62 0x6 st m
  | .ocld st m => encMx 0x62 0x10 st m
  | .ocmp st m => encMx 0x62 0x11 st m
  | .cpy st x => encEx 0x63 0x0 st x
  | .cpyt st x => encEx 0x63 0x1 st x
  | .kvget st x => encEx 0x63 0x2 st x
  | .kvputStore st x => encEx 0x63 0x3 st x
  | .kvputRetain st x => encEx 0x63 0x3 st x
  | .kvputRelease st x => encEx 0x63 0x3 st x
  | .msg st x => encEx 0x63 0x4 st x
  | .dtld st x => encEx 0x63 0x5 st x
  | .acas st x => encEx 0x64 0x0 st x
  | .aaddb st x => encEx 0x64 0x1 st x
  | .movl st d imm => ((0x65#7) ++ st ++ d ++ (0#13) ++ (0#4), imm)
  | .lhi st d imm => ((0x65#7) ++ st ++ d ++ (0#13) ++ (1#4), imm)
  | .diagdRead st d => ((0x4d#7) ++ st ++ d ++ (0xc#17), 0)
  | .diagdWrite st d => ((0x4e#7) ++ st ++ d ++ (0xc#17), 0)
  | .errorLogClear st d => ((0x4e#7) ++ st ++ d ++ (0xc#17), 0)
  | .snapArm st d => ((0x4e#7) ++ st ++ d ++ (0xf#17), 0)
  | .einjArm st d => ((0x4e#7) ++ st ++ d ++ (0xe#17), 0)
  | .snapExternalTrigger => (0, 0)
  | .powerUpReset => (0, 0)
  | .fwDownload => (0, 0)
  | .dispatcherElection => (0, 0)
  | .leaderFailover => (0, 0)
  | .launchRecordRead => (0, 0)
  | .indexGrant => (0, 0)
  | .launchPoolRetry => (0, 0)
  | .launchCompletion => (0, 0)
  | .eventsClear _ => (0, 0)
  | .attestRequest _ => (0, 0)
  | .frameset _ => (0, 0)
  | .coreRestart => (0, 0)
  | .frameModeEnable => (0, 0)
  | .frameModeDisable => (0, 0)
  | .graftDeclare => (0, 0)
  | .graftRelease => (0, 0)
  | .graftTrainTimeout => (0, 0)
  | .swapGo => (0, 0)
  | .swapPause => (0, 0)
  | .swapResume => (0, 0)
  | .mgmtRegWrite _ _ => (0, 0)
  | .heartbeatSend => (0, 0)
  | .heartbeatTimeout => (0, 0)
  | .packagePowerLoss => (0, 0)
  | .linkFlitReceive _ _ _ => (0, 0)
  | .linkRetrain => (0, 0)
  | .retrainComplete => (0, 0)
  | .segmentArrival => (0, 0)
  | .refillComplete => (0, 0)
  | .ringSlotForward => (0, 0)
  | .decodeStart => (0, 0)
  | .decodeComplete => (0, 0)
  | .segmentCurrent => (0, 0)
  | .computeFrameEnd => (0, 0)
  | .timetableRelease => (0, 0)
  | .entrySlip => (0, 0)
  | .lateAccessPause => (0, 0)
  | .lateAccessResume => (0, 0)
  | .blockCheck => (0, 0)
  | .holdDrop => (0, 0)
  | .strandPickup => (0, 0)
  | .suspensionComplete => (0, 0)
  | .eventOverflowScan => (0, 0)
  | .spillRefill => (0, 0)
  | .placementRetry => (0, 0)
  | .preemptTrigger => (0, 0)
  | .preemptDrainEnd => (0, 0)
  | .pollWake => (0, 0)
  | .killPointStop => (0, 0)
  | .trapEntry => (0, 0)
  | .hangTimeout => (0, 0)
  | .codeLineFill => (0, 0)
  | .variableResultLand => (0, 0)
  | .translationWalk _ => (0, 0)
  | .routerMergeDepart => (0, 0)
  | .eccScrub => (0, 0)
  | .vectorCommandStart => (0, 0)
  | .vectorCommandLand => (0, 0)
  | .matrixCommandStart => (0, 0)
  | .matrixCommandComplete => (0, 0)
  | .copyCommandStart => (0, 0)
  | .copySettle => (0, 0)
  | .tbwaitPoll => (0, 0)
  | .messageDelivery _ => (0, 0)
  | .kvOwnerLookup _ => (0, 0)
  | .accessPerformed => (0, 0)
  | .tier1RemoteAccess _ => (0, 0)
  | .mirrorDieFailure => (0, 0)

/-- An instruction of two words (R48). -/
def Instr.isLong (i : Instr) : Bool := isLongMajor (encode i).1

end Sys2Proof
end

