-- ==== Sys2Proof/Machine/Sparse.lean ====
section
/-! DEFINITION. Sparse data by key in one canonical form: keys strictly rising, no entry equal to what an unlisted key
reads as. Memory is such a list of (address, byte) pairs. -/

namespace Sys2Proof

/-- A sparse array: (key, value) pairs. -/
abbrev Sp (α : Type) := List (Nat × α)

namespace Sp

/-- The value at key `k`; `d` where the array lists none. -/
def get {α : Type} (m : Sp α) (k : Nat) (d : α) : α :=
  match m with
  | [] => d
  | (j, v) :: r => if k = j then v else get r k d

/-- Key `k` holds `v`, listed whatever `v` is. -/
def set {α : Type} (m : Sp α) (k : Nat) (v : α) : Sp α :=
  match m with
  | [] => [(k, v)]
  | (j, w) :: r => if k < j then (k, v) :: (j, w) :: r else if k = j then (k, v) :: r else (j, w) :: set r k v

/-- Key `k` is listed no more. -/
def del {α : Type} (m : Sp α) (k : Nat) : Sp α :=
  match m with
  | [] => []
  | (j, w) :: r => if k = j then del r k else (j, w) :: del r k

/-- Key `k` holds `v` in the canonical form of an array whose unlisted keys read `d`. -/
def put {α : Type} [DecidableEq α] (m : Sp α) (k : Nat) (v d : α) : Sp α :=
  if v = d then m.del k else m.set k v

/-- Every listed key is above `lo` and the keys rise strictly. -/
def risingFrom {α : Type} (m : Sp α) (lo : Nat) : Bool :=
  match m with
  | [] => true
  | (j, _) :: r => decide (lo ≤ j) && risingFrom r (j + 1)

/-- The canonical form: keys strictly rising, no entry equal to `d`. -/
def wf {α : Type} [DecidableEq α] (m : Sp α) (d : α) : Bool :=
  m.risingFrom 0 && m.all (fun e => decide (e.2 ≠ d))

end Sp

/-- A memory: bytes by address, `Host.Cell`s in the canonical form; an unlisted byte reads 0
(DESIGN CHOICE, log entry 3: the spec leaves contents at reset undefined). -/
abbrev Mem := List Host.Cell

/-- The canonical form of a memory. -/
def Mem.wf (m : Mem) : Bool := Sp.wf (α := Byte) m 0

/-- The byte at address `a`. -/
def Mem.byte (m : Mem) (a : Nat) : Byte := Sp.get (α := Byte) m a 0

/-- The byte at address `a` becomes `b`. -/
def Mem.setByte (m : Mem) (a : Nat) (b : Byte) : Mem := Sp.put (α := Byte) m a b 0

/-- The `n` bytes from `a`, little-endian, as a number (00 R4). -/
def Mem.readNat (m : Mem) (a n : Nat) : Nat :=
  match n with
  | 0 => 0
  | k + 1 => (m.byte a).toNat + 256 * Mem.readNat m (a + 1) k

/-- The `n` low bytes of `v` stored from `a`, little-endian (00 R4). -/
def Mem.writeNat (m : Mem) (a n v : Nat) : Mem :=
  match n with
  | 0 => m
  | k + 1 => Mem.writeNat (m.setByte a (BitVec.ofNat 8 v)) (a + 1) k (v / 256)

end Sys2Proof
end

