-- ==== Sys2Proof/Machine/State.lean ====
section
/-! DEFINITION. Everything the spec gives the machine, as plain data, and the machine right after reset (02 R40). -/

namespace Sys2Proof.Machine

/-- What a result is written to: a scalar register or a flag of the role (02 R22, R25). -/
inductive Dst where
  | sreg (n : Nat)
  | flag (n : Nat)
deriving DecidableEq, Repr

/-- A fixed-latency write under way (02 R31, R33): it is seen from cycle `due` on. -/
structure Pend where
  dst : Dst
  due : Nat
  val : Word
deriving DecidableEq, Repr

/-- The bits of a stored word that differ from what its check bits say, [63:0], and those of the check bits themselves, [71:64]
(20 R427); of a line's metadata [35:0] and [71:64]. -/
abbrev Flips := BitVec 72

/-- A value that arrives later (02 R32): at `due` in the slot's clock. `ticket` ≠ 0: the value is not bound until the
router group with that ticket returns (14 R304). `events`: the value is the event group `g` of the slot's cluster as
it stands in cycle `at` (11 R238). `behind` ≠ 0: a queue entry is seen only once the requests of its loader numbered
below it have left the routers (14 R289); `flips`: the bits in error of a queue entry (20 R427). -/
structure Late where
  val : Word
  due : Nat
  ticket : Nat := 0
  events : Option (Nat × Nat) := none
  behind : Nat := 0
  flips : Flips := 0
deriving DecidableEq, Repr

/-- A variable-latency result under way (02 R32). -/
structure VPend where
  dst : Dst
  late : Late
deriving DecidableEq, Repr

/-- Where an address leads (13 R268, R271, R278, 22 R440): a core's scratchpad offset, a deep-store physical address,
the deep store of another package of the ring, host memory, the management window. -/
inductive Place where
  | spad (core off : Nat)
  | deep (pa : Nat)
  | remote (pkg pa : Nat)
  | host (addr : Nat)
  | window (off : Nat)
deriving DecidableEq, Repr

/-- A store or a no-return atomic that has left its role and is not yet performed or acknowledged (14 R286, R302).
`op` = 0 stores `val`; `op` = 1 + f is the atomic of operation f. `stream` 16 is an ordered access. -/
structure Outst where
  stream : Nat
  place : Place
  va : Word
  w : Nat
  op : Nat
  val : Word
  stamp : BitVec 36
  due : Nat
deriving DecidableEq, Repr

/-- A data-queue entry (02 R24): it is seen once its value has arrived. -/
abbrev QEntry := Late

/-- A role's registers as they stood at trap entry, which a JRNL store of class 17 takes (20 R419). -/
structure RoleImage where
  regs : Sp Word
  flags : BitVec 8
  epc : Word
  fpctl : Word
  sup : Bool
  psup : Bool
  cause : Word
  tval : Word
deriving DecidableEq, Repr

/-- A TBWAIT that blocks (17 R359): the barrier's home and the phase it waits on; `entry` holds a barrier-wait entry,
else it polls from cycle `next`; `done`: its phase has completed; `ecc`: the barrier could not be read. -/
structure BarWait where
  place : Place
  va : Word
  phase : Nat
  entry : Bool
  next : Nat
  done : Bool
  ecc : Bool
deriving DecidableEq, Repr

/-- One role context (02 R19). `evAt`: the cycle in which its last EVSET or EVCLR changes its bits (11 R224, R234); `images`: the
registers at each trap entry whose ERET is still to come, the latest first (20 R408, R419). -/
structure RoleCtx where
  present : Bool := false
  exited : Bool := false
  pc : BitVec 32 := 0
  regs : Sp Word := []
  flags : BitVec 8 := 0
  nul : Nat := 0
  nextIssue : Nat := 0
  pend : List Pend := []
  vpend : List VPend := []
  outst : List Outst := []
  fpctl : Word := 0
  epc : Word := 0
  cause : Word := 0
  tval : Word := 0
  tvec : Word := 0
  diaga : Word := 0
  sup : Bool := false
  psup : Bool := false
  held : Bool := false
  bend : Bool := false
  barWait : Option BarWait := none
  link : BitVec 32 := 0
  reason : Nat := 0
  images : List RoleImage := []
  blockUntil : Nat := 0
  evAt : Nat := 0
deriving DecidableEq, Repr

/-- A continuation record that hardware holds: its virtual address, domain, physical address, and whether its page is
a supervisor page (11 R213, R214). -/
structure RecRef where
  va : Word
  dom : Nat
  pa : Nat
  sup : Bool
deriving DecidableEq, Repr

/-- The strand in a slot (02 R34, 11 R219). -/
structure Strand where
  ref : RecRef
  prio : Nat
  scope : Nat
  started : Bool
  timed : Bool
  preempted : Bool
  smask : BitVec 16
  groups : BitVec 8
  boot : Bool := false
  prioOld : Nat := 0
  prioAt : Option Nat := none
deriving DecidableEq, Repr

/-- What a suspending instruction does with the record once it completes (11 R221). -/
inductive SuspKind where
  | yield
  | dormant
  | event (mask : BitVec 16) (group : Nat)
  | frame (threshold : BitVec 48)
  | monitor (va : Word) (place : Place)
  | phaser (id : Nat)
deriving DecidableEq, Repr

/-- A suspension pending in a slot (11 R221): the suspender, the code address its pointer will name, whether a wake has
already come, and whether the queues have been found empty, from when on no role issues. -/
structure Susp where
  role : Role
  kind : SuspKind
  ptr : BitVec 32
  woken : Bool
  stop : Bool := false
deriving DecidableEq, Repr

/-- A timed block (12 R252): its entry, the VCC count of its release tick, the expected values, the words issued with
(tick, order within the tick), the segment header kept at release, the buffer and the number of its compute frame. -/
structure Block where
  entry : Nat
  tick0 : Nat
  eticks : BitVec 32
  ecrc : BitVec 32
  words : List (Nat × Nat × InstrWord)
  bends : List (Nat × Role × BitVec 32)
  checked : Bool
  header : BitVec 512
  buf : Option Nat
  frameNo : Nat
  dom : Nat
deriving DecidableEq, Repr

/-- A trap on its way in (20 R404, R407). -/
structure TrapReq where
  role : Role
  cause : Nat
  tval : Word
  async : Bool
  src : Role
deriving DecidableEq, Repr

/-- An object a command reads or writes whole or in part (07 R141, R143). -/
inductive Obj where
  | row (n : Nat)
  | tile (n : Nat)
  | mask (n : Nat)
  | opReg (n : Nat)
  | key
deriving DecidableEq, Repr

/-- A command in the vector or the matrix queue (08 R145, 09 R185), with all it captured at push; `flips`: the bits in error of its
entry (20 R427). -/
structure Cmd where
  engine : Nat
  slot : Nat
  w0 : InstrWord
  w1 : InstrWord
  nullified : Bool
  scal : Word
  rm : Nat
  fin : Bool
  fout : Bool
  dom : Nat
  sup : Bool
  dph : Word
  addr : BitVec 32
  seq : Nat
  pushed : Nat
  timed : Bool
  scope : Nat
  reads : List (Obj × Nat)
  writes : List (Obj × Nat)
  flips : Flips := 0
deriving DecidableEq, Repr

/-- What a command's landing writes (08 R150, 09 R188): for a row or a tile the new value, the 64-byte sectors or tile
rows it touches, and the tag, 16 more for a write in part; for a store the offset, the length, the bytes and which bytes. -/
inductive Eff where
  | row (n : Nat) (v : Row) (sectors : BitVec 16) (tag : Nat)
  | tile (n : Nat) (v : Tile) (rows : BitVec 256) (tag : Nat)
  | mask (n : Nat) (v : BitVec 1024)
  | opReg (n : Nat) (v : BitVec 2048)
  | key (v : Row) (tag : Nat) (part : Nat)
  | pred (kind n : Nat) (v : BitVec 768)
  | store (off len : Nat) (v : Tile) (bytes : Row)
deriving DecidableEq, Repr

/-- A tile plane of the array (09 R173): its bytes, its weight tag, its domain. -/
structure Plane where
  bytes : BitVec 917504
  tag : Nat
  dom : Nat
deriving DecidableEq, Repr

/-- A command that has started (08 R149, 09 R187) in cycle `start` and tick `tick0`; it holds its pipes or its path for
`hold` cycles, makes its last pass in `lastPass` and lands in `land`; `landedAt`: the cycle it has landed in. `fault`: the
cause found while it ran, with the value for sys.tval; `rows`: the rows still to land of an MSTR, with the activation
bytes read so far, or of an MZERO; `preds` and `plane`: the predicates and the plane that an MSTR uses, or the tile read so far; `got`: the
parts of its scratchpad bytes that it has read (09 R188, R189); `olds`: values of its rows that vector commands have replaced since it
started (09 R191). -/
structure Run where
  cmd : Cmd
  start : Nat
  tick0 : Nat
  hold : Nat
  lat : Nat
  land : Nat
  lastPass : Nat
  pipes : Nat
  effs : List Eff
  flags : BitVec 6
  fault : Nat
  tval : Word
  rows : List (Nat × BitVec 6144)
  preds : List (BitVec 768)
  plane : Plane
  landedAt : Nat := 0
  got : Nat := 0
  olds : List (Nat × Row) := []
deriving DecidableEq, Repr

/-- A copy-unit command in a slot's issue journal (17 R348, 20 R418). `marked`: the bytes of its destination that it has
marked, and `homes` where it stands: from an offset on, at a place and those behind it; `part`: the bytes written of a block under way,
`first`: the bytes of a position in its first block (17 R366); `finished`: its work is done and it waits to settle; `flips`: the bits
in error (20 R427). -/
structure JEntry where
  id : Nat
  w0 : InstrWord
  w1 : InstrWord
  vd : Word
  va : Word
  vb : Word
  vc : Word
  map : BitVec 512
  dom : Nat
  sup : Bool
  dph : Word
  role : Role
  addr : BitVec 32
  scope : Nat
  chunks : Nat
  next : Nat
  started : Bool
  running : Bool
  discarded : Bool
  replayed : Bool
  stop : Bool
  err : Nat
  finished : Bool
  pushed : Nat
  marked : Nat
  homes : List (Nat × Place) := []
  part : Nat := 0
  first : Nat := 0
  flips : Flips := 0
deriving DecidableEq, Repr

/-- One strand slot (02, 11, 17, 20). `qraw`: words written through the window beyond a queue's count, by 16 × queue + entry; `tokPend`:
what TKSIG (true) and TKWAIT (false) did in the running cycle; `preds`: by 4 × kind + number; `ctlNext`, `domNext`, `hangNext`: writes of
sys.ctl, sys.domain and sys.hang that count from the next cycle on (04 R96); `reissued`: what an unfinished REPLAY has reissued; `moved`:
the slot made progress in the running cycle (20 R431); `handlers`: the taker and the cause of each trap entry whose ERET is still to come,
the latest first (20 R408); `rowErr`, `tileErr`: the bits that differ from what the check bits say, by 128 × row + word and 1,024 × tile +
word (20 R427); `unfailed`: the tags that objects written by failed commands would carry had these not failed (07 R143), by `Obj.index`.
-/
structure Slot where
  strand : Option Strand := none
  lo : RoleCtx := {}
  co : RoleCtx := {}
  st : RoleCtx := {}
  queues : Sp (List QEntry) := []
  qraw : Sp Word := []
  tokens : Sp Nat := []
  tokPend : List (Nat × Bool) := []
  rows : Sp Row := []
  rowTag : Sp Nat := []
  rowStale : Sp (BitVec 16) := []
  masks : Sp (BitVec 1024) := []
  preds : Sp (BitVec 768) := []
  tiles : Sp Tile := []
  tileTag : Sp Nat := []
  tileStale : Sp (BitVec 256) := []
  key : Row := 0
  keyTag : Nat := 0
  keyPart : Nat := 0
  keyStale : Bool := false
  opRegs : Sp (BitVec 2048) := []
  dphaser : Word := 0
  ctl : Word := 0x83
  domain : Nat := 0
  halted : Bool := false
  halting : Bool := false
  journal : List JEntry := []
  lift : List Cmd := []
  saveArea : Option Word := none
  susp : Option Susp := none
  block : Option Block := none
  holds : Nat := 0
  drops : List (Nat × Nat) := []
  trap : Option TrapReq := none
  pending : List TrapReq := []
  handlers : List (Role × Nat) := []
  stored : Bool := false
  draining : Bool := false
  victimOf : Option Word := none
  kill : Bool := false
  progress : Nat := 0
  hangIndex : Nat := 0
  hangRec : Sp Word := []
  ctlNext : Option Word := none
  domNext : Option Nat := none
  hangNext : Option Nat := none
  reissued : Nat := 0
  moved : Bool := false
  rowErr : Sp Flips := []
  tileErr : Sp Flips := []
  unfailed : Sp Nat := []
deriving DecidableEq, Repr

/-- A line of the code line cache (02 R29, 12 R244). `err`: the bits in error, by word (20 R427). -/
structure CodeLine where
  dom : Nat
  line : Nat
  sup : Bool
  timed : Bool
  data : BitVec 512
  err : Sp Flips := []
deriving DecidableEq, Repr

/-- A cached translation (13 R276, R277): the page, its size in address bits, the leaf; `flips`: the bits in error (20 R427). -/
structure TlbEntry where
  dom : Nat
  page : Nat
  bits : Nat
  leaf : Word
  flips : Flips := 0
deriving DecidableEq, Repr

/-- A translation under way until `due` (13 R276): the page, the cores that wait for it, what it finds; `near`: it is found in the
cluster's TLB, by no walk; `timed`: a timed strand waits for it, and the VCC holds (12 R242). -/
structure Walk where
  dom : Nat
  va : Word
  cores : List Nat
  due : Nat
  entry : TlbEntry
  near : Bool
  timed : Bool
deriving DecidableEq, Repr

/-- One core (01 R11). `misses`: the last micro-TLB misses, each with its slot and domain (20 R430); `metaErr`: the metadata bits in
error, by line; `activeErr`, `shadowErr`: those of the planes, by word (20 R427). `activeClean`, `shadowClean`: the tag and domain that a
POISON plane would carry had its load not failed (07 R143, 09 R186); `deepProbe`: word 0 of diagnostic space 5 (20 R425). -/
structure Core where
  spad : Mem := []
  spadMeta : Sp (BitVec 36) := []
  spadErr : Sp Flips := []
  repair : Sp Word := []
  summary : Word := 0
  einj : Word := 0
  owner : Sp (BitVec 8) := []
  withdraw : Bool := false
  restart : Bool := false
  code : List CodeLine := []
  utlb : List TlbEntry := []
  active : Plane := ⟨0, 0, 0⟩
  shadow : Plane := ⟨0, 0, 0⟩
  activeClean : Nat × Nat := (0, 0)
  shadowClean : Nat × Nat := (0, 0)
  vq : List Cmd := []
  mq : List Cmd := []
  vrun : List Run := []
  mrun : List Run := []
  robin : Sp Nat := []
  vrobin : Nat := 0
  divider : Nat := 0
  portLog : List Word := []
  deepProbe : Nat := 0
  misses : List (Nat × Nat × Word) := []
  metaErr : Sp Flips := []
  activeErr : Sp Flips := []
  shadowErr : Sp Flips := []
deriving DecidableEq, Repr

/-- A record in a ready queue, spill queue or resume list (11 R216, R217, R226, R229). -/
structure Ready where
  ref : RecRef
  prio : Nat
  started : Bool
  fresh : Bool
  since : Nat
  core : Option Nat
  busy : Bool
deriving DecidableEq, Repr

/-- A record waiting on events (11 R225). -/
structure EvWaiter where
  ref : RecRef
  group : Nat
  mask : BitVec 16
deriving DecidableEq, Repr

/-- A record that its cluster keeps for want of a place and offers again in cycle `again` (11 R218); `msg`: the slot and the
journal entry of the message that settles once it is placed (17 R370). -/
structure Kept where
  again : Nat
  entry : Ready
  msg : Option (Nat × Nat) := none
deriving DecidableEq, Repr

/-- A request in a router (14 R303, R304): its input, its slot and role, its number, whether it returns a value, its operand, its
address, and the code address of its instruction. -/
structure Request where
  input : Nat
  slot : Nat
  role : Role
  ticket : Nat
  returns : Bool
  operand : Word
  va : Word
  pc : BitVec 32
deriving DecidableEq, Repr

/-- A merge group of a router (14 R304): its key, the cycle it opened, its members in order of arrival. -/
structure Merge where
  place : Place
  w : Nat
  op : Nat
  opened : Nat
  members : List Request
deriving DecidableEq, Repr

/-- One cluster: its scheduler, events, monitors, error log and router (11, 15, 20 R427, 14 R303). -/
structure Cluster where
  ready : List Ready := []
  spill : List Ready := []
  resume : List Ready := []
  kept : List Kept := []
  refillAt : Nat := 0
  wait : List EvWaiter := []
  overflow : List EvWaiter := []
  monitors : List (RecRef × Place) := []
  poll : List (RecRef × Nat) := []
  frameWait : List (RecRef × BitVec 48) := []
  events : BitVec 256 := 0
  since : BitVec 256 := 0
  changes : List (Nat × Bool × Nat × BitVec 16) := []
  log : Sp (BitVec 256) := []
  logHead : Nat := 0
  logLost : Nat := 0
  saves : List Word := []
  tlb : List TlbEntry := []
  groups : List Merge := []
  tails : Sp Nat := []
deriving DecidableEq, Repr

/-- A cancel scope (12 R259). -/
structure Scope where
  state : Nat := 0
  parent : Nat := 0
  live : Nat := 0
  depth : Nat := 0
  even : Bool := false
  dom : Nat := 0
  ecl : Nat := 0
  evb : Nat := 0
  ack : BitVec 56 := 0
deriving DecidableEq, Repr

/-- A phaser (15 R323). `childMp`: its MP in its parent; `applied`: its signal has been applied there, and it is held on that phase;
`signals`: child signals the parent keeps pending, as (child, phase). -/
structure Phaser where
  live : Bool := false
  dom : Nat := 0
  phase : BitVec 16 := 0
  out : Nat := 0
  ns : Nat := 0
  parent : Nat := 0
  ratio : Nat := 0
  rcnt : Nat := 0
  held : Bool := false
  childMp : BitVec 16 := 0
  applied : Bool := false
  signals : List (Nat × BitVec 16) := []
deriving DecidableEq, Repr

/-- A phaser membership (15 R323); mode 1 SIG, 2 WAIT, 3 SIGWAIT. -/
structure Member where
  record : Nat
  phaser : Nat
  mode : Nat
  mp : BitVec 16
  wp : BitVec 16
  data : Bool
deriving DecidableEq, Repr

/-- The state of a staging buffer (18 R381). -/
inductive BufState where
  | free | fill | ready | cur | held
deriving DecidableEq, Repr

/-- A staging buffer (18 R381, R385): its state, its holds, the segment in it. -/
structure Buf where
  st : BufState := .free
  holds : Nat := 0
  header : BitVec 512 := 0
  seg : Nat := 0
deriving DecidableEq, Repr

/-- How a segment stands (18 R376, R387). -/
inductive SegStatus where
  | weights | empty | lost | invalid | badCrc | badDecode
deriving DecidableEq, Repr

/-- A segment between its arrival and its compute frame (18 R383, R384, R386): its ring frame, header, payload, the
cycle its decode starts (D_r), whether that has happened, the buffer it claimed, whether its decode time is over, and the
codes (length, code, symbol) that its decode began with (17 R371); `slices`: what each core's slice decodes to, and whether it
decodes (18 R379). -/
structure Seg where
  frame : Nat
  header : BitVec 512
  payload : Mem
  status : SegStatus
  decodeAt : Nat
  begun : Bool
  buf : Option Nat
  waiting : Bool
  codes : List (Nat × Nat × Nat)
  slices : List (List Nat × Bool) := []
deriving DecidableEq, Repr

/-- A timetable entry still to release (12 R247). -/
structure TEntry where
  index : Nat
  tick : Nat
  slot : Nat
  eticks : BitVec 32
  tmpl : Word
  ecrc : BitVec 32
deriving DecidableEq, Repr

/-- The compute frame that runs or ran last (12 R245): `no` counts frames since reset; `mismatch`: sys.tval of the GENMIS that
its strands take (22 R458). -/
structure Frame where
  running : Bool := false
  no : Nat := 0
  start : Nat := 0
  header : BitVec 512 := 0
  buf : Option Nat := none
  entries : List TEntry := []
  mismatch : Option Word := none
deriving DecidableEq, Repr

/-- A parked scope (18 R389, R399). -/
structure Park where
  scope : Nat
  rejoin : Nat
  auto : Bool
  dom : Nat
deriving DecidableEq, Repr

/-- A slot of the package's ring store (18 R383, 22 R450): the plan index, the ring frame it arrived in, the header as
it will be forwarded, the payload, the place in the ring store region it stands in (13 R272). -/
structure RingSlot where
  plan : Nat
  place : Nat
  frame : Nat
  header : BitVec 512
  payload : Mem
deriving DecidableEq, Repr

/-- One port's link (22 R451, R452, R453): the sequence numbers of the next flit to send and to receive, whether it discards
until a replay, the replays that failed in a row, the cycle of the last flit or heartbeat received, the cycle it lost its
training in, and whether it joins the neighbour beyond a failed package. Of the oldest slot of the ring store `sent` flits have
been sent and `acked` acknowledged; those between stand in the replay buffer. -/
structure Link where
  trained : Bool := true
  nextSend : BitVec 16 := 0
  nextRecv : BitVec 16 := 0
  discarding : Bool := false
  replayFails : Nat := 0
  silentSince : Nat := 0
  retrainedOver : Bool := false
  untrainedSince : Nat := 0
  sent : Nat := 0
  acked : Nat := 0
deriving DecidableEq, Repr

/-- The ring as this package sees it (22 R450 to R457, 23 R463). `incoming`, `flits`: the slot that crosses U; `planIndex`: the plan index
expected next; `sent`, `sentPlan`: the header and plan index last forwarded; `lost`: the LOST headers that the last graft emitted;
`former`: RING at the declaration; `latched`: this package's grafts are latched; `releasing`: the position a release joins and the cycle
it began in; `refills`: LOST slots to refill, the first under way; `refilled`: the refill area; `into`: the place the arriving slot is
written to; `away`: positions whose retraining pauses the ring; `report`: the plan index of the last slot received, as reported across a
graft. -/
structure Ring where
  up : Link := {}
  down : Link := {}
  paused : Bool := false
  incoming : Mem := []
  flits : Nat := 0
  store : List RingSlot := []
  planIndex : Nat := 0
  frameNo : Nat := 0
  frameStart : Nat := 0
  sent : BitVec 512 := 0
  sentPlan : Nat := 0
  lost : List (BitVec 512) := []
  failed : List Nat := []
  latched : Bool := false
  former : Word := 0
  releasing : Option (Nat × Nat) := none
  refills : List (BitVec 512) := []
  refilled : List (BitVec 512 × Mem) := []
  heartbeat : Nat := 0
  into : Option Nat := none
  away : List Nat := []
  report : Option Nat := none
deriving DecidableEq, Repr

/-- A generation swap (22 R457): its domain, GENSRC as it stood at GO, the ring frame in which PEND was set; RESUME as it has been set. -/
structure Swap where
  dom : Nat := 0
  pend : Bool := false
  paused : Bool := false
  source : Word := 0
  since : Nat := 0
  resume : Bool := false
deriving DecidableEq, Repr

/-- A batch of launch indices granted to a die (22 R445, R446): `done` of its `count` indices are placed; the dispatcher tries again
in cycle `retryAt` (22 R448). -/
structure Grant where
  launch : Nat
  first : Nat
  count : Nat
  done : Nat
  die : Nat
  cluster : Nat
  acked : Bool
  retryAt : Nat
deriving DecidableEq, Repr

/-- The die dispatchers (22 R445, R446). -/
structure Dispatch where
  liveDies : BitVec 4 := 0xF
  leader : Option Nat := none
  mirrorDie : Option Nat := none
  mirror : List Grant := []
deriving DecidableEq, Repr

/-- A launch read from the queue (22 R447): `next` counts the indices granted; `records` are its unfinished records with the
die each runs on. -/
structure Launch where
  id : Nat
  template : BitVec 512
  nidx : Nat
  dom : Nat
  sup : Bool
  compl : Nat
  cookie : Word
  next : Nat
  status : Nat
  lost : Nat
  records : List (Nat × Nat)
deriving DecidableEq, Repr

/-- One die's undo log (20 R432): the lines logged in the current interval; the records stand in the undo region; `wakes`: the lines of
records whose monitors are still to wake (15 R321). -/
structure Undo where
  lines : List Nat := []
  warned : Bool := false
  fullLogged : Bool := false
  wakes : List Nat := []
deriving DecidableEq, Repr

/-- A write by hardware that stalls for want of room in the undo log (20 R432). -/
structure HwStore where
  place : Place
  n : Nat
  val : Nat
  stamp : BitVec 36
  slot : Nat
  dom : Nat
deriving DecidableEq, Repr

/-- A disturbance of stored bits in a cycle (20 R427): the array by its number in the error log, or 16 more for line metadata; the core
or slot, the index of the word, the bits flipped. -/
structure Strike where
  cycle : Nat
  array : Nat
  unit : Nat
  index : Nat
  bits : Flips
deriving DecidableEq, Repr

/-- What the machine does next within a cycle: a context takes an issue opportunity, the positions of a core choose and
issue, a step without a word happens, a copy queue moves a chunk, the next tick is judged for late accesses. -/
inductive Act where
  | issue (slot : Nat) (role : Role)
  | issuing (core : Nat)
  | event (c : Context) (i : Instr)
  | chunk (core q : Nat)
  | lookAhead
deriving DecidableEq, Repr

/-- The whole machine: one package, and its neighbours, host and supervisor as far as they act on it. `ticks`: the running
cycle advances the VCC (12 R240); `late`: the next tick has a late access; `bgenSet`: DOM word 10 as last written (22 R458);
`regionsSet`: the region words that firmware has written (22 R441); `preemptedOn`: the core that preempted a PREEMPTED record, by the
record's address (20 R411); `exitedOn`: the records into which a suspension has written a CPTR of 0 for a computer that had exited
(11 R221). -/
structure State where
  cycle : Nat
  agenda : List Act
  inputs : List (Nat × Context × Instr)
  delays : List Nat
  freeCount : Nat
  seqNo : Nat
  cur : Context
  issued : Bool
  powered : Bool
  slots : Sp Slot
  cores : Sp Core
  clusters : Sp Cluster
  deep : Mem
  deepMeta : Sp (BitVec 36)
  deepErr : Sp Flips
  host : Mem
  remote : Sp Mem
  rom : Sp (BitVec 512)
  windowBase : Nat
  mgmt : Sp Word
  measurement : BitVec 384
  vcc : Nat
  ticks : Bool
  holdsVcc : List Nat
  frameCtr : BitVec 48
  frame : Frame
  slips : Nat
  slipTail : Nat
  skipTail : Nat
  kvTails : Sp Nat
  slipping : Option Nat
  bufs : Sp Buf
  segs : List Seg
  lastHeader : BitVec 512
  anyHeader : Bool
  codeTabs : Sp (List Nat)
  parks : List Park
  scopes : Sp Scope
  phasers : Sp Phaser
  members : List Member
  phWait : List (RecRef × Nat × Nat)
  dormant : List (RecRef × Nat)
  ring : Ring
  swap : Swap
  dispatch : Dispatch
  launches : List Launch
  cursors : Sp Nat
  snap : Word
  snapAt : Option (Nat × Nat)
  snapRegs : Sp Word
  undo : Sp Undo
  interval : BitVec 32
  scrubbed : Sp Nat
  stalled : List HwStore
  deepMetaErr : Sp Flips
  strikes : List Strike
  late : Bool
  walks : List Walk
  bgenSet : Sp Nat
  regionsSet : List Nat
  preemptedOn : Sp Nat
  exitedOn : List Nat
deriving DecidableEq, Repr

/-- Why the machine stops. -/
inductive Fault where
  /-- Raised by a step while this package has no power and no POWER_UP_RESET is due (22 R443, R453): the spec gives no step
  there. Safe: the machine stops where the part does. -/
  | powerLost
deriving DecidableEq, Repr

/-- Why a step has no meaning. -/
inductive Refusal where
  /-- Raised by `exec` for an instruction whose meaning is not written. Safe. -/
  | notModelled (mnemonic : String)
deriving DecidableEq, Repr

/-- The context of the boot ROM: the computer role of slot 0 of core 0 (02 R40). -/
def bootContext : Context := ⟨0, .computer, 0, 0, .up, 0⟩

/-- The boot strand (02 R40, 22 R443): the ROM's computer role, of no record in memory. -/
def bootStrand : Strand :=
  { ref := ⟨0, 0, 0, true⟩, prio := 0, scope := 0, started := false, timed := false, preempted := false, smask := 0,
    groups := 0, boot := true }

/-- Slot 0 after reset: its computer role stands at the ROM's entry, line 0x0FFF_F000 word 1, in supervisor mode; the
other two roles of the boot slot are absent, and SUP is 1 in the boot slot (02 R39, R40, 22 R443). -/
def bootSlot : Slot :=
  { strand := some bootStrand, lo := { sup := true }, co := { present := true, sup := true, pc := 0x1FFFF000 },
    st := { sup := true } }

/-- The machine right after power-up reset (02 R40). -/
def State.reset : State :=
  { cycle := 0
    agenda := [.issue 0 .computer]
    inputs := []
    delays := []
    freeCount := 0
    seqNo := 1
    cur := bootContext
    issued := false
    powered := true
    slots := [(0, bootSlot)]
    cores := []
    clusters := []
    deep := []
    deepMeta := []
    deepErr := []
    host := []
    remote := []
    rom := []
    windowBase := 0xFFFFFFFF0000
    mgmt := []
    measurement := 0
    vcc := 0
    ticks := true
    holdsVcc := []
    frameCtr := 0
    frame := {}
    slips := 0
    slipTail := 0
    skipTail := 0
    kvTails := []
    slipping := none
    bufs := []
    segs := []
    lastHeader := 0
    anyHeader := false
    codeTabs := []
    parks := []
    scopes := []
    phasers := []
    members := []
    phWait := []
    dormant := []
    ring := {}
    swap := {}
    dispatch := {}
    launches := []
    cursors := []
    snap := 0
    snapAt := none
    snapRegs := []
    undo := []
    interval := 0
    scrubbed := []
    stalled := []
    deepMetaErr := []
    strikes := []
    late := false
    walks := []
    bgenSet := []
    regionsSet := []
    preemptedOn := []
    exitedOn := [] }

end Sys2Proof.Machine
end

