-- ==== Sys2Proof/Machine/Base.lean ====
section
/-! DEFINITION. Accessors of the state, the numbering of the units (01 R9), the slot's clock, and the cluster error log
(20 R427). -/

namespace Sys2Proof.Machine

/-! ### Units (01 R9, R10) -/

/-- The core of a slot. -/
def coreOf (slot : Nat) : Nat := slot / 4

/-- The cluster of a slot. -/
def clusterOf (slot : Nat) : Nat := slot / 16

/-- The die of a slot. -/
def dieOf (slot : Nat) : Nat := slot / 64

/-- The number sys.status.ROLE and the log give a role (02 R39). -/
def roleNum (r : Role) : Nat :=
  match r with
  | .loader => 1
  | .computer => 2
  | .storer => 3

/-- The roles in ascending number. -/
def allRoles : List Role := [.loader, .computer, .storer]

/-! ### Slots, roles, cores, clusters -/

def State.slot (s : State) (k : Nat) : Slot := s.slots.get k {}
def State.setSlot (s : State) (k : Nat) (x : Slot) : State := { s with slots := s.slots.set k x }
def State.modSlot (s : State) (k : Nat) (f : Slot → Slot) : State := s.setSlot k (f (s.slot k))

def Slot.role (x : Slot) (r : Role) : RoleCtx :=
  match r with
  | .loader => x.lo
  | .computer => x.co
  | .storer => x.st

def Slot.setRole (x : Slot) (r : Role) (c : RoleCtx) : Slot :=
  match r with
  | .loader => { x with lo := c }
  | .computer => { x with co := c }
  | .storer => { x with st := c }

def Slot.modRole (x : Slot) (r : Role) (f : RoleCtx → RoleCtx) : Slot := x.setRole r (f (x.role r))

def Slot.modRoles (x : Slot) (f : RoleCtx → RoleCtx) : Slot := { x with lo := f x.lo, co := f x.co, st := f x.st }

def State.role (s : State) (k : Nat) (r : Role) : RoleCtx := (s.slot k).role r

def State.modRole (s : State) (k : Nat) (r : Role) (f : RoleCtx → RoleCtx) : State :=
  s.modSlot k (fun x => x.modRole r f)

def State.core (s : State) (k : Nat) : Core := s.cores.get k {}
def State.modCore (s : State) (k : Nat) (f : Core → Core) : State := { s with cores := s.cores.set k (f (s.core k)) }

def State.cluster (s : State) (k : Nat) : Cluster := s.clusters.get k {}
def State.modCluster (s : State) (k : Nat) (f : Cluster → Cluster) : State :=
  { s with clusters := s.clusters.set k (f (s.cluster k)) }

/-- The slot and role of the context that issues. -/
def State.me (s : State) : Nat := s.cur.slot.toNat

def State.myRole (s : State) : RoleCtx := s.role s.me s.cur.role

def State.modMe (s : State) (f : RoleCtx → RoleCtx) : State := s.modRole s.me s.cur.role f

def Slot.timed (x : Slot) : Bool :=
  match x.strand with
  | some t => t.timed
  | none => false

/-- The running cycle is paused: it does not advance the VCC (12 R240, R241). -/
def State.vccPaused (s : State) : Bool := !s.ticks

/-- The clock a slot counts in: ticks for a timed strand, cycles otherwise (12 R241). -/
def State.clock (s : State) (k : Nat) : Nat := if (s.slot k).timed then s.vcc else s.cycle

/-- The context of a slot's role. -/
def contextOf (slot : Nat) (r : Role) : Context := ⟨BitVec.ofNat 8 slot, r, 0, 0, .up, 0⟩

/-- A present role that has not exited. -/
def RoleCtx.runs (r : RoleCtx) : Bool := r.present && !r.exited

/-- A result reaches its register or flag; a write to s0 is discarded. -/
def RoleCtx.land (c : RoleCtx) (d : Dst) (v : Word) : RoleCtx :=
  match d with
  | .sreg n => if n = 0 then c else { c with regs := c.regs.put n v 0 }
  | .flag n =>
    let bit : BitVec 8 := 1#8 <<< n
    { c with flags := if v != 0 then c.flags ||| bit else c.flags &&& ~~~bit }

/-- The registers with every fixed-latency write landed. -/
def RoleCtx.finalRegs (c : RoleCtx) : RoleCtx :=
  { (c.pend.foldl (fun (acc : RoleCtx) p => acc.land p.dst p.val) c) with pend := [] }

/-- The record's scope of the strand in a slot; 0 where there is none. -/
def Slot.scope (x : Slot) : Nat :=
  match x.strand with
  | some t => t.scope
  | none => 0

/-- Insert a word into a field of another: bits [lo + w - 1 : lo] of `x` become the low bits of `v`. -/
def insertBits (x : Word) (lo w : Nat) (v : Nat) : Word :=
  let m := ((BitVec.ofNat 64 (2 ^ w - 1)) <<< lo)
  (x &&& ~~~m) ||| ((BitVec.ofNat 64 (v % 2 ^ w)) <<< lo)

/-- Bits [lo + w - 1 : lo] of a word, as a number. -/
def bitsOf (x : Word) (lo w : Nat) : Nat := (x.toNat / 2 ^ lo) % 2 ^ w

/-- SignedDiff of two 16-bit phases (14 R296). -/
def signedDiff16 (x y : BitVec 16) : Int := (x - y).toInt

/-- SignedDiff of two 48-bit frame numbers (12 R257). -/
def signedDiff48 (x y : BitVec 48) : Int := (x - y).toInt

/-! ### A free value and a timing choice -/

/-- A value the spec leaves open (log entry 6). -/
def takeFree (s : State) (w : Nat) : BitVec w × State :=
  (Config.freeValue s.freeCount w, { s with freeCount := s.freeCount + 1 })

/-- The next timing choice: cycles beyond the least delay (log entry 2); none left means no delay. -/
def takeDelay (s : State) : Nat × State :=
  match s.delays with
  | [] => (0, s)
  | d :: r => (d, { s with delays := r })

/-- A fresh number for queue order and router tickets. -/
def takeSeq (s : State) : Nat × State := (s.seqNo, { s with seqNo := s.seqNo + 1 })

/-! ### The cluster error log (20 R427) -/

/-- The arrays of a log record's ARRAY field. -/
def arraySpad : Nat := 0
def arrayRows : Nat := 1
def arrayTiles : Nat := 2
def arrayCode : Nat := 3
def arrayDeep : Nat := 4
def arrayPlanes : Nat := 7

/-- The number that stands for no slot where hardware that is no core's agent acts; its errors are logged in the first cluster
(DESIGN CHOICE, log entry 24). -/
def noSlot : Nat := 256

/-- The cluster whose error log takes what an agent finds. -/
def logCluster (slot : Nat) : Nat := if slot < noSlot then clusterOf slot else 0

/-- The SLOT field of a record: of hardware that is no core's agent a free value. -/
def slotField (s : State) (slot : Nat) : BitVec 8 × State := if slot < noSlot then (BitVec.ofNat 8 slot, s) else takeFree s 8

/-- Append a record to the error log of a cluster. -/
def logError (s : State) (cluster kind slot dom array code synd jidx : Nat) (addr md : Word) : State :=
  let (by', s) := slotField s slot
  let w0 : BitVec 64 := BitVec.ofNat 8 kind ++ by' ++ BitVec.ofNat 4 dom ++ BitVec.ofNat 4 array ++
    BitVec.ofNat 16 code ++ BitVec.ofNat 8 synd ++ (0 : BitVec 11) ++ BitVec.ofNat 5 jidx
  let rec256 : BitVec 256 := BitVec.ofNat 64 s.cycle ++ md ++ addr ++ w0
  s.modCluster cluster (fun c =>
    { c with
      log := c.log.put c.logHead rec256 0
      logHead := (c.logHead + 1) % 256
      logLost := if c.log.get c.logHead 0 = 0 then c.logLost else Nat.min (c.logLost + 1) (2 ^ 32 - 1) })

/-- A log record of slot `k` in its own cluster and domain. -/
def logSlot (s : State) (k kind array code : Nat) (addr : Word) (md : Word := 0) (jidx : Nat := 0) : State :=
  logError s (clusterOf k) kind k (s.slot k).domain array code (if kind = 2 then 0xFF else 0) jidx addr md

/-! ### The management registers (22 R440, R441) -/

/-- The management register at a window offset; unlisted registers read zero. -/
def State.mreg (s : State) (off : Nat) : Word := s.mgmt.get off 0
def State.setMreg (s : State) (off : Nat) (v : Word) : State := { s with mgmt := s.mgmt.put off v 0 }

/-- What a read of the window returns: the CORE words show the ownership table, WITHDRAW and whether a slot of the
core is halted; every other register is as stored (22 R440). -/
def State.windowRead (s : State) (off : Nat) : Word :=
  if 0x1000 ≤ off && off < 0x3000 then
    let k := (off - 0x1000) / 128
    let w := (off - 0x1000) % 128 / 8
    let c := s.core k
    if w < 8 then
      BitVec.ofNat 64 ((List.range 8).foldl (fun n b => n + (c.owner.get (8 * w + b) 0).toNat * 256 ^ b) 0)
    else if w = 8 then
      BitVec.ofNat 64 ((if c.withdraw then 1 else 0) + (if c.restart then 2 else 0) +
        (if (List.range 4).any (fun j => (s.slot (4 * k + j)).halted) then 4 else 0))
    else 0
  else s.mreg off

/-- Word `w` of domain `d`'s DOM block. -/
def State.domWord (s : State) (d w : Nat) : Word := s.mreg (0x800 + 128 * d + 8 * w)

/-- Word `w` of cluster `c`'s list words. -/
def State.clusterWord (s : State) (c w : Nat) : Word := s.mreg (0x3000 + 128 * c + 8 * w)

/-- The package's ring position and the ring length (RING). -/
def State.ringPos (s : State) : Nat := bitsOf (s.mreg 0x80) 0 8
def State.ringLen (s : State) : Nat := bitsOf (s.mreg 0x80) 8 9

/-- Frame mode of a domain (12 R227, 22 R440). -/
def State.frameMode (s : State) (d : Nat) : Bool := (s.domWord d 3).getLsbD 0

/-- Bit `k` of the slot reservation mask of domain `d` (DOM words 4 to 7). -/
def State.maskBit (s : State) (d k : Nat) : Bool := (s.domWord d (4 + k / 64)).getLsbD (k % 64)

/-- The domain that reserves slot `k`, if any: frame mode is on and the mask names it (11 R227). -/
def State.reservedBy (s : State) (k : Nat) : Option Nat :=
  (List.range 16).find? (fun d => s.frameMode d && s.maskBit d k)

/-- STGBASE, the staging region's offset; 0x3A_0000 until firmware writes it (18 R380; DEDUCED, log entry 71). -/
def State.stgBase (s : State) : Nat := if s.regionsSet.contains 0x200 then bitsOf (s.mreg 0x200) 0 22 else 0x3A0000

/-- Set a bit of EVENTS (22 R440). -/
def State.raiseEvent (s : State) (n : Nat) : State := s.setMreg 0x20 (s.mreg 0x20 ||| (1#64 <<< n))

/-- The ring store's size in MiB on a die (13 R272); 1,152 until firmware writes it (DEDUCED, log entry 71). -/
def State.ringStoreMiB (s : State) (d : Nat) : Nat :=
  if s.regionsSet.contains (0x208 + 8 * d) then (s.mreg (0x208 + 8 * d)).toNat else 1152

/-- The regions of the deep store (13 R272). -/
inductive Region where
  | general | undo | ring
deriving DecidableEq, Repr

/-- The region of a deep-store physical address. -/
def State.regionOf (s : State) (pa : Nat) : Region :=
  let d := pa / 2 ^ 32 % 4
  let o := pa % 2 ^ 32
  let ringAt := (4096 - s.ringStoreMiB d) * 2 ^ 20
  if ringAt ≤ o then .ring else if ringAt - 256 * 2 ^ 20 ≤ o then .undo else .general

end Sys2Proof.Machine
end

