-- ==== Sys2Proof/Machine/Crypto.lean ====
section
/-! DEFINITION. SHA-384 and ECDSA on brainpoolP384r1 of RFC 5639, by which firmware is accepted and reports are signed (22 R443, R444).
The spec names both and gives neither's tables: they are taken from their published standards (PRESUMED, log entry 7). -/

namespace Sys2Proof.Machine

/-! ### SHA-384 -/

/-- The round constants, twenty a list. -/
def roundWords0 : List Word :=
  [ 0x428A2F98D728AE22, 0x7137449123EF65CD, 0xB5C0FBCFEC4D3B2F, 0xE9B5DBA58189DBBC,
    0x3956C25BF348B538, 0x59F111F1B605D019, 0x923F82A4AF194F9B, 0xAB1C5ED5DA6D8118,
    0xD807AA98A3030242, 0x12835B0145706FBE, 0x243185BE4EE4B28C, 0x550C7DC3D5FFB4E2,
    0x72BE5D74F27B896F, 0x80DEB1FE3B1696B1, 0x9BDC06A725C71235, 0xC19BF174CF692694,
    0xE49B69C19EF14AD2, 0xEFBE4786384F25E3, 0x0FC19DC68B8CD5B5, 0x240CA1CC77AC9C65 ]

def roundWords1 : List Word :=
  [ 0x2DE92C6F592B0275, 0x4A7484AA6EA6E483, 0x5CB0A9DCBD41FBD4, 0x76F988DA831153B5,
    0x983E5152EE66DFAB, 0xA831C66D2DB43210, 0xB00327C898FB213F, 0xBF597FC7BEEF0EE4,
    0xC6E00BF33DA88FC2, 0xD5A79147930AA725, 0x06CA6351E003826F, 0x142929670A0E6E70,
    0x27B70A8546D22FFC, 0x2E1B21385C26C926, 0x4D2C6DFC5AC42AED, 0x53380D139D95B3DF,
    0x650A73548BAF63DE, 0x766A0ABB3C77B2A8, 0x81C2C92E47EDAEE6, 0x92722C851482353B ]

def roundWords2 : List Word :=
  [ 0xA2BFE8A14CF10364, 0xA81A664BBC423001, 0xC24B8B70D0F89791, 0xC76C51A30654BE30,
    0xD192E819D6EF5218, 0xD69906245565A910, 0xF40E35855771202A, 0x106AA07032BBD1B8,
    0x19A4C116B8D2D0C8, 0x1E376C085141AB53, 0x2748774CDF8EEB99, 0x34B0BCB5E19B48A8,
    0x391C0CB3C5C95A63, 0x4ED8AA4AE3418ACB, 0x5B9CCA4F7763E373, 0x682E6FF3D6B2B8A3,
    0x748F82EE5DEFB2FC, 0x78A5636F43172F60, 0x84C87814A1F0AB72, 0x8CC702081A6439EC ]

def roundWords3 : List Word :=
  [ 0x90BEFFFA23631E28, 0xA4506CEBDE82BDE9, 0xBEF9A3F7B2C67915, 0xC67178F2E372532B,
    0xCA273ECEEA26619C, 0xD186B8C721C0C207, 0xEADA7DD6CDE0EB1E, 0xF57D4F7FEE6ED178,
    0x06F067AA72176FBA, 0x0A637DC5A2C898A6, 0x113F9804BEF90DAE, 0x1B710B35131C471B,
    0x28DB77F523047D84, 0x32CAAB7B40C72493, 0x3C9EBE0A15C9BEBC, 0x431D67C49C100D4C,
    0x4CC5D4BECB3E42B6, 0x597F299CFC657E2A, 0x5FCB6FAB3AD6FAEC, 0x6C44198C4A475817 ]

def roundWords : List Word := roundWords0 ++ roundWords1 ++ roundWords2 ++ roundWords3

/-- The hash words before the first block. -/
def hashInit : List Word :=
  [ 0xCBBB9D5DC1059ED8, 0x629A292A367CD507, 0x9159015A3070DD17, 0x152FECD8F70E5939,
    0x67332667FFC00B31, 0x8EB44A8768581511, 0xDB0C2E0D64F98FA7, 0x47B5481DBEFA4FA4 ]

/-- The mixing functions of a word. -/
def bigSigma0 (x : Word) : Word := x.rotateRight 28 ^^^ x.rotateRight 34 ^^^ x.rotateRight 39
def bigSigma1 (x : Word) : Word := x.rotateRight 14 ^^^ x.rotateRight 18 ^^^ x.rotateRight 41
def smallSigma0 (x : Word) : Word := x.rotateRight 1 ^^^ x.rotateRight 8 ^^^ (x >>> 7)
def smallSigma1 (x : Word) : Word := x.rotateRight 19 ^^^ x.rotateRight 61 ^^^ (x >>> 6)

/-- The next word of a message schedule, of which the last sixteen are given, the newest first. -/
def nextWord (l : List Word) : Word :=
  smallSigma1 (l.getD 1 0) + l.getD 6 0 + smallSigma0 (l.getD 14 0) + l.getD 15 0

/-- A schedule grown by `n` words. -/
def growSchedule (l : List Word) (n : Nat) : List Word :=
  match n with
  | 0 => l
  | k + 1 => growSchedule (nextWord l :: l) k

/-- One round on the eight working words. -/
def hashRound (v : List Word) (k w : Word) : List Word :=
  let a := v.getD 0 0
  let b := v.getD 1 0
  let c := v.getD 2 0
  let e := v.getD 4 0
  let f := v.getD 5 0
  let g := v.getD 6 0
  let t1 := v.getD 7 0 + bigSigma1 e + ((e &&& f) ^^^ (~~~e &&& g)) + k + w
  let t2 := bigSigma0 a + ((a &&& b) ^^^ (a &&& c) ^^^ (b &&& c))
  [t1 + t2, a, b, c, v.getD 3 0 + t1, e, f, g]

/-- One block of sixteen words. -/
def hashBlock (h block : List Word) : List Word :=
  let w := (growSchedule block.reverse 64).reverse
  let v := (roundWords.zip w).foldl (fun v e => hashRound v e.1 e.2) h
  (h.zip v).map (fun e => e.1 + e.2)

/-- A big-endian number. -/
def bigEndian (l : List Byte) : Nat := l.foldl (fun n b => 256 * n + b.toNat) 0

/-- The words of a block from byte `i` on. -/
def blockWordsAt (m : List Byte) (i : Nat) : List Word :=
  (List.range 16).map (fun j => BitVec.ofNat 64 (bigEndian ((m.drop (i + 8 * j)).take 8)))

/-- The message padded to whole blocks: a one bit, zeros, its length in bits. -/
def padded (m : List Byte) : List Byte :=
  let n := m.length
  let zeros := (239 - n % 128) % 128
  m ++ 0x80#8 :: List.replicate zeros 0#8 ++ (List.range 16).map (fun i => BitVec.ofNat 8 (8 * n / 256 ^ (15 - i)))

/-- SHA-384 of a byte list. -/
def sha384 (m : List Byte) : BitVec 384 :=
  let p := padded m
  let h := (List.range (p.length / 128)).foldl (fun h i => hashBlock h (blockWordsAt (p.drop (128 * i)) 0)) hashInit
  BitVec.ofNat 384 ((h.take 6).foldl (fun n w => 2 ^ 64 * n + w.toNat) 0)

/-! ### The curve -/

/-- The field's prime, the coefficients, the base point and its order. -/
def curveP : Nat := 0x8CB91E82A3386D280F5D6F7E50E641DF152F7109ED5456B412B1DA197FB71123ACD3A729901D1A71874700133107EC53
def curveA : Nat := 0x7BC382C63D8C150C3C72080ACE05AFA0C2BEA28E4FB22787139165EFBA91F90F8AA5814A503AD4EB04A8C7DD22CE2826
def curveB : Nat := 0x04A8C7DD22CE28268B39B55416F0447C2FB77DE107DCD2A62E880EA53EEB62D57CB4390295DBC9943AB78696FA504C11
def curveGx : Nat := 0x1D1C64F068CF45FFA2A63A81B7C13F6B8847A3E77EF14FE3DB7FCAFE0CBD10E8E826E03436D646AAEF87B2E247D4AF1E
def curveGy : Nat := 0x8ABE1D7520F9C2A45CB1EB8E95CFD55262B70B29FEEC5864E19C054FF99129280E4646217791811142820341263C5315
def curveN : Nat := 0x8CB91E82A3386D280F5D6F7E50E641DF152F7109ED5456B31F166E6CAC0425A7CF3AB6AF6B7FC3103B883202E9046565

/-- A power modulo `m`; `fuel` bounds the exponent's bits. -/
def powMod (m b e fuel : Nat) : Nat :=
  match fuel with
  | 0 => 1 % m
  | k + 1 =>
    let r := powMod m (b * b % m) (e / 2) k
    if e % 2 = 1 then r * b % m else r

/-- The inverse modulo a prime of at most 384 bits. -/
def invMod (m x : Nat) : Nat := powMod m (x % m) (m - 2) 384

/-- A point of the curve; `none` is the neutral one. -/
abbrev Point := Option (Nat × Nat)

/-- The sum of two points. -/
def addPoint (a b : Point) : Point :=
  match a, b with
  | none, q => q
  | q, none => q
  | some (x1, y1), some (x2, y2) =>
    if x1 = x2 && (y1 + y2) % curveP = 0 then none
    else
      let l :=
        if x1 = x2 then (3 * x1 * x1 + curveA) * invMod curveP (2 * y1) % curveP
        else (y2 + curveP - y1) * invMod curveP (x2 + curveP - x1) % curveP
      let x := (l * l + 2 * curveP - x1 - x2) % curveP
      some (x, (l * (x1 + curveP - x) + curveP - y1) % curveP)

/-- A multiple of a point; `fuel` bounds the factor's bits. -/
def mulPoint (k : Nat) (a : Point) (fuel : Nat) : Point :=
  match fuel with
  | 0 => none
  | n + 1 =>
    let r := mulPoint (k / 2) (addPoint a a) n
    if k % 2 = 1 then addPoint a r else r

/-- The point lies on the curve. -/
def onCurve (x y : Nat) : Bool :=
  decide (x < curveP) && decide (y < curveP) && decide (y * y % curveP = (x * x * x + curveA * x + curveB) % curveP)

/-- The ECDSA check: public key (x, y), hash, signature (r, s). -/
def ecdsaVerifies (q : BitVec 768) (z : BitVec 384) (sig : BitVec 768) : Bool :=
  let x := q.toNat / 2 ^ 384
  let y := q.toNat % 2 ^ 384
  let r := sig.toNat / 2 ^ 384
  let s := sig.toNat % 2 ^ 384
  let inOrder (n : Nat) : Bool := decide (0 < n) && decide (n < curveN)
  onCurve x y && inOrder r && inOrder s &&
    (let w := invMod curveN s
     match addPoint (mulPoint (z.toNat * w % curveN) (some (curveGx, curveGy)) 384) (mulPoint (r * w % curveN) (some (x, y)) 384) with
     | none => false
     | some (px, _) => px % curveN = r)

/-- The ECDSA signature of a hash by a private key with a nonce: r, then s. -/
def ecdsaSign (key nonce : Nat) (z : BitVec 384) : BitVec 768 :=
  match mulPoint (nonce % curveN) (some (curveGx, curveGy)) 384 with
  | none => 0
  | some (px, _) =>
    let r := px % curveN
    BitVec.ofNat 384 r ++ BitVec.ofNat 384 (invMod curveN nonce * (z.toNat + r * key) % curveN)

/-- The report's signature, by the package's identity key (22 R444). -/
def identitySign (z : BitVec 384) : BitVec 768 := ecdsaSign Config.identityKey (Config.identityNonce z) z

end Sys2Proof.Machine
end

