-- ==== Sys2Proof/Machine/Flags.lean ====
section
/-! DEFINITION. The scalar computations and conditions (04 R69 to R79, R83), and the CRC-32C of a block (12 R252). -/

namespace Sys2Proof.Machine

/-- 1 when the condition holds, else 0 (04 R72). -/
def bool64 (b : Bool) : Word := if b then 1 else 0

/-- A signed and an unsigned comparison. -/
def slt64 (a b : Word) : Bool := a.slt b
def ult64 (a b : Word) : Bool := a.ult b

/-- The high half of the signed product (04 R69). -/
def mulHigh (a b : Word) : Word := BitVec.ofInt 64 (a.toInt * b.toInt / 2 ^ 64)

/-- The high half of the unsigned product. -/
def mulHighU (a b : Word) : Word := BitVec.ofNat 64 (a.toNat * b.toNat / 2 ^ 64)

/-- The quotient of 04 R70. -/
def quotient (signed : Bool) (a b : Word) : Word :=
  if b = 0 then 0xFFFFFFFFFFFFFFFF
  else if signed then BitVec.ofInt 64 (a.toInt.tdiv b.toInt) else BitVec.ofNat 64 (a.toNat / b.toNat)

/-- The remainder of 04 R70. -/
def remainder (signed : Bool) (a b : Word) : Word :=
  if b = 0 then a
  else if signed then BitVec.ofInt 64 (a.toInt.tmod b.toInt) else BitVec.ofNat 64 (a.toNat % b.toNat)

/-- The shift count of a register form: B[5:0] (04 R71). -/
def count6 (b : Word) : Nat := b.toNat % 64

def shl64 (a : Word) (n : Nat) : Word := a <<< n
def shr64 (a : Word) (n : Nat) : Word := a >>> n
def sar64 (a : Word) (n : Nat) : Word := a.sshiftRight n
def rotl64 (a : Word) (n : Nat) : Word := (a <<< n) ||| (a >>> (64 - n))

/-- The number of leading zero bits; 64 for 0. -/
def clz64 (a : Word) : Word :=
  BitVec.ofNat 64 (((List.range 64).find? (fun i => a.getLsbD (63 - i))).getD 64)

/-- The number of trailing zero bits; 64 for 0. -/
def ctz64 (a : Word) : Word := BitVec.ofNat 64 (((List.range 64).find? (fun i => a.getLsbD i)).getD 64)

/-- The number of one bits. -/
def popc64 (a : Word) : Word :=
  BitVec.ofNat 64 ((List.range 64).foldl (fun n i => if a.getLsbD i then n + 1 else n) 0)

/-- Bit i of the result is bit 63 - i (04 R73). -/
def brev64 (a : Word) : Word :=
  BitVec.ofNat 64 ((List.range 64).foldl (fun n i => 2 * n + (if a.getLsbD i then 1 else 0)) 0)

/-- Byte i of the result is byte 7 - i. -/
def bswap64 (a : Word) : Word :=
  a.extractLsb' 0 8 ++ a.extractLsb' 8 8 ++ a.extractLsb' 16 8 ++ a.extractLsb' 24 8 ++
    a.extractLsb' 32 8 ++ a.extractLsb' 40 8 ++ a.extractLsb' 48 8 ++ a.extractLsb' 56 8

/-- The low `w` bits sign-extended, 1 ≤ w ≤ 64 (04 R67). -/
def signExtend64 (a : Word) (w : Nat) : Word := (a <<< (64 - w)).sshiftRight (64 - w)

/-- The low `w` bits zero-extended. -/
def zeroExtend64 (a : Word) (w : Nat) : Word := (a <<< (64 - w)) >>> (64 - w)

/-- The field [p + w - 1 : p] of `x` becomes the low `w` bits of `a` (04 R74). -/
def insField (x a : Word) (p w : Nat) : Word :=
  let m : Word := zeroExtend64 0xFFFFFFFFFFFFFFFF w <<< p
  (x &&& ~~~m) ||| ((a <<< p) &&& m)

/-- An address advances within a window of 2^k bytes (04 R77). -/
def wrap64 (a b : Word) (k : Nat) : Word :=
  let m : Word := (1#64 <<< k) - 1
  (a &&& ~~~m) ||| ((a + b) &&& m)

/-- An address rounds up to a multiple of 2^n. -/
def alignUp64 (a : Word) (n : Nat) : Word :=
  let m : Word := (1#64 <<< n) - 1
  (a + m) &&& ~~~m

/-- The conditions of FCMP (04 R78). -/
def fcmpHolds (cond : Nat) (a b : Word) : Bool :=
  match cond with
  | 0 => a == b
  | 1 => a != b
  | 2 => slt64 a b
  | 3 => !slt64 a b
  | 4 => ult64 a b
  | _ => !ult64 a b

/-- The operations of FLOG (04 R79). -/
def flogResult (op : Nat) (a b : Bool) : Bool :=
  match op with
  | 0 => a && b
  | 1 => a || b
  | 2 => a != b
  | 3 => a && !b
  | 4 => !a
  | 5 => a
  | 6 => false
  | _ => true

/-! ### CRC-32C (12 R252) -/

/-- One bit of the reflected CRC. -/
def crcBit (c : BitVec 32) : BitVec 32 := if c.getLsbD 0 then (c >>> 1) ^^^ 0x82F63B78 else c >>> 1

/-- One byte enters the CRC. -/
def crcByte (c : BitVec 32) (b : Byte) : BitVec 32 :=
  (List.range 8).foldl (fun x _ => crcBit x) (c ^^^ BitVec.setWidth 32 b)

/-- The CRC-32C of a byte string. -/
def crc32c (bs : List Byte) : BitVec 32 := ~~~(bs.foldl crcByte 0xFFFFFFFF)

/-- The bytes of a word in little-endian order. -/
def wordBytes (w : InstrWord) : List Byte := [w.extractLsb' 0 8, w.extractLsb' 8 8, w.extractLsb' 16 8, w.extractLsb' 24 8]

end Sys2Proof.Machine
end

