-- ==== Sys2Proof/Machine/Fp.lean ====
section
/-! DEFINITION. The floating-point formats, rounding, and exact arithmetic on them (07 R127 to R138). -/

namespace Sys2Proof.Machine

/-- A floating-point format (07 R127): mantissa bits, bias, the largest finite magnitude code, the code of infinity (0
for none), the canonical NaN, and whether FIN and FOUT apply (07 R134). -/
structure FFmt where
  width : Nat
  mbits : Nat
  bias : Nat
  maxCode : Nat
  infCode : Nat
  nanCode : Nat
  flush : Bool
deriving DecidableEq, Repr

def fp32 : FFmt := ⟨32, 23, 127, 0x7F7FFFFF, 0x7F800000, 0x7FC00000, true⟩
def bf16 : FFmt := ⟨16, 7, 127, 0x7F7F, 0x7F80, 0x7FC0, true⟩
def e5m2 : FFmt := ⟨8, 2, 15, 0x7B, 0x7C, 0x7E, false⟩
def e4m3 : FFmt := ⟨8, 3, 7, 0x7E, 0, 0x7F, false⟩

/-- The format of a floating-point tag code (07 R141). -/
def fmtOf (tag : Nat) : FFmt :=
  match tag with
  | 3 => bf16
  | 5 => e4m3
  | 6 => e5m2
  | _ => fp32

/-- The sticky flags in the order of sys.fpctl[13:8] (07 R133). -/
def flNX : BitVec 6 := 1
def flUF : BitVec 6 := 2
def flOF : BitVec 6 := 4
def flDZ : BitVec 6 := 8
def flNV : BitVec 6 := 16
def flIS : BitVec 6 := 32

/-- An exact value: a NaN (signalling or not), an infinity, or (-1)^neg m 2^e, and with `sticky` a little more in
magnitude than that. -/
inductive Ex where
  | nan (signal : Bool)
  | inf (neg : Bool)
  | num (neg : Bool) (m : Nat) (e : Int) (sticky : Bool)
deriving DecidableEq, Repr

def Ex.isNan (x : Ex) : Bool :=
  match x with
  | .nan _ => true
  | _ => false

def Ex.signals (x : Ex) : Bool :=
  match x with
  | .nan b => b
  | _ => false

/-- The number of bits of `m`. -/
def bitLen (m : Nat) : Nat := if m = 0 then 0 else Nat.log2 m + 1

/-- 2 to a non-negative exponent, as a number. -/
def pow2 (e : Int) : Nat := 2 ^ e.toNat

/-- The value of a code (07 R127); `fin`: a subnormal operand reads as zero of the same sign (07 R133). -/
def decodeF (f : FFmt) (fin : Bool) (code : Nat) : Ex :=
  let neg := (code / 2 ^ (f.width - 1)) % 2 = 1
  let mag := code % 2 ^ (f.width - 1)
  let man := mag % 2 ^ f.mbits
  let ex := mag / 2 ^ f.mbits
  if mag > f.maxCode then
    if mag = f.infCode && f.infCode != 0 then .inf neg
    else .nan (f.flush && (man / 2 ^ (f.mbits - 1)) % 2 = 0)
  else if ex = 0 then
    if fin && f.flush then .num neg 0 0 false else .num neg man (1 - (f.bias : Int) - f.mbits) false
  else .num neg (man + 2 ^ f.mbits) ((ex : Int) - f.bias - f.mbits) false

/-- The magnitude rounds up: the mode, the sign, the kept part, the rest against a half (07 R133); modes 5 to 7 round as RNA (DESIGN
CHOICE, log entry 73). -/
def roundsUp (rm : Nat) (neg : Bool) (kept rest half : Nat) (sticky : Bool) : Bool :=
  let inexact := rest != 0 || sticky
  match rm with
  | 0 => decide (half < rest) || (rest = half && half != 0 && (sticky || kept % 2 = 1))
  | 1 => false
  | 2 => neg && inexact
  | 3 => !neg && inexact
  | _ => half != 0 && decide (half ≤ rest)

/-- A rounded integer multiple of 2^q of m 2^e, and whether it is inexact. -/
def roundAt (rm : Nat) (neg : Bool) (m : Nat) (e q : Int) (sticky : Bool) : Nat × Bool :=
  if q ≤ e then (m * pow2 (e - q), sticky)
  else
    let sh := (q - e).toNat
    let kept := m / 2 ^ sh
    let rest := m % 2 ^ sh
    (if roundsUp rm neg kept rest (2 ^ (sh - 1)) sticky then kept + 1 else kept, rest != 0 || sticky)

/-- The magnitude code a nonzero exact value rounds to, before any overflow; inexact; tiny (07 R134). -/
def roundMag (f : FFmt) (rm : Nat) (neg : Bool) (m : Nat) (e : Int) (sticky : Bool) : Nat × Bool × Bool :=
  let top := e + bitLen m - 1
  let emin : Int := 1 - f.bias
  let q := (if emin ≤ top then top else emin) - f.mbits
  let r := roundAt rm neg m e q sticky
  (r.1 + (q - (emin - f.mbits)).toNat * 2 ^ f.mbits, r.2, decide (top < emin))

def signed (f : FFmt) (neg : Bool) (mag : Nat) : Nat := if neg then mag + 2 ^ (f.width - 1) else mag

/-- The result of an arithmetic operation that does not narrow (07 R138), or, with `narrow`, of a conversion that does
(07 R137). -/
def encodeF (f : FFmt) (rm : Nat) (fout narrow : Bool) (x : Ex) : Nat × BitVec 6 :=
  match x with
  | .nan s => (f.nanCode, if s then flNV else 0)
  | .inf neg => if narrow then (signed f neg f.maxCode, flOF) else (signed f neg f.infCode, 0)
  | .num neg m e sticky =>
    if m = 0 && !sticky then (signed f neg 0, 0)
    else
      let r := roundMag f rm neg m e sticky
      if f.maxCode < r.1 then
        let toInf := !narrow && (rm = 0 || decide (4 ≤ rm) || (rm = 2 && neg) || (rm = 3 && !neg))
        (signed f neg (if toInf then f.infCode else f.maxCode), flOF ||| flNX)
      else if fout && f.flush && r.1 != 0 && decide (r.1 < 2 ^ f.mbits) then (signed f neg 0, flUF ||| flNX)
      else
        (signed f neg r.1, (if r.2.1 then flNX else 0) ||| (if r.2.1 && r.2.2 then flUF else 0))

/-! ### Exact operations -/

/-- The exact sum of finite terms; the sign of an exact zero follows 07 R138. -/
def sumTerms (ts : List (Bool × Nat × Int)) (rdn : Bool) : Ex :=
  match ts with
  | [] => .num false 0 0 false
  | t :: r =>
    let e0 := r.foldl (fun e u => if u.2.2 < e then u.2.2 else e) t.2.2
    let v : Int := ts.foldl (fun a u => a + (if u.1 then -1 else 1) * ((u.2.1 * pow2 (u.2.2 - e0) : Nat) : Int)) 0
    if v = 0 then
      .num (if ts.all (fun u => u.2.1 = 0 && u.1 = t.1) then t.1 else rdn) 0 0 false
    else .num (decide (v < 0)) v.natAbs e0 false

/-- Invalid or NaN sums, or the exact sum of several values (07 R138, R139). -/
def exSum (xs : List Ex) (rdn : Bool) : Ex :=
  if xs.any Ex.isNan then .nan (xs.any Ex.signals)
  else
    let pos := xs.any (fun x => x = .inf false)
    let neg := xs.any (fun x => x = .inf true)
    if pos && neg then .nan true
    else if pos then .inf false
    else if neg then .inf true
    else
      sumTerms (xs.filterMap (fun x =>
        match x with
        | .num n m e _ => some (n, m, e)
        | _ => none)) rdn

def exNeg (x : Ex) : Ex :=
  match x with
  | .nan s => .nan s
  | .inf n => .inf (!n)
  | .num n m e s => .num (!n) m e s

def exIsZero (x : Ex) : Bool :=
  match x with
  | .num _ m _ s => m = 0 && !s
  | _ => false

def exSign (x : Ex) : Bool :=
  match x with
  | .nan _ => false
  | .inf n => n
  | .num n _ _ _ => n

/-- The exact product; an infinity times a zero is invalid. -/
def exMul (x y : Ex) : Ex :=
  if x.isNan || y.isNan then .nan (x.signals || y.signals)
  else
    match x, y with
    | .num a m e _, .num b n d _ => .num (a != b) (m * n) (e + d) false
    | _, _ => if exIsZero x || exIsZero y then .nan true else .inf (exSign x != exSign y)

/-- The quotient, with 80 or more bits; division of a finite nonzero value by zero is `.inf` with DZ (07 R133). -/
def exDiv (x y : Ex) : Ex × BitVec 6 :=
  if x.isNan || y.isNan then (.nan (x.signals || y.signals), 0)
  else
    match x, y with
    | .num a m e _, .num b n d _ =>
      if n = 0 then if m = 0 then (.nan true, 0) else (.inf (a != b), flDZ)
      else
        let k := 80 + bitLen n
        (.num (a != b) (m * 2 ^ k / n) (e - d - k) (m * 2 ^ k % n != 0), 0)
    | .inf a, .num b _ _ _ => (.inf (a != b), 0)
    | .num a _ _ _, .inf b => (.num (a != b) 0 0 false, 0)
    | _, _ => (.nan true, 0)

/-- The integer square root of `n`, found bit by bit from bit `k - 1` down. -/
def isqrtFrom (n k r : Nat) : Nat :=
  match k with
  | 0 => r
  | j + 1 => isqrtFrom n j (if (r + 2 ^ j) * (r + 2 ^ j) ≤ n then r + 2 ^ j else r)

def isqrt (n : Nat) : Nat := isqrtFrom n (bitLen n / 2 + 1) 0

/-- The square root, with 80 or more bits; a negative operand is invalid, −0 gives −0. -/
def exSqrt (x : Ex) : Ex :=
  match x with
  | .nan s => .nan s
  | .inf n => if n then .nan true else .inf false
  | .num n m e _ =>
    if m = 0 then .num n 0 0 false
    else if n then .nan true
    else
      let odd := e % 2 != 0
      let m1 := if odd then 2 * m else m
      let e1 := if odd then e - 1 else e
      let big := m1 * 2 ^ 200
      let r := isqrt big
      .num false r (e1 / 2 - 100) (r * r != big)

/-- x < y, x = y for values that are no NaN; zeros are equal. -/
def exCmp (x y : Ex) : Ordering :=
  match x, y with
  | .inf a, .inf b => if a = b then .eq else if a then .lt else .gt
  | .inf a, _ => if a then .lt else .gt
  | _, .inf b => if b then .gt else .lt
  | .num a m e _, .num b n d _ =>
    let e0 := if e ≤ d then e else d
    let v : Int := (if a then -1 else 1) * ((m * pow2 (e - e0) : Nat) : Int)
    let w : Int := (if b then -1 else 1) * ((n * pow2 (d - e0) : Nat) : Int)
    compare v w
  | _, _ => .eq

/-- Round to an integer by the mode; `none` for NaN; infinities saturate later. -/
def exToInt (rm : Nat) (x : Ex) : Option (Int × Bool) :=
  match x with
  | .num n m e s =>
    let r := roundAt rm n m e 0 s
    some ((if n then -1 else 1) * (r.1 : Int), r.2)
  | _ => none

/-- FP32Add of 15 R314: RNE, no flushing. -/
def fp32Add (x y : Nat) : Nat :=
  (encodeF fp32 0 false false (exSum [decodeF fp32 false x, decodeF fp32 false y] false)).1

end Sys2Proof.Machine
end

