-- ==== Sys2Proof/Machine/RawMem.lean ====
section
/-! DEFINITION. The stores as arrays: scratchpad remapping (02 R41, R42), ECC (20 R427), error injection (20 R428), line
metadata (14 R293, R295), the undo log (20 R432); without the wakes that a write causes. -/

namespace Sys2Proof.Machine

/-! ### The scratchpad array -/

/-- The row of a bank that a port access to `row` reaches: a spare row when a valid repair entry names it, the lowest
entry first (02 R42). -/
def repairRow (c : Core) (bank row : Nat) : Nat :=
  let w := c.repair.get bank 0
  let hit := (List.range 4).find? (fun k => w.getLsbD (16 * k + 15) && bitsOf w (16 * k) 11 = row)
  match hit with
  | some k => 2048 + k
  | none => row

/-- The byte index in the raw array of a bank's raw row. -/
def rawIndex (bank row byte : Nat) : Nat := (bank * 2052 + row) * 64 + byte

/-- Where offset `o` stands in the raw array, repair entries applied (02 R41, R42). -/
def spadIndex (c : Core) (o : Nat) : Nat :=
  let bank := o / 64 % 32
  rawIndex bank (repairRow c bank (o / 2048 % 2048)) (o % 64)

/-! ### Reading and writing without checks -/

/-- The `n` bytes at a place, as stored. A line never straddles rows, so an aligned unit stands together. -/
def rawRead (s : State) (p : Place) (n : Nat) : Nat :=
  match p with
  | .spad c o => Mem.readNat (s.core c).spad (spadIndex (s.core c) o) n
  | .deep a => Mem.readNat s.deep a n
  | .remote k a => Mem.readNat (s.remote.get k []) a n
  | .host a => Mem.readNat s.host a n
  | .window o => (s.windowRead o).toNat % 2 ^ (8 * n)

/-- Store the low `n` bytes of `v` at a place; a window is no storage. -/
def rawWrite (s : State) (p : Place) (n v : Nat) : State :=
  match p with
  | .spad c o => s.modCore c (fun x => { x with spad := Mem.writeNat x.spad (spadIndex x o) n v })
  | .deep a => { s with deep := Mem.writeNat s.deep a n v }
  | .remote k a => { s with remote := s.remote.set k (Mem.writeNat (s.remote.get k []) a n v) }
  | .host a => { s with host := Mem.writeNat s.host a n v }
  | .window _ => s

/-- The place `d` bytes further on. -/
def Place.plus (p : Place) (d : Nat) : Place :=
  match p with
  | .spad c o => .spad c (o + d)
  | .deep a => .deep (a + d)
  | .remote k a => .remote k (a + d)
  | .host a => .host (a + d)
  | .window o => .window (o + d)

/-- The first byte of the 64-byte line a place lies in. -/
def Place.line (p : Place) : Place :=
  match p with
  | .spad c o => .spad c (o / 64 * 64)
  | .deep a => .deep (a / 64 * 64)
  | .remote k a => .remote k (a / 64 * 64)
  | .host a => .host (a / 64 * 64)
  | .window o => .window (o / 64 * 64)

/-- The first byte of the 8-byte unit a place lies in. -/
def Place.unit (p : Place) : Place :=
  match p with
  | .spad c o => .spad c (o / 8 * 8)
  | .deep a => .deep (a / 8 * 8)
  | .remote k a => .remote k (a / 8 * 8)
  | .host a => .host (a / 8 * 8)
  | .window o => .window (o / 8 * 8)

/-! ### Line metadata (14 R293) -/

/-- The metadata of a line nothing has written: PEND 0, KIND ordered (DESIGN CHOICE, log entry 3). -/
def freshMeta : BitVec 36 := 0x200000000#36

/-- The metadata of the line of a place; the remote tiers carry none (14 R302). -/
def metaAt (s : State) (p : Place) : BitVec 36 :=
  match p with
  | .spad c o => (s.core c).spadMeta.get (o / 64) freshMeta
  | .deep a => s.deepMeta.get (a / 64) freshMeta
  | _ => freshMeta

def setMeta (s : State) (p : Place) (m : BitVec 36) : State :=
  match p with
  | .spad c o => s.modCore c (fun x => { x with spadMeta := x.spadMeta.put (o / 64) m freshMeta })
  | .deep a => { s with deepMeta := s.deepMeta.put (a / 64) m freshMeta }
  | _ => s

/-- PEND of a line. -/
def pendAt (s : State) (p : Place) : Bool := (metaAt s p).getLsbD 35

def setPend (s : State) (p : Place) (b : Bool) : State :=
  let m := metaAt s p
  setMeta s p (if b then m ||| 0x800000000#36 else m &&& 0x7FFFFFFFF#36)

/-- The stamp of an ordered write by a slot, or by hardware as slot 0 (14 R295). -/
def stampOrdered (slot : Nat) : BitVec 36 := (2#4) ++ BitVec.ofNat 8 slot ++ (0#24)

/-- The stamp of a plain write by a slot with the data-phaser register given (14 R295). -/
def stampPlain (slot : Nat) (dph : Word) : BitVec 36 :=
  if dph.getLsbD 24 then (0#4) ++ BitVec.ofNat 8 slot ++ dph.extractLsb' 0 24
  else (1#4) ++ BitVec.ofNat 8 slot ++ (0#24)

/-- KIND 3 is no stamp but an uncorrectable error of the line (14 R293). -/
def metaBad (m : BitVec 36) : Bool := m.extractLsb' 32 2 == 3

/-- The stamp check of a plain access (14 R296); `own`: the copy that marked the line reads it, PEND taken as 0
(14 R301). A line of KIND 3 passes: its error is found instead. -/
def stampAllows (m : BitVec 36) (slot : Nat) (dph : Word) (own : Bool := false) : Bool :=
  let pend := m.getLsbD 35 && !own
  let kind := (m.extractLsb' 32 2).toNat
  metaBad m || !pend &&
    (kind = 2 || (m.extractLsb' 24 8).toNat = slot ||
      (kind = 0 && dph.getLsbD 24 && dph.extractLsb' 16 8 == m.extractLsb' 16 8 &&
        decide (signedDiff16 (dph.extractLsb' 0 16) (m.extractLsb' 0 16) > 0)))

/-! ### ECC (20 R427) -/

/-- The number of bits in error. -/
def popcount (x : Flips) : Nat := if x = 0 then 0 else (List.range 72).foldl (fun n i => if x.getLsbD i then n + 1 else n) 0

/-- The bits of an error that lie in the word itself. -/
def Flips.data (e : Flips) : Word := BitVec.setWidth 64 e

/-- The bits of the 8-byte unit in error; the check bits of what nothing has written, which
02 R40 leaves undefined, are taken as right (DESIGN CHOICE, log entry 3). -/
def errAt (s : State) (p : Place) : Flips :=
  match p with
  | .spad c o => (s.core c).spadErr.get (spadIndex (s.core c) o / 8) 0
  | .deep a => s.deepErr.get (a / 8) 0
  | _ => 0

def setErr (s : State) (p : Place) (e : Flips) : State :=
  match p with
  | .spad c o => s.modCore c (fun x => { x with spadErr := x.spadErr.put (spadIndex x o / 8) e 0 })
  | .deep a => { s with deepErr := s.deepErr.put (a / 8) e 0 }
  | _ => s

/-- The array number of a place in the log. -/
def Place.array (p : Place) : Nat :=
  match p with
  | .spad _ _ => arraySpad
  | _ => arrayDeep

/-- The address a log record gives for a place. -/
def Place.addr (p : Place) : Word :=
  match p with
  | .spad _ o => BitVec.ofNat 64 o
  | .deep a => BitVec.ofNat 64 a
  | .remote _ a => BitVec.ofNat 64 a
  | .host a => BitVec.ofNat 64 a
  | .window o => BitVec.ofNat 64 o

/-- The position of the one bit in error. -/
def bitPos (x : Flips) : Nat :=
  match (List.range 72).find? (fun i => x.getLsbD i) with
  | some i => i
  | none => 0

/-- The bits of a line's metadata in error. -/
def metaErrAt (s : State) (p : Place) : Flips :=
  match p with
  | .spad c o => (s.core c).metaErr.get (o / 64) 0
  | .deep a => s.deepMetaErr.get (a / 64) 0
  | _ => 0

def setMetaErr (s : State) (p : Place) (e : Flips) : State :=
  match p with
  | .spad c o => s.modCore c (fun x => { x with metaErr := x.metaErr.put (o / 64) e 0 })
  | .deep a => { s with deepMetaErr := s.deepMetaErr.put (a / 64) e 0 }
  | _ => s

/-- The line's metadata cannot be relied on: KIND 3, or more than one bit in error (14 R293, 20 R427). -/
def lineBad (s : State) (p : Place) : Bool :=
  metaBad (metaAt s p ^^^ BitVec.setWidth 36 (metaErrAt s p)) || decide (2 ≤ popcount (metaErrAt s p))

/-- A record of KIND 2, for an uncorrectable error found at a place. -/
def logBad (s : State) (p : Place) (slot dom : Nat) : State :=
  logError s (logCluster slot) 2 slot dom p.array 0 0xFF 0 p.addr 0

/-- A single-bit error in a line's metadata is corrected, with its KIND 1 record. -/
def eccMeta (s : State) (p : Place) (slot dom : Nat) : State :=
  let e := metaErrAt s p
  if e = 0 then s
  else
    let s1 := setMetaErr (setMeta s p (metaAt s p ^^^ BitVec.setWidth 36 e)) p 0
    logError s1 (logCluster slot) 1 slot dom p.array 0 (bitPos e) 0 p.addr 0

/-- Correct a single-bit error of the unit, in the array too, with its KIND 1 record; a double-bit error stays, with
its KIND 2 record, and the answer is `false` (20 R427); so it is for an error of the line's metadata. -/
def eccUnit (s : State) (p : Place) (slot dom : Nat) : State × Bool :=
  if lineBad s p then (logBad s p slot dom, false)
  else
    let s0 := eccMeta s p slot dom
    let e := errAt s0 p
    if e = 0 then (s0, true)
    else if popcount e = 1 then
      let u := p.unit
      let v := rawRead s0 u 8
      let s1 := rawWrite s0 u 8 (v ^^^ e.data.toNat)
      let s2 := setErr s1 p 0
      (logError s2 (logCluster slot) 1 slot dom p.array 0 (bitPos e) 0 p.addr 0, true)
    else (logBad s0 p slot dom, false)

/-- Read a naturally aligned unit of `n` bytes: its value, or `none` on an uncorrectable error. -/
def readUnit (s : State) (p : Place) (n slot dom : Nat) : State × Option Nat :=
  let r := eccUnit s p slot dom
  if r.2 then (r.1, some (rawRead r.1 p n)) else (r.1, none)

/-- Read `n` bytes unit by unit (`n` a multiple of 8), as a little-endian number. -/
def readUnits (s : State) (p : Place) (n slot dom : Nat) : State × Option Nat :=
  (List.range (n / 8)).foldl
    (fun acc i =>
      match acc.2 with
      | none => acc
      | some v =>
        match readUnit acc.1 (p.plus (8 * i)) 8 slot dom with
        | (s', some w) => (s', some (v + w * 2 ^ (64 * i)))
        | (s', none) => (s', none))
    (s, some 0)

/-! ### Events of a cluster (11 R224) -/

/-- A change of event bits that takes effect in cycle `at'`. -/
def changeEvents (s : State) (cluster at' : Nat) (set : Bool) (group : Nat) (mask : BitVec 16) : State :=
  s.modCluster cluster (fun c => { c with changes := c.changes ++ [(at', set, group, mask)] })

/-! ### The undo log (20 R432) -/

/-- The records a die's log holds. -/
def undoCapacity : Nat := 2097152

/-- The first address of a die's undo region (13 R272). -/
def undoBase (s : State) (d : Nat) : Nat := d * 2 ^ 32 + (4096 - s.ringStoreMiB d - 256) * 2 ^ 20

/-- A write to this line of the general region would be the first of the interval. -/
def undoFirst (s : State) (pa : Nat) : Bool :=
  s.regionOf pa == .general && !((s.undo.get (pa / 2 ^ 32) {}).lines.contains (pa / 64))

/-- The write stalls: its line is not yet logged and the die's log is full. -/
def undoStalls (s : State) (p : Place) : Bool :=
  match p with
  | .deep a => undoFirst s a && decide (undoCapacity ≤ (s.undo.get (a / 2 ^ 32) {}).lines.length)
  | _ => false

/-- A die's log has room for another record. -/
def undoRoom (s : State) (d : Nat) : Bool := decide ((s.undo.get d {}).lines.length < undoCapacity)

/-- A write that the full undo log stalls: KIND 9 at the first of them, in the log of the cluster it comes from (20 R432). -/
def noteStall (s : State) (slot : Nat) (p : Place) : State :=
  match p with
  | .deep a =>
    let d := a / 2 ^ 32
    let u := s.undo.get d {}
    if u.fullLogged then s
    else
      logError { s with undo := s.undo.set d { u with fullLogged := true } } (logCluster slot) 9 slot (s.slot slot).domain arrayDeep
        0 0 0 p.addr 0
  | _ => s

/-- A line of the deep store as hardware reads it whole: single-bit errors corrected, the others recorded (20 R427). -/
def checkedLine (s : State) (l : Nat) : State :=
  if lineBad s (.deep l) then logBad s (.deep l) noSlot 0
  else (List.range 8).foldl (fun acc i => (eccUnit acc (.deep (l + 8 * i)) noSlot 0).1) s

/-- The check bits of an undo record are fresh, but what could not be corrected in the line stays so in its record. -/
def undoErrs (s : State) (l at' : Nat) : State :=
  (List.range 16).foldl
    (fun acc i =>
      let e : Flips := if i < 8 then errAt s (.deep (l + 8 * i)) else if i = 9 then metaErrAt s (.deep l) else 0
      setErr acc (.deep (at' + 8 * i)) e)
    s

/-- A monitor names the line (15 R321). -/
def monitored (s : State) (p : Place) : Bool := s.clusters.any (fun e => e.2.monitors.any (fun m => m.2 = p))

/-- Log the line's content before its first write in the interval; a full log takes no record. The record is a hardware write, whose
monitors wake (15 R321). -/
def undoLog (s0 : State) (pa : Nat) : State :=
  if undoFirst s0 pa && undoRoom s0 (pa / 2 ^ 32) then
    let d := pa / 2 ^ 32
    let l := pa / 64 * 64
    let s := checkedLine s0 l
    let u := s.undo.get d {}
    let at' := undoBase s d + 128 * u.lines.length
    let data := Mem.readNat s.deep l 64
    let deep1 := Mem.writeNat s.deep at' 64 data
    let deep2 := Mem.writeNat deep1 (at' + 64) 8 l
    let deep3 := Mem.writeNat deep2 (at' + 72) 8 (s.deepMeta.get (pa / 64) freshMeta).toNat
    let deep4 := Mem.writeNat deep3 (at' + 80) 48 0
    let woken := [at', at' + 64].filter (fun l => monitored s (.deep l))
    let warn := !u.warned && decide (1835008 ≤ u.lines.length + 1)
    let s1 := undoErrs { s with deep := deep4, undo := s.undo.set d { u with lines := pa / 64 :: u.lines, warned := u.warned || warn, wakes := u.wakes ++ woken } } l at'
    let ev := s.mreg 0x258
    if warn && ev.getLsbD 12 then
      let b := bitsOf ev 4 8
      changeEvents s1 (bitsOf ev 0 4) s.cycle true (b / 16) (1#16 <<< (b % 16))
    else s1
  else s0

/-! ### A write with its stamp -/

/-- The write matches an armed injection of core `c` (20 R428). -/
def einjMatches (s : State) (c : Nat) (p : Place) : Bool :=
  let e := (s.core c).einj
  e.getLsbD 0 &&
    (match p with
     | .spad k o => k = c && bitsOf e 4 4 = 0 && bitsOf e 32 32 = o / 64
     | .deep a => bitsOf e 4 4 = 4 && bitsOf e 32 32 = a / 64
     | _ => false)

/-- Flip the stored bits the injection names, after the check bits are computed; ARM clears, and a KIND 10 record is
appended (20 R428). -/
def inject (s : State) (c : Nat) (p : Place) (slot dom : Nat) : State :=
  if einjMatches s c p then
    let e := (s.core c).einj
    let pos := bitsOf e 10 6
    let flips : Word :=
      match bitsOf e 8 2 with
      | 1 => 1#64 <<< pos
      | 2 => (1#64 <<< pos) ||| (1#64 <<< ((pos + 1) % 64))
      | _ => 0
    let l := p.line
    let s1 := rawWrite s l 8 (rawRead s l 8 ^^^ flips.toNat)
    let s2 := setErr s1 l (errAt s1 l ^^^ BitVec.setWidth 72 flips)
    let s3 := s2.modCore c (fun x => { x with einj := x.einj &&& ~~~1#64 })
    logError s3 (logCluster slot) 10 slot dom p.array 0 0 0 l.addr e
  else s

/-- Write `n` ≤ 8 bytes inside one aligned unit: the undo log first, then the data and the stamp in one step; PEND
stays as it is (14 R295, R301). A write of the whole unit computes fresh check bits; a part of a unit with an
uncorrectable error leaves it uncorrectable (DEDUCED, log entry 9). -/
def writeNow (s : State) (p : Place) (n v : Nat) (stamp : BitVec 36) (slot dom : Nat) : State :=
  let s0 :=
    match p with
    | .deep a => undoLog s a
    | _ => s
  let s1 := if n = 8 then s0 else (eccUnit s0 p slot dom).1
  let s2 := rawWrite s1 p n v
  let s3 := if n = 8 then setErr s2 p 0 else s2
  let pend := pendAt s3 p
  let s4 := setPend (setMetaErr (setMeta s3 p stamp) p 0) p pend
  inject s4 (coreOf slot) p slot dom

/-- The write is performed, or, where the die's undo log is full and its line is not in it, stalls until CKPT closes or rolls back
the interval (20 R432). -/
def writeRaw (s : State) (p : Place) (n v : Nat) (stamp : BitVec 36) (slot dom : Nat) : State :=
  if undoStalls s p then
    let s1 := noteStall s slot p
    { s1 with stalled := s1.stalled ++ [⟨p, n, v, stamp, slot, dom⟩] }
  else writeNow s p n v stamp slot dom

/-- Write `n` bytes (a multiple of 8) unit by unit, in ascending order. -/
def writeRawUnits (s : State) (p : Place) (n v : Nat) (stamp : BitVec 36) (slot dom : Nat) : State :=
  (List.range (n / 8)).foldl
    (fun acc i => writeRaw acc (p.plus (8 * i)) 8 (v / 2 ^ (64 * i) % 2 ^ 64) stamp slot dom) s

/-- A hardware write (14 R284, R295), by the agent of slot `slot`: ordered, SLOT 0. -/
def hwWrite (s : State) (p : Place) (n v : Nat) (slot : Nat) : State :=
  writeRaw s p n v (stampOrdered 0) slot (s.slot slot).domain

end Sys2Proof.Machine
end

