-- ==== Sys2Proof/Machine/Sched.lean ====
section
/-! DEFINITION. Continuation records, and the cluster scheduler's places for them: ready queues, spill queue, resume
list, wait table, overflow list, monitors (11 R212 to R226, 15 R321). -/

namespace Sys2Proof.Machine

/-! ### Records (02 R34, R35) -/

/-- The bytes of a unit with those that a stalled hardware write is to put there: hardware reads back what it has written
(20 R432). -/
def overStalled (l : List HwStore) (a v : Nat) : Nat :=
  l.foldl
    (fun u w =>
      match w.place with
      | .deep b =>
        if b / 8 = a / 8 then
          let k := 8 * (b % 8)
          u % 2 ^ k + w.val % 2 ^ (8 * w.n) * 2 ^ k + u / 2 ^ (k + 8 * w.n) * 2 ^ (k + 8 * w.n)
        else u
      | _ => u)
    v

/-- Bytes of a record, single-bit errors corrected. -/
def recGet (s : State) (pa off n : Nat) : Nat :=
  let p := Place.deep (pa + off)
  let e := errAt s p
  let u := rawRead s p.unit 8
  let v := overStalled s.stalled (pa + off) (if popcount e = 1 then u ^^^ e.data.toNat else u)
  v / 2 ^ (8 * ((pa + off) % 8)) % 2 ^ (8 * n)

/-- Hardware takes up a record: its 64 bytes are read, single-bit errors corrected in the array (20 R427); the answer tells whether
they cannot be read, for an uncorrectable error. -/
def recCheck (s : State) (pa slot dom : Nat) : State × Bool :=
  match readUnits s (.deep pa) 64 slot dom with
  | (s1, some _) => (s1, false)
  | (s1, none) => (s1, true)

/-- A hardware write into a record, ordered at package scope (11 R213), that wakes no monitor yet; `slot`: the agent. -/
def recPutRaw (s : State) (slot pa off n v : Nat) : State := hwWrite s (.deep (pa + off)) n v slot

def recState (s : State) (pa : Nat) : Nat := recGet s pa 15 1 % 16
def recFlags (s : State) (pa : Nat) : Nat := recGet s pa 15 1 / 16
def recPrio (s : State) (pa : Nat) : Nat := recGet s pa 14 1 % 64
def recScope (s : State) (pa : Nat) : Nat := recGet s pa 12 2 % 16384
def recJoinc (s : State) (pa : Nat) : Nat := recGet s pa 16 2
def recWmask (s : State) (pa : Nat) : Nat := recGet s pa 18 2
def recGroups (s : State) (pa : Nat) : Nat := recGet s pa 20 1
def recSmask (s : State) (pa : Nat) : Nat := recGet s pa 22 2
def recReg (s : State) (pa k : Nat) : Word := BitVec.ofNat 64 (recGet s pa (16 + 8 * k) 8)

/-- STATE codes (02 R35). -/
def stFree : Nat := 0
def stReady : Nat := 1
def stRunning : Nat := 2
def stWaitEv : Nat := 3
def stWaitJoin : Nat := 4
def stWaitMon : Nat := 5
def stWaitPh : Nat := 6
def stDormant : Nat := 7

/-- FLAGS bits, as numbers in the flags' own four bits. -/
def flagStarted : Nat := 1
def flagTimed : Nat := 2
def flagPreempted : Nat := 4

/-- FLAGS with the reserved bit written as zero (00 R6), as a number in the flags' own four bits. -/
def keptFlags (s : State) (pa : Nat) : Nat := recFlags s pa % 8

def recStateRaw (s : State) (slot pa st : Nat) : State := recPutRaw s slot pa 15 1 (keptFlags s pa * 16 + st)

/-! ### Lists in strand-pool memory (11 R218, 22 R441) -/

/-- Where the next record address of a list goes; `w` is the list's first word of CLUSTER. -/
def listTail (s : State) (cluster w : Nat) : Option Place :=
  let base := (s.clusterWord cluster w).toNat
  let len := (s.clusterWord cluster (w + 1)).toNat
  let t := (s.cluster cluster).tails.get w 0
  if len = 0 then none else some (.deep ((base + 8 * (t % len)) % 2 ^ 34))

/-- Write a record address at the tail of a list's ring in memory, waking no monitor yet. -/
def listAppendRaw (s : State) (cluster w : Nat) (va : Word) : State :=
  let t := (s.cluster cluster).tails.get w 0
  let s1 := s.modCluster cluster (fun c => { c with tails := c.tails.set w (t + 1) })
  match listTail s cluster w with
  | none => s1
  | some p => hwWrite s1 p 8 va.toNat noSlot

/-! ### Places (11 R217) -/

/-- The core that a PREEMPTED record goes back to (20 R411). -/
def preemptCore (s : State) (pa : Nat) : Option Nat :=
  if recFlags s pa / flagPreempted % 2 = 1 then (s.preemptedOn.find? (fun e => e.1 = pa)).map (·.2) else none

/-- A suspension has written the record's pointers: whether it has left a CPTR of 0, its computer having exited (11 R221; DEDUCED, log
entry 15). -/
def noteExited (s : State) (pa : Nat) (exited : Bool) : State :=
  let l := s.exitedOn.filter (· != pa)
  { s with exitedOn := if exited then pa :: l else l }

/-- The queue entry of a record, read from the record (11 R226). -/
def readyOf (s : State) (ref : RecRef) (fresh : Bool) : Ready :=
  { ref := ref, prio := recPrio s ref.pa, started := recFlags s ref.pa % 2 = 1, fresh := fresh, since := s.cycle,
    core := preemptCore s ref.pa, busy := false }

/-- A new entry would need the spill queue (11 R217). -/
def needsSpill (s : State) (cluster : Nat) : Bool := decide (960 ≤ (s.cluster cluster).ready.length)

/-- The spill queue is full (11 R218). -/
def spillFull (s : State) (cluster : Nat) : Bool :=
  decide ((s.clusterWord cluster 1).toNat ≤ (s.cluster cluster).spill.length)

/-- Place a resume on chip, or on the resume list (11 R217), waking no monitor yet. -/
def placeResumeRaw (s : State) (cluster : Nat) (e : Ready) : State :=
  if (s.cluster cluster).ready.length < 1024 then
    s.modCluster cluster (fun c => { c with ready := c.ready ++ [e] })
  else listAppendRaw (s.modCluster cluster (fun c => { c with resume := c.resume ++ [e] })) cluster 2 e.ref.va

/-- While the pool has room, the oldest resume-list record enters first (11 R217). -/
def refillResume (s : State) (cluster : Nat) : State :=
  s.modCluster cluster (fun c =>
    let n := 1024 - c.ready.length
    { c with ready := c.ready ++ (c.resume.take n).map (fun e => { e with since := s.cycle }), resume := c.resume.drop n })

/-- The order of a ready queue: priority, then STARTED set first, then first-in first-out (11 R226). -/
def before (a b : Ready) : Bool :=
  decide (a.prio < b.prio) || (a.prio = b.prio && a.started && !b.started)

/-- The first record by 11 R226 among those `ok` admits. -/
def firstReady (l : List Ready) (ok : Ready → Bool) : Option Ready :=
  l.foldl
    (fun best e =>
      if ok e then
        match best with
        | none => some e
        | some b => if before e b then some e else some b
      else best)
    none

/-! ### Waking (11 R216, R225) -/

/-- A waiting record's wait ends: it re-enters as a resume of the cluster. -/
def resumeRaw (s : State) (cluster : Nat) (ref : RecRef) : State :=
  let s1 := recStateRaw s noSlot ref.pa stRunning
  placeResumeRaw s1 cluster (readyOf s1 ref false)

/-- The slot whose strand, with a suspension still pending, is this record. -/
def suspendingSlot (s : State) (ref : RecRef) : Option Nat :=
  (s.slots.find? (fun e =>
    match e.2.strand, e.2.susp with
    | some t, some _ => t.ref.pa = ref.pa && !t.boot
    | _, _ => false)).map (·.1)

/-- Wake a record: at once where it waits in memory; where its suspension is still pending, the wake is kept for its
completion, so no wake is lost (11 R225, 15 R321). The monitors of the lines it writes come after. -/
def wakeRaw (s : State) (cluster : Nat) (ref : RecRef) : State :=
  match suspendingSlot s ref with
  | some k => s.modSlot k (fun x => { x with susp := x.susp.map (fun u => { u with woken := true }) })
  | none => resumeRaw s cluster ref

/-- Wake every record whose monitor names the line, freeing the entries, and so for the lines that a wake writes: the record's, and
the tail of the resume list; `fuel` bounds the wakes, one an entry (15 R321). -/
def wakeLine (s : State) (p : Place) (fuel : Nat) : State :=
  match fuel with
  | 0 => s
  | n + 1 =>
    let l := p.line
    match s.clusters.find? (fun e => e.2.monitors.any (fun m => m.2 = l)) with
    | none => s
    | some (k, c) =>
      match c.monitors.find? (fun m => m.2 = l) with
      | none => s
      | some m =>
        let s1 := s.modCluster k (fun x => { x with monitors := x.monitors.erase m })
        let tail := (listTail s1 k 2).getD p
        let s2 := wakeRaw s1 k m.1
        wakeLine (wakeLine (wakeLine s2 p n) (.deep m.1.pa) n) tail n

/-- The entries of every monitor table. -/
def monitorCount (s : State) : Nat := s.clusters.foldl (fun n e => n + e.2.monitors.length) 0

/-- The wakes of the undo records that have been written (20 R432); `fuel` bounds them, one a monitored line. -/
def wakeUndo (s : State) (fuel : Nat) : State :=
  match fuel with
  | 0 => s
  | n + 1 =>
    match s.undo.find? (fun e => !e.2.wakes.isEmpty) with
    | none => s
    | some (d, u) =>
      let s1 := { s with undo := s.undo.set d { u with wakes := u.wakes.drop 1 } }
      wakeUndo (wakeLine s1 (.deep (u.wakes.headD 0)) (monitorCount s)) n

/-- The wakes a performed write to a line causes. -/
def wakeWriters (s : State) (p : Place) : State :=
  let n := monitorCount s
  if n = 0 then s else wakeUndo (wakeLine s p n) n

/-- The wakes of a write to a list's tail, where there was one. -/
def wakeTail (s : State) (tail : Option Place) : State :=
  match tail with
  | none => s
  | some p => wakeWriters s p

/-- A hardware write with its wakes. -/
def hwWriteWake (s : State) (p : Place) (n v slot : Nat) : State := wakeWriters (hwWrite s p n v slot) p

/-- A hardware write into a record for the slot that issues (11 R213). -/
def recPut (s : State) (pa off n v : Nat) : State := hwWriteWake s (.deep (pa + off)) n v s.me

def recSetState (s : State) (pa st : Nat) : State := recPut s pa 15 1 (keptFlags s pa * 16 + st)

/-- The same by hardware that is no core's agent: the scheduler, the dispatcher, the receiver of a message. -/
def recPutHw (s : State) (pa off n v : Nat) : State := hwWriteWake s (.deep (pa + off)) n v noSlot

def recStateHw (s : State) (pa st : Nat) : State := recPutHw s pa 15 1 (keptFlags s pa * 16 + st)

/-- Write a record address at the tail of a list's ring in memory. -/
def listAppend (s : State) (cluster w : Nat) (va : Word) : State :=
  wakeTail (listAppendRaw s cluster w va) (listTail s cluster w)

/-- Place a new entry on chip, or at the tail of the spill queue; the answer tells whether it spilled. The caller has
found room (11 R217, R218). -/
def placeNew (s : State) (cluster : Nat) (e : Ready) : State × Bool :=
  if needsSpill s cluster then
    (listAppend (s.modCluster cluster (fun c => { c with spill := c.spill ++ [e] })) cluster 0 e.ref.va, true)
  else (s.modCluster cluster (fun c => { c with ready := c.ready ++ [e] }), false)

/-- Place a resume on chip, or on the resume list (11 R217). -/
def placeResume (s : State) (cluster : Nat) (e : Ready) : State :=
  if (s.cluster cluster).ready.length < 1024 then placeResumeRaw s cluster e
  else wakeTail (placeResumeRaw s cluster e) (listTail s cluster 2)

/-- A new entry from a message or a launch is never dropped: with the spill queue full, the cluster keeps it and
offers it again (11 R218); `msg` names the message that waits for it. The answer tells whether it was placed. -/
def offerNew (s : State) (cluster : Nat) (e : Ready) (msg : Option (Nat × Nat)) : State × Bool :=
  if needsSpill s cluster && spillFull s cluster then
    (s.modCluster cluster (fun c => { c with kept := c.kept ++ [⟨s.cycle + 256, e, msg⟩] }), false)
  else ((placeNew s cluster e).1, true)

/-- A waiting record's wait ends, with the wakes of the lines that its resume writes. -/
def resumeRec (s : State) (cluster : Nat) (ref : RecRef) : State :=
  let tail := if (s.cluster cluster).ready.length < 1024 then none else listTail s cluster 2
  wakeTail (wakeWriters (resumeRaw s cluster ref) (.deep ref.pa)) tail

/-- Wake a record, with the wakes of the lines that this writes. -/
def wakeRec (s : State) (cluster : Nat) (ref : RecRef) : State :=
  match suspendingSlot s ref with
  | some _ => wakeRaw s cluster ref
  | none => resumeRec s cluster ref

/-! ### Admission of an accepted record (11 R223) -/

/-- The bits of event group `g` of a cluster. -/
def eventGroup (s : State) (cluster g : Nat) : BitVec 16 := (s.cluster cluster).events.extractLsb' (16 * g) 16

/-- The event condition of a record in a cluster. -/
def eventHolds (bits mask : BitVec 16) : Bool := bits &&& mask == mask

/-- A record enters WAITEV: a free wait-table entry, or the tail of the overflow list (11 R225). -/
def enterWaitEv (s : State) (cluster : Nat) (ref : RecRef) (group : Nat) (mask : BitVec 16) : State :=
  let w : EvWaiter := ⟨ref, group, mask⟩
  if (s.cluster cluster).wait.length < 64 then
    s.modCluster cluster (fun c => { c with wait := c.wait ++ [w] })
  else listAppend (s.modCluster cluster (fun c => { c with overflow := c.overflow ++ [w] })) cluster 10 ref.va

/-- What placing a record with join count 0 needs: its event condition holds. -/
def recEventHolds (s : State) (cluster pa : Nat) : Bool :=
  eventHolds (eventGroup s cluster (recGroups s pa / 16)) (BitVec.ofNat 16 (recWmask s pa))

/-- Place a record whose join count is 0: WAITEV, or RUNNING in the pool. Status 0 READY, 1 SPILLED, 2 WAITING. -/
def admitRec (s : State) (cluster : Nat) (ref : RecRef) (fresh : Bool) : State × Nat :=
  if recEventHolds s cluster ref.pa then
    let s1 := recSetState s ref.pa stRunning
    let e := readyOf s1 ref fresh
    if fresh then (placeNew s1 cluster e).map id (fun spilled => if spilled then 1 else 0)
    else (placeResume s1 cluster e, 0)
  else
    let s1 := recSetState s ref.pa stWaitEv
    (enterWaitEv s1 cluster ref (recGroups s1 ref.pa / 16) (BitVec.ofNat 16 (recWmask s1 ref.pa)), 2)

/-- A record that a message or a launch hands to a cluster: WAITJOIN for a nonzero join count, else as its event condition says; for
want of a place the cluster keeps it (11 R218, R223). The answer tells whether it has found its place. -/
def admitKept (s : State) (cluster : Nat) (ref : RecRef) (msg : Option (Nat × Nat)) : State × Bool :=
  if recJoinc s ref.pa != 0 then (recStateHw s ref.pa stWaitJoin, true)
  else if recEventHolds s cluster ref.pa then
    let s1 := recStateHw s ref.pa stRunning
    offerNew s1 cluster (readyOf s1 ref true) msg
  else
    let s1 := recStateHw s ref.pa stWaitEv
    (enterWaitEv s1 cluster ref (recGroups s1 ref.pa / 16) (BitVec.ofNat 16 (recWmask s1 ref.pa)), true)

/-! ### Every cycle (11 R224, R225) -/

/-- The changes due in this cycle: every clear first, then every set (11 R224). -/
def applyEventChanges (s : State) (cluster : Nat) : State :=
  s.modCluster cluster (fun c =>
    let now := c.changes.filter (fun e => decide (e.1 ≤ s.cycle))
    let put (b : BitVec 256) (e : Nat × Bool × Nat × BitVec 16) : BitVec 256 :=
      let m := (BitVec.setWidth 256 e.2.2.2) <<< (16 * e.2.2.1)
      if e.2.1 then b ||| m else b &&& ~~~m
    let cleared := (now.filter (fun e => !e.2.1)).foldl put c.events
    let set := (now.filter (fun e => e.2.1)).foldl put cleared
    let sets := (now.filter (fun e => e.2.1)).foldl put 0
    { c with events := set, since := c.since ||| sets, changes := c.changes.filter (fun e => !decide (e.1 ≤ s.cycle)) })

/-- The wait table: every entry whose condition holds wakes its record and is freed (11 R225). -/
def evalWaitTable (s : State) (cluster : Nat) : State :=
  let hit := (s.cluster cluster).wait.filter (fun w => eventHolds (eventGroup s cluster w.group) w.mask)
  let s1 := s.modCluster cluster (fun c =>
    { c with wait := c.wait.filter (fun w => !eventHolds (eventGroup s cluster w.group) w.mask) })
  hit.foldl (fun acc w => wakeRec acc cluster w.ref) s1

/-- The overflow scan, every 256 cycles: on the OR of the current bits and every bit set since the last scan; then the
first remaining waiters fill free table entries (11 R225). -/
def scanOverflow (s : State) (cluster : Nat) : State :=
  let c := s.cluster cluster
  let bits (g : Nat) : BitVec 16 := (c.events ||| c.since).extractLsb' (16 * g) 16
  let hit := c.overflow.filter (fun w => eventHolds (bits w.group) w.mask)
  let rest := c.overflow.filter (fun w => !eventHolds (bits w.group) w.mask)
  let room := 64 - c.wait.length
  let s1 := s.modCluster cluster (fun x =>
    { x with overflow := rest.drop room, wait := x.wait ++ rest.take room, since := 0 })
  hit.foldl (fun acc w => wakeRec acc cluster w.ref) s1

end Sys2Proof.Machine
end

