-- ==== Sys2Proof/Machine/Memory.lean ====
section
/-! DEFINITION. Translation (13 R268, R274 to R278, R282) and the accesses of the roles and units to memory: checks in
their order (04 R89), stamps (14 R295, R296), performed writes and their wakes (15 R321). -/

namespace Sys2Proof.Machine

/-! ### Page tables -/

/-- What an access does with a page. -/
inductive AccKind where
  | read | write | exec | atomic
deriving DecidableEq, Repr

/-- A pointer entry's limits (13 R275); `align` is the next table's size in bits. -/
def pointerOk (e : Word) (align : Nat) : Bool :=
  bitsOf e 51 11 = 0 && bitsOf e 5 3 = 0 && bitsOf e 34 14 = 0 && (bitsOf e 12 36 * 4096) % 2 ^ align = 0

/-- Bits reserved in every entry (13 R275): [50:48], [11:8], [4:0]. -/
def reservedClear (e : Word) : Bool := bitsOf e 48 3 = 0 && bitsOf e 8 4 = 0 && bitsOf e 0 5 = 0

/-- A leaf's target. -/
def leafTarget (e : Word) : Nat := bitsOf e 59 3

/-- A leaf's limits (13 R275); `bits` is the page's size. -/
def leafOk (e : Word) (bits : Nat) : Bool :=
  bitsOf e 12 4 = 0 && leafTarget e ≤ 2 && (leafTarget e = 1 || bitsOf e 51 8 = 0) &&
    (leafTarget e = 2 || bitsOf e 34 14 = 0) && (bits = 16 || bitsOf e 16 9 = 0)

/-- The physical address a leaf gives a virtual address. -/
def leafAddr (t : TlbEntry) (va : Nat) : Nat := bitsOf t.leaf 16 32 * 65536 / 2 ^ t.bits * 2 ^ t.bits + va % 2 ^ t.bits

/-- A map of the ring store or the undo region is supervisor and not writable (13 R273). -/
def regionFault (s : State) (e : Word) : Bool :=
  leafTarget e = 0 && s.regionOf (bitsOf e 16 32 * 65536) != .general && (!e.getLsbD 7 || e.getLsbD 6)

/-- A leaf of the level reached, or the reason it fails (13 R282). -/
def leafEntry (s : State) (dom va bits : Nat) (e : Word) : Except Nat TlbEntry :=
  if !leafOk e bits then .error 3
  else if regionFault s e then .error 7
  else .ok { dom := dom, page := va / 2 ^ bits, bits := bits, leaf := e }

/-- Read one page-table entry; an uncorrectable error is reason 9 (13 R277). -/
def readEntry (s : State) (pa slot dom : Nat) : State × Except Nat Word :=
  match readUnit s (.deep (pa % 2 ^ 34)) 8 slot dom with
  | (s', some v) => (s', .ok (BitVec.ofNat 64 v))
  | (s', none) => (s', .error 9)

/-- The last level: the entry must be a leaf (13 R274). -/
def walk3 (s : State) (dom va slot table : Nat) : State × Except Nat TlbEntry :=
  match readEntry s (table + 8 * (va / 2 ^ 16 % 512)) slot dom with
  | (s', .error r) => (s', .error r)
  | (s', .ok e) =>
    if !e.getLsbD 63 then (s', .error 2)
    else if !reservedClear e || !e.getLsbD 62 then (s', .error 3)
    else (s', leafEntry s' dom va 16 e)

/-- The middle level: a pointer or a 32 MiB leaf. -/
def walk2 (s : State) (dom va slot table : Nat) : State × Except Nat TlbEntry :=
  match readEntry s (table + 8 * (va / 2 ^ 25 % 65536)) slot dom with
  | (s', .error r) => (s', .error r)
  | (s', .ok e) =>
    if !e.getLsbD 63 then (s', .error 2)
    else if !reservedClear e then (s', .error 3)
    else if e.getLsbD 62 then (s', leafEntry s' dom va 25 e)
    else if !pointerOk e 12 then (s', .error 8)
    else walk3 s' dom va slot (bitsOf e 12 36 * 4096)

/-- The walk of a virtual address of a domain (13 R274). -/
def walk (s : State) (dom va slot : Nat) : State × Except Nat TlbEntry :=
  let root := (s.domWord dom 0).toNat
  match readEntry s (root + 8 * (va / 2 ^ 41 % 32768)) slot dom with
  | (s', .error r) => (s', .error r)
  | (s', .ok e) =>
    if !e.getLsbD 63 then (s', .error 2)
    else if !reservedClear e || e.getLsbD 62 then (s', .error 3)
    else if !pointerOk e 19 then (s', .error 8)
    else walk2 s' dom va slot (bitsOf e 12 36 * 4096)

/-! ### Cached translations (13 R276, R277) -/

/-- The cached entry for an address of a domain. -/
def tlbFind (l : List TlbEntry) (dom va : Nat) : Option TlbEntry :=
  l.find? (fun t => t.dom = dom && t.page = va / 2 ^ t.bits)

/-- Insert, dropping the entry inserted longest ago beyond `cap` (DESIGN CHOICE, log entry 10). -/
def tlbInsert (l : List TlbEntry) (t : TlbEntry) (cap : Nat) : List TlbEntry :=
  let l' := l ++ [t]
  if l'.length ≤ cap then l' else l'.drop 1

/-- The set of the cluster's TLB that a page belongs to: it has 256 of 8 ways (DESIGN CHOICE, log entry 10). -/
def tlbSet (t : TlbEntry) : Nat := t.page % 256

/-- Insert into the cluster's TLB; a full set loses the entry inserted longest ago (DESIGN CHOICE, log entry 10). -/
def tlbInsertSet (l : List TlbEntry) (t : TlbEntry) : List TlbEntry :=
  let mine := l.filter (fun x => tlbSet x = tlbSet t)
  if mine.length < 8 then l ++ [t] else (mine.head?.elim l l.erase) ++ [t]

/-- A micro-TLB miss, of which a snapshot shows the last 16 (20 R430). -/
def noteMiss (s : State) (core slot dom va : Nat) : State :=
  s.modCore core (fun c => { c with misses := ((slot, dom, BitVec.ofNat 64 va) :: c.misses).take 16 })

/-- A single-bit error of an entry of a TLB, a queue or a journal is corrected as it is read, a double-bit error found: the record of each
(20 R427). -/
def logFlips (s : State) (slot dom array : Nat) (addr : Word) (e : Flips) : State :=
  if e = 0 then s
  else if popcount e = 1 then logError s (logCluster slot) 1 slot dom array 0 (bitPos e) 0 addr 0
  else logError s (logCluster slot) 2 slot dom array 0 0xFF 0 addr 0

/-- The entries of a TLB with the entry `t` read: a single-bit error corrected, an entry with a double-bit error dropped, so that its
page is walked again (DESIGN CHOICE, log entry 86). -/
def tlbMend (l : List TlbEntry) (t : TlbEntry) : List TlbEntry :=
  if t.flips = 0 then l
  else if popcount t.flips = 1 then l.map (fun e => if e = t then { e with flips := 0 } else e)
  else l.erase t

/-- A cached translation as it is read: the record of its error, and whether it serves. -/
def tlbRead (s : State) (slot : Nat) (t : TlbEntry) : State × Option TlbEntry :=
  (logFlips s slot t.dom 5 (BitVec.ofNat 64 (t.page * 2 ^ t.bits)) t.flips,
   if popcount t.flips < 2 then some { t with flips := 0 } else none)

/-- What a core's micro-TLB gives for an address. -/
def microFind (s : State) (core dom va slot : Nat) : State × Option TlbEntry :=
  match tlbFind (s.core core).utlb dom va with
  | none => (s, none)
  | some t => tlbRead (s.modCore core (fun c => { c with utlb := tlbMend c.utlb t })) slot t

/-- What the cluster's TLB gives. -/
def clusterFind (s : State) (core dom va slot : Nat) : State × Option TlbEntry :=
  match tlbFind (s.cluster (core / 4)).tlb dom va with
  | none => (s, none)
  | some t => tlbRead (s.modCluster (core / 4) (fun c => { c with tlb := tlbMend c.tlb t })) slot t

/-- The translation under way finds the page of an address of a domain. -/
def Walk.covers (w : Walk) (dom va : Nat) : Bool := w.dom = dom && w.entry.page = va / 2 ^ w.entry.bits

/-- A core waits for a translation under way. -/
def Walk.serves (w : Walk) (core dom va : Nat) : Bool := w.covers dom va && w.cores.contains core

/-- The cycle in which a new walk finds a free walker of 64 (13 R276). -/
def walkerFree (s : State) : Nat :=
  let l := (s.walks.filter (fun w => !w.near)).map (fun w => w.due)
  let free (t : Nat) : Bool := decide ((l.filter (fun u => decide (t < u))).length < 64)
  if l.length < 64 then s.cycle
  else (l.filter free).foldl Nat.min (l.foldl Nat.max s.cycle)

/-- A core joins the walk of a page by another. -/
def joinWalk (s : State) (core dom va : Nat) : State :=
  { s with walks := s.walks.map (fun w => if !w.near && w.covers dom va then { w with cores := w.cores ++ [core] } else w) }

/-- The translation an access uses (13 R276): the core's micro-TLB gives it at once, the cluster's TLB 4 cycles on; else a walk of the page
under way is joined, or a walk begins when a walker is free, and takes what the timing choice says (log entry 10). The TLBs are filled
as the translation arrives; what it costs, `transWait` says. -/
def lookup (s : State) (core dom va slot : Nat) : State × Except Nat TlbEntry :=
  match microFind s core dom va slot with
  | (s1, some t) => (s1, .ok t)
  | (s1, none) =>
    match s1.walks.find? (fun w => w.serves core dom va) with
    | some w => (s1, .ok w.entry)
    | none =>
      match clusterFind (noteMiss s1 core slot dom va) core dom va slot with
      | (s2, some t) => ({ s2 with walks := s2.walks ++ [⟨dom, BitVec.ofNat 64 va, [core], s2.cycle + 4, t, true, false⟩] }, .ok t)
      | (s2, none) =>
        match s2.walks.find? (fun w => !w.near && w.covers dom va) with
        | some w => (joinWalk s2 core dom va, .ok w.entry)
        | none =>
          match walk s2 dom va slot with
          | (s3, .error r) => (s3, .error r)
          | (s3, .ok t) =>
            let (d, s4) := takeDelay s3
            ({ s4 with walks := s4.walks ++ [⟨dom, BitVec.ofNat 64 va, [core], walkerFree s4 + 4 + d, t, false, false⟩] }, .ok t)

/-- The translation of a page that a core has looked up. -/
def pageEntry (s : State) (core dom va : Nat) : Option TlbEntry :=
  match tlbFind (s.core core).utlb dom va with
  | some t => some t
  | none => (s.walks.find? (fun w => w.serves core dom va)).map (·.entry)

/-- The cycles until a core has the translation of an address that it has looked up. -/
def transWait (s : State) (core dom va : Nat) : Nat :=
  match s.walks.find? (fun w => w.serves core dom va) with
  | some w => w.due - s.cycle
  | none => 0

/-- A translation that has arrived is in the micro-TLB of each core that waited for it, and one that was walked in their clusters' TLBs
too. -/
def fillTlbs (s : State) (w : Walk) : State :=
  w.cores.foldl
    (fun acc core =>
      let new (l : List TlbEntry) : Bool := (tlbFind l w.dom w.va.toNat).isNone
      let s1 := if new (acc.core core).utlb then acc.modCore core (fun c => { c with utlb := tlbInsert c.utlb w.entry 64 }) else acc
      if !w.near && new (s1.cluster (core / 4)).tlb then
        s1.modCluster (core / 4) (fun c => { c with tlb := tlbInsertSet c.tlb w.entry })
      else s1)
    s

/-- The translations that are over have filled the TLBs. -/
def finishWalks (s : State) : State :=
  let due (w : Walk) : Bool := decide (w.due ≤ s.cycle)
  (s.walks.filter due).foldl fillTlbs { s with walks := s.walks.filter (fun w => !due w) }

/-- Where a leaf leads for an access, or the reason it may not (13 R275, R278, R282, 22 R440). -/
def leafPlace (s : State) (t : TlbEntry) (va : Nat) (k : AccKind) (sup : Bool) : Except Nat Place :=
  let e := t.leaf
  if e.getLsbD 7 && !sup then .error 6
  else if (k == .write || k == .atomic) && !e.getLsbD 6 then .error 4
  else if k == .exec && (!e.getLsbD 5 || leafTarget e != 0) then .error 5
  else
    let a := leafAddr t va
    match leafTarget e with
    | 0 => .ok (.deep a)
    | 1 =>
      let pkg := bitsOf e 51 8
      if pkg = s.ringPos || s.ringLen ≤ pkg then .error 12 else .ok (.remote pkg a)
    | _ =>
      if k == .atomic then .error 11
      else if s.windowBase ≤ a && a < s.windowBase + 65536 then
        if e.getLsbD 7 then .ok (.window (a - s.windowBase)) else .error 6
      else .ok (.host a)

/-- The ownership check of one 64 KiB range of a core's scratchpad (13 R270). -/
def ownsRange (s : State) (core range dom : Nat) (sup : Bool) : Bool :=
  let e := ((s.core core).owner.get range 0).toNat
  sup || (e / 16 % 2 = 1 && e % 16 = dom)

/-- The ownership check of `n` bytes at an offset. -/
def ownsBytes (s : State) (core o n dom : Nat) (sup : Bool) : Bool :=
  sup || (List.range ((o + n - 1) / 65536 - o / 65536 + 1)).all (fun i => ownsRange s core (o / 65536 + i) dom sup)

/-- An address of the space 0xFF lies in a scratchpad window: the own core's or the cluster's (13 R268). -/
def inWindow (va : Nat) : Bool :=
  let low := va % 2 ^ 48
  decide (low < 4194304) || (decide (2 ^ 32 ≤ low) && decide (low < 2 ^ 32 + 16777216))

/-- A scratchpad window address (13 R268), or reason 1 or 10. -/
def windowPlace (s : State) (core va dom : Nat) (sup : Bool) : Except Nat Place :=
  let low := va % 2 ^ 48
  let own := low < 4194304
  let cl := 2 ^ 32 ≤ low && low < 2 ^ 32 + 16777216
  if own then
    if ownsRange s core (low / 65536) dom sup then .ok (.spad core low) else .error 10
  else if cl then
    let c := core / 4 * 4 + (low - 2 ^ 32) / 4194304
    let o := low % 4194304
    if ownsRange s c (o / 65536) dom sup then .ok (.spad c o) else .error 10
  else .error 1

/-- Where a domain virtual address leads for an agent of a core, or the reason it does not (13 R268, R282). -/
def translate (s : State) (core dom va : Nat) (k : AccKind) (sup : Bool) (slot : Nat) : State × Except Nat Place :=
  if 2 ^ 56 ≤ va then (s, .error 1)
  else if va / 2 ^ 48 = 0xFF then (s, windowPlace s core va dom sup)
  else
    match lookup s core dom va slot with
    | (s', .error r) => (s', .error r)
    | (s', .ok t) => (s', leafPlace s' t va k sup)

/-- A record's place and page (11 R214, R232): the local deep store, or reason 12. -/
def translateRecord (s : State) (core dom va : Nat) (sup : Bool) (slot : Nat) : State × Except Nat RecRef :=
  if 2 ^ 56 ≤ va then (s, .error 1)
  else if va / 2 ^ 48 = 0xFF then (s, .error (if inWindow va then 12 else 1))
  else
    match lookup s core dom va slot with
    | (s', .error r) => (s', .error r)
    | (s', .ok t) =>
      match leafPlace s' t va .write sup with
      | .error r => (s', .error r)
      | .ok (.deep pa) => (s', .ok ⟨BitVec.ofNat 64 va, dom, pa, t.leaf.getLsbD 7⟩)
      | .ok _ => (s', .error 12)

/-! ### Accesses -/

/-- Log a translation failure with its reason (13 R282). -/
def logXlate (s : State) (slot reason : Nat) (va : Word) : State :=
  logError s (clusterOf slot) 4 slot (s.slot slot).domain 0 reason 0 0 va 0

/-- Log a stamp refusal: the address, slot, domain and the refusing line's metadata (14 R297). -/
def logMmx (s : State) (slot dom : Nat) (p : Place) (va : Word) : State :=
  logError s (clusterOf slot) 3 slot dom p.array 0 0 0 va (BitVec.setWidth 64 (metaAt s p))

/-- The stores that carry stamps and ECC (14 R302). -/
def Place.stamped (p : Place) : Bool :=
  match p with
  | .spad _ _ => true
  | .deep _ => true
  | _ => false

/-- Note a request accepted by a scratchpad port, of which a snapshot shows the last 16 (20 R430). -/
def notePort (s : State) (p : Place) : State :=
  match p with
  | .spad c o => s.modCore c (fun x => { x with portLog := (BitVec.ofNat 64 o :: x.portLog).take 16 })
  | _ => s

/-- A write of `n` ≤ 8 bytes within a unit is performed at its home: data and stamp in one step, then the wakes of
the line's monitors (14 R295, 15 R321). A remote tier has no stamps. -/
def performWrite (s : State) (p : Place) (n v : Nat) (stamp : BitVec 36) (slot dom : Nat) : State :=
  if p.stamped then wakeWriters (writeRaw (notePort s p) p n v stamp slot dom) p else rawWrite s p n v

/-- The write of `n` bytes, a multiple of 8, unit by unit. -/
def performWrites (s : State) (p : Place) (n v : Nat) (stamp : BitVec 36) (slot dom : Nat) : State :=
  (List.range (n / 8)).foldl
    (fun acc i => performWrite acc (p.plus (8 * i)) 8 (v / 2 ^ (64 * i) % 2 ^ 64) stamp slot dom) s

/-- A read of `n` ≤ 8 bytes within a unit is performed at its home; `none` on an uncorrectable error. -/
def performRead (s : State) (p : Place) (n slot dom : Nat) : State × Option Nat :=
  if p.stamped then readUnit (notePort s p) p n slot dom else (s, some (rawRead s p n))

/-! ### Atomics at the home (15 R311, R313, R314) -/

/-- The signed value of the low `w` bits. -/
def signedOf (w x : Nat) : Int := (BitVec.ofNat w x).toInt

/-- The new value of operation `op` (03 R61) on `w` bits: old value `x`, operand `b` (15 R313, R314). -/
def atomicNew (op w x b : Nat) : Nat :=
  match op with
  | 0 => (x + b) % 2 ^ w
  | 1 => x &&& b
  | 2 => x ||| b
  | 3 => x ^^^ b
  | 4 => if signedOf w x ≤ signedOf w b then x else b
  | 5 => if signedOf w x ≤ signedOf w b then b else x
  | 6 => if x ≤ b then x else b
  | 7 => if x ≤ b then b else x
  | 8 => fp32Add x b
  | 9 => b
  | 10 => if b ≤ x then 0 else x + 1
  | _ => if x = 0 || decide (b < x) then b else x - 1

/-- One indivisible read, computation and write of `n` bytes at the home; `f` answers the new value, or `none` where
memory stays as it is, without a stamp (15 R311). The answer is the old value, or `none` on an uncorrectable error,
where memory is unchanged. -/
def performRmw (s : State) (p : Place) (n slot dom : Nat) (f : Nat → Option Nat) : State × Option Nat :=
  match performRead s p n slot dom with
  | (s1, none) => (s1, none)
  | (s1, some x) =>
    match f x with
    | none => (s1, some x)
    | some y => (performWrite s1 p n y (stampOrdered slot) slot dom, some x)

/-- The atomic of operation `op` on `n` bytes. -/
def performAtomic (s : State) (p : Place) (n op b slot dom : Nat) : State × Option Nat :=
  performRmw s p n slot dom (fun x => some (atomicNew op (8 * n) x (b % 2 ^ (8 * n))))

/-! ### Accesses that have left their role (14 R286, 15 R307) -/

/-- An asynchronous trap request waits at a slot (20 R405, R408). -/
def addPending (s : State) (slot : Nat) (r : TrapReq) : State :=
  s.modSlot slot (fun x => { x with pending := x.pending ++ [r] })

/-- Perform one access of a role: a store, or an atomic without return, whose uncorrectable error is logged and traps
the slot at the role's next boundary (15 R311). -/
def performOne (s : State) (slot : Nat) (r : Role) (o : Outst) : State :=
  let dom := (s.slot slot).domain
  if o.op = 0 then performWrite s o.place o.w (o.val.toNat % 2 ^ (8 * o.w)) o.stamp slot dom
  else
    match performAtomic s o.place o.w (o.op - 1) o.val.toNat slot dom with
    | (s', some _) => s'
    | (s', none) => addPending s' slot ⟨r, 15, o.va, true, r⟩

/-- The role's accesses that `pick` names are performed in order; each has had its undo record since its issue, so none stalls
(20 R432). -/
def drain (s : State) (slot : Nat) (r : Role) (pick : Outst → Bool) : State :=
  let l := (s.role slot r).outst
  let s1 := s.modRole slot r (fun c => { c with outst := l.filter (fun o => !pick o) })
  (l.filter pick).foldl (fun acc o => performOne acc slot r o) s1

/-- Every access of the three roles is performed. -/
def drainSlot (s : State) (slot : Nat) : State :=
  allRoles.foldl (fun acc r => drain acc slot r (fun _ => true)) s

/-- The streams on which a role's plain stores to a line are still to be performed. -/
def lineStreams (c : RoleCtx) (p : Place) : List Nat :=
  (c.outst.filter (fun o => decide (o.stream < 16) && o.op = 0 && o.place.line = p.line)).map (·.stream)

/-- Before the stamp of a line is judged for another slot's plain write, or a copy marks it, the plain stores to it that slots have
issued and not yet performed are performed, with their streams: so the check each passed at its issue still holds when it is
performed (14 R296; DEDUCED, log entry 59). `but`: the slot that is judged. -/
def settleLine (s : State) (but : Nat) (p : Place) : State :=
  (s.slots.map (·.1)).foldl
    (fun acc k =>
      if k = but then acc
      else
        allRoles.foldl
          (fun a r =>
            let l := lineStreams (a.role k r) p
            if l.isEmpty then a else drain a k r (fun o => l.contains o.stream))
          acc)
    s

end Sys2Proof.Machine
end

