-- ==== Sys2Proof/Machine/Units.lean ====
section
/-! DEFINITION. The scope unit's counts and completion (12 R259 to R263), the phaser unit (15 R323 to R327), and what a
strand gives up when it leaves (11 R235, 12 R262, 22 R447). -/

namespace Sys2Proof.Machine

/-- A store by a hardware unit: at package scope, ordered, SLOT 0 (11 R213, 14 R295); a store to the management window
is a management write. -/
def unitStore (s : State) (p : Place) (n v : Nat) : State :=
  match p with
  | .window off => { s with agenda := .event s.cur (.mgmtRegWrite (BitVec.ofNat 16 off) (BitVec.ofNat 64 v)) :: s.agenda }
  | _ => performWrite s p n v (stampOrdered 0) noSlot 0

/-! ### Scopes -/

def State.scope (s : State) (c : Nat) : Scope := s.scopes.get c {}
def State.setScope (s : State) (c : Nat) (x : Scope) : State := { s with scopes := s.scopes.put c x {} }

/-- Scope states (12 R259). -/
def scFree : Nat := 0
def scLive : Nat := 1
def scCancelling : Nat := 2
def scCancelled : Nat := 3

/-- The scope is cancelling or cancelled. -/
def scopeDead (s : State) (c : Nat) : Bool := decide (scCancelling ≤ (s.scope c).state)

/-- LIVE counts one more item. -/
def scopeInc (s : State) (c : Nat) : State :=
  let x := s.scope c
  s.setScope c { x with live := (x.live + 1) % 2 ^ 24 }

/-- The acknowledgement word of a completed scope, stored at ACK, or its failure logged with its reason; the SLOT of
that record is not stated, so a free value (12 R263). -/
def ackWrite (s : State) (c : Nat) : State :=
  let x := s.scope c
  if x.ack = 0 then s
  else
    let word := (s.frameCtr.toNat * 65536 + 0xC000 + c) % 2 ^ 64
    match translate s (4 * x.ecl) x.dom x.ack.toNat .write true (16 * x.ecl) with
    | (s1, .ok p) => unitStore s1 p 8 word
    | (s1, .error r) => logError s1 x.ecl 4 noSlot x.dom 0 r 0 0 (BitVec.setWidth 64 x.ack) 0

/-- LIVE counts one item less; a cancelling scope that reaches 0 completes, and then its parent counts one child less
(12 R263); `fuel` bounds the depth, 32. -/
def scopeDecFrom (s : State) (c fuel : Nat) : State :=
  match fuel with
  | 0 => s
  | n + 1 =>
    let x := s.scope c
    let s1 := s.setScope c { x with live := x.live - 1 }
    if x.state = scCancelling && x.live ≤ 1 then
      let s2 := s1.setScope c { x with live := 0, state := scCancelled }
      let s3 := ackWrite s2 c
      let s4 := if x.even then changeEvents s3 x.ecl s3.cycle true (x.evb / 16) (1#16 <<< (x.evb % 16)) else s3
      if x.parent = c then s4 else scopeDecFrom s4 x.parent n
    else s1

def scopeDec (s : State) (c : Nat) : State := scopeDecFrom s c 33

/-! ### Phasers -/

def State.phaser (s : State) (p : Nat) : Phaser := s.phasers.get p {}
def State.setPhaser (s : State) (p : Nat) (x : Phaser) : State := { s with phasers := s.phasers.put p x {} }

/-- The key of a strand's memberships: its record (15 R323); the boot strand has none in memory. -/
def recKey (t : Strand) : Nat := if t.boot then 2 ^ 34 else t.ref.pa

/-- The membership of a strand on a phaser. -/
def memberOf (s : State) (key p : Nat) : Option Member := s.members.find? (fun m => m.record = key && m.phaser = p)

/-- A member that signals: SIG or SIGWAIT. -/
def Member.signals (m : Member) : Bool := m.mode = 1 || m.mode = 3

/-- A member that waits: WAIT or SIGWAIT. -/
def Member.waits (m : Member) : Bool := m.mode = 2 || m.mode = 3

def setMember (s : State) (m : Member) : State :=
  { s with members := s.members.map (fun x => if x.record = m.record && x.phaser = m.phaser then m else x) }

/-- The linked children of a phaser. -/
def childrenOf (s : State) (p : Nat) : List Nat :=
  (s.phasers.filter (fun e => e.2.live && e.2.ratio != 0 && e.2.parent = p)).map (·.1)

/-- A step of the phaser unit's evaluation (15 R324): close, complete, or a child's signal to apply at its parent. -/
inductive PhTask where
  | close (p : Nat)
  | complete (p : Nat)
  | signal (parent child : Nat)
deriving DecidableEq, Repr

/-- Complete(P): the phase advances, the waiters wake, the children held on the phase complete, the pending signals of
the new phase apply. -/
def phComplete (s : State) (p : Nat) : State × List PhTask :=
  let x := s.phaser p
  let s1 := s.setPhaser p
    { x with
      phase := x.phase + 1
      out := x.ns
      held := false
      applied := false
      rcnt := if x.ratio = 0 then x.rcnt else (x.rcnt + 1) % x.ratio
      signals := x.signals.filter (fun e => e.2 != x.phase + 1) }
  let waiters := s1.phWait.filter (fun w => w.2.2 = p)
  let s2 := { s1 with phWait := s1.phWait.filter (fun w => w.2.2 != p) }
  let s3 := waiters.foldl (fun acc w => wakeRec acc w.2.1 w.1) s2
  let held := (childrenOf s3 p).filter (fun c =>
    (s3.phaser c).held && (s3.phaser c).applied && (s3.phaser c).childMp = x.phase + 1)
  let due := x.signals.filter (fun e => e.2 = x.phase + 1)
  (s3, held.map .complete ++ due.map (fun e => .signal p e.1))

/-- Close(P). -/
def phClose (s : State) (p : Nat) : State × List PhTask :=
  let x := s.phaser p
  if x.ratio != 0 && x.rcnt + 1 = x.ratio then (s.setPhaser p { x with held := true }, [.signal x.parent p])
  else (s, [.complete p])

/-- Run the tasks, the newest first; `fuel` bounds them. -/
def phRun (s : State) (tasks : List PhTask) (fuel : Nat) : State :=
  match fuel, tasks with
  | 0, _ => s
  | _, [] => s
  | n + 1, .close p :: rest =>
    let r := phClose s p
    phRun r.1 (r.2 ++ rest) n
  | n + 1, .complete p :: rest =>
    let r := phComplete s p
    phRun r.1 (r.2 ++ rest) n
  | n + 1, .signal q c :: rest =>
    let x := s.phaser q
    if x.out = 0 && !x.held then
      -- an empty phase closes first, then the signal is applied
      let r := phClose s q
      phRun r.1 (r.2 ++ .signal q c :: rest) n
    else
      let mp := (s.phaser c).childMp
      if mp = x.phase && !x.held then
        let s1 := s.setPhaser q { x with out := x.out - 1 }
        let s2 := s1.setPhaser c { s1.phaser c with childMp := mp + 1, applied := true }
        if x.out = 1 then phRun s2 (.close q :: rest) n else phRun s2 rest n
      else phRun (s.setPhaser q { x with signals := x.signals ++ [(c, mp)] }) rest n

def phFuel : Nat := 16384

/-- What precedes an event at a phaser: an empty phase closes (15 R324). -/
def phBefore (s : State) (p : Nat) : State :=
  let x := s.phaser p
  if x.out = 0 && !x.held then phRun s [.close p] phFuel else s

/-- A signal or a drop of MP = PHASE lowers O, and closes the phase where that brings O to 0. -/
def phLower (s : State) (p : Nat) : State :=
  let x := s.phaser p
  let s1 := s.setPhaser p { x with out := x.out - 1 }
  if x.out = 1 then phRun s1 [.close p] phFuel else s1

/-- The data-phaser register a membership drives (15 R326, 14 R294). -/
def dataRegister (m : Member) : Word :=
  let ph := if m.mode = 1 then m.mp else m.wp
  let v : Nat := if m.mode = 3 && m.mp != m.wp then 0 else 1
  BitVec.ofNat 64 (v * 2 ^ 24 + m.phaser % 256 * 65536 + ph.toNat)

/-- After an instruction of the strand in a slot on a phaser: the register follows a DATA membership. -/
def updateData (s : State) (slot key p : Nat) : State :=
  match memberOf s key p with
  | some m => if m.data then s.modSlot slot (fun x => { x with dphaser := dataRegister m }) else s
  | none => s

/-- A child leaves its parent as a dropped signaller (15 R325, R331). -/
def phUnlink (s : State) (c : Nat) : State :=
  let x := s.phaser c
  if x.ratio = 0 then s
  else
    let q := x.parent
    let s1 := phBefore s q
    let mp := (s1.phaser c).childMp
    let held := (s1.phaser c).held
    let y := s1.phaser q
    let s2 := s1.setPhaser q { y with ns := y.ns - 1, signals := y.signals.filter (fun e => e.1 != c) }
    let s3 := s2.setPhaser c { s2.phaser c with parent := 0, ratio := 0, rcnt := 0, childMp := 0, applied := false }
    let s4 := if mp = y.phase then phLower s3 q else s3
    if held then phRun s4 [.complete c] phFuel else s4

/-- A phaser left with no members and no children is freed, unlinked first; then its parent is judged the same way
(15 R331). -/
def phFree (s : State) (p fuel : Nat) : State :=
  match fuel with
  | 0 => s
  | n + 1 =>
    if s.members.any (fun m => m.phaser = p) || !(childrenOf s p).isEmpty then s
    else
      let x := s.phaser p
      let s1 := phUnlink s p
      let s2 := s1.setPhaser p {}
      if x.ratio = 0 then s2 else phFree s2 x.parent n

/-- A drop of one membership (15 R325, R326, R331); `slot`: where the strand runs, if it does. -/
def phDrop (s : State) (m : Member) (slot : Option Nat) : State :=
  let p := m.phaser
  let s1 := phBefore s p
  let x := s1.phaser p
  let s2 := { s1 with members := s1.members.filter (fun e => !(e.record = m.record && e.phaser = p)) }
  let s3 := if m.signals then s2.setPhaser p { x with ns := x.ns - 1 } else s2
  let s4 := if m.signals && m.mp = x.phase then phLower s3 p else s3
  let s5 :=
    match slot with
    | some k => if m.data then s4.modSlot k (fun y => { y with dphaser := y.dphaser &&& ~~~0x1000000#64 }) else s4
    | none => s4
  phFree s5 p 257

/-- A strand that exits or is removed drops all its memberships (15 R327). -/
def phDropAll (s : State) (key : Nat) (slot : Option Nat) : State :=
  (s.members.filter (fun m => m.record = key)).foldl (fun acc m => phDrop acc m slot) s

/-! ### Launch accounting (22 R447) -/

/-- A launched strand has exited: the launch waits for it no more; a removal by CANCEL leaves status 4. -/
def launchExit (s : State) (pa : Nat) (cancelled : Bool) : State :=
  { s with launches := s.launches.map (fun l =>
      if l.records.any (fun r => r.1 = pa) then
        { l with records := l.records.filter (fun r => r.1 != pa),
                 status := if cancelled && l.status = 0 then 4 else l.status }
      else l) }

/-! ### A strand leaves its slot -/

/-- A save area that no record has taken returns to its cluster's list, and the waiting record may cause another
preemption (11 R229, 20 R411). -/
def releaseVictim (s : State) (slot : Nat) : State :=
  let x := s.slot slot
  let cl := clusterOf slot
  let s1 :=
    match x.saveArea with
    | some a => listAppend (s.modCluster cl (fun c => { c with saves := c.saves ++ [a] })) cl 8 a
    | none => s
  let s2 :=
    match x.victimOf with
    | some v => s1.modCluster cl (fun c =>
        { c with ready := c.ready.map (fun (e : Ready) => if e.ref.va = v then { e with busy := false } else e) })
    | none => s1
  s2.modSlot slot (fun y => { y with saveArea := none, victimOf := none })

/-- The roles after a strand has left: absent, their registers of the slot's hardware kept, with the writes that were on their
way (20 R406). -/
def emptyRole (c : RoleCtx) : RoleCtx :=
  { c.finalRegs with
    present := false, exited := false, nul := 0, pend := [], vpend := [], outst := [], held := false, blockUntil := 0,
    bend := false, barWait := none, reason := 0, images := [] }

/-- No role of the strand is left to take the slot's asynchronous traps: each leaves its record of KIND 12 (20 R466). -/
def logPending (s : State) (slot : Nat) : State :=
  (s.slot slot).pending.foldl (fun acc q => logSlot acc slot 12 0 q.cause q.tval)
    (s.modSlot slot (fun x => { x with pending := [] }))

/-- The slot gives up its strand: queues discarded, roles absent, holds to drop (11 R235, 18 R385). -/
def vacate (s : State) (slot : Nat) : State :=
  (releaseVictim (drainSlot s slot) slot).modSlot slot (fun x =>
    { (x.modRoles emptyRole) with
      strand := none, queues := [], susp := none, block := none, trap := none, handlers := [], stored := false,
      draining := false, kill := false, progress := 0,
      pending := x.pending.filter (fun r => r.cause != 14 && r.cause != 16 && r.cause != 18) })

/-- The staging holds a slot's strand keeps drop when it leaves (18 R385): each drop waits for the matrix commands
pushed before it. -/
def noteDrops (s : State) (slot : Nat) : State :=
  s.modSlot slot (fun x =>
    match x.block.bind (·.buf) with
    | some b => { x with drops := x.drops ++ List.replicate x.holds (s.seqNo, b), holds := 0 }
    | none => { x with holds := 0 })

/-- What every way of leaving has in common: memberships, the scope's count, the launch. -/
def strandGone (s : State) (slot : Nat) (cancelled : Bool) : State :=
  match (s.slot slot).strand with
  | none => s
  | some t =>
    let s1 := phDropAll s (recKey t) (some slot)
    let s2 := noteDrops s1 slot
    let s3 := if t.boot then s2 else scopeDec s2 t.scope
    if t.boot || t.timed then s3 else launchExit s3 t.ref.pa cancelled

/-- The strand exits: every present role has issued EXIT (11 R235). -/
def strandExit (s : State) (slot : Nat) : State :=
  match (s.slot slot).strand with
  | none => s
  | some t =>
    let s1 := if t.boot || t.timed then s else recPut s t.ref.pa 15 1 0
    let s2 := if t.smask = 0 then s1 else
      changeEvents s1 (clusterOf slot) s1.cycle true (t.groups.toNat % 16) t.smask
    vacate (logPending (strandGone s2 slot false) slot) slot

end Sys2Proof.Machine
end

