-- ==== Sys2Proof/Machine/Ops.lean ====
section
/-! DEFINITION. The shared operations: code lines (02 R26 to R29, 12 R244), registers and data queues (02 R22 to R33),
taking a trap and returning from one (20 R404 to R409, R466, 04 R99), halting (04 R100), suspending (11 R221). -/

namespace Sys2Proof.Machine

/-! ### Code lines -/

/-- The line index of a code address, and its word index (02 R28). -/
def lineOf (pc : BitVec 32) : Nat := pc.toNat % 2 ^ 28
def wordOf (pc : BitVec 32) : Nat := pc.toNat / 2 ^ 28

/-- The code address line:word. -/
def codeAddr (line word : Nat) : BitVec 32 := BitVec.ofNat 32 (word % 16 * 2 ^ 28 + line % 2 ^ 28)

/-- The line index that ends a chain and is never a code line (02 R26, R27). -/
def endLine : Nat := 0xFFFFFFF

/-- The lines of the boot ROM: from 0x0FFF_F000 up (22 R443). -/
def isRom (line : Nat) : Bool := decide (0xFFFF000 ≤ line && line < endLine)

/-- Word `w` of a line. -/
def lineWord (data : BitVec 512) (w : Nat) : InstrWord := data.extractLsb' (32 * w) 32

/-- A line kept by 12 R244. -/
def keptLine (s : State) (l : CodeLine) : Bool := l.timed && s.frameMode l.dom

/-- Where a word's error leaves a line of the cache of use: no word has two bits in error (20 R427). -/
def CodeLine.sound (l : CodeLine) : Bool := l.err.all (fun e => decide (popcount e.2 < 2))

/-- The line of a domain and mode in the cache. -/
def codeEntry (s : State) (core dom line : Nat) (sup : Bool) : Option CodeLine :=
  (s.core core).code.find? (fun l => l.dom = dom && l.line = line && (!l.sup || sup))

/-- The line that a fetch of a domain and mode hits: of the ROM, whose content the spec does not give, only what is placed
(22 R443, log entry 5); of the cache, where its check bits allow it. -/
def cachedLine (s : State) (core dom line : Nat) (sup : Bool) : Option (BitVec 512) :=
  if isRom line then (s.rom.find? (fun e => e.1 = line)).map (·.2)
  else ((codeEntry s core dom line sup).filter CodeLine.sound).map (·.data)

/-- The record of an error in word `w` of the array of a core: KIND 1 with the bit's position, or KIND 2. -/
def logWordErr (s : State) (slot dom array addr : Nat) (e : Flips) : State :=
  if popcount e = 1 then logError s (logCluster slot) 1 slot dom array 0 (bitPos e) 0 (BitVec.ofNat 64 addr) 0
  else logError s (logCluster slot) 2 slot dom array 0 0xFF 0 (BitVec.ofNat 64 addr) 0

/-- A fetch reads a line of the cache: single-bit errors are corrected, and a line with more is dropped, so that it is fetched again
(20 R427). -/
def codeCheck (s : State) (slot line : Nat) (sup : Bool) : State :=
  let core := coreOf slot
  let dom := (s.slot slot).domain
  match codeEntry s core dom line sup with
  | none => s
  | some l =>
    if l.err.isEmpty then s
    else
      let s1 := l.err.foldl (fun acc e => logWordErr acc slot dom arrayCode (64 * line + 8 * e.1) e.2) s
      s1.modCore core (fun c =>
        { c with code :=
            if l.sound then c.code.map (fun x => if x = l then { x with err := [] } else x) else c.code.filter (· != l) })

/-- Drop the first element that satisfies `p`. -/
def dropFirst {α : Type} (p : α → Bool) (l : List α) : List α :=
  match l with
  | [] => []
  | x :: r => if p x then r else x :: dropFirst p r

/-- Insert a fetched line: at most 768 kept lines, the one fetched longest ago leaving first (12 R244); at most 1,024
lines in all, the oldest line that is not kept leaving first (DESIGN CHOICE, log entry 10). -/
def codeInsert (s : State) (core : Nat) (l : CodeLine) : State :=
  s.modCore core (fun c =>
    let a := c.code.filter (fun x => !(x.dom = l.dom && x.line = l.line)) ++ [l]
    let b := if 768 < (a.filter (keptLine s)).length then dropFirst (keptLine s) a else a
    let d := if 1024 < b.length then dropFirst (fun x => !keptLine s x) b else b
    { c with code := d })

/-- Fetch a line into the code line cache: the line, or the cause and value of the trap (02 R29, 20 R427). -/
def codeFill (s : State) (slot line : Nat) (sup : Bool) : State × Except (Nat × Word) (BitVec 512) :=
  let core := coreOf slot
  let dom := (s.slot slot).domain
  match cachedLine s core dom line sup with
  | some d => (codeCheck s slot line sup, .ok d)
  | none =>
    let s := codeCheck s slot line sup
    let va : Word := BitVec.ofNat 64 (64 * line)
    if isRom line then (s, .error (4, va))
    else
    match translate s core dom (64 * line) .exec sup slot with
    | (s1, .error r) => (logXlate s1 slot r va, .error (4, va))
    | (s1, .ok p) =>
      match readUnits s1 p 64 slot dom with
      | (s2, none) => (s2, .error (15, va))
      | (s2, some v) =>
        let supPage :=
          match pageEntry s2 core dom (64 * line) with
          | some t => t.leaf.getLsbD 7
          | none => sup
        let l : CodeLine :=
          { dom := dom, line := line, sup := supPage, timed := (s2.slot slot).timed, data := BitVec.ofNat 512 v }
        (codeInsert s2 core l, .ok l.data)

/-! ### Registers (02 R22 to R25, R31 to R33) -/

/-- The value of a destination as a reader at clock `now` sees it: the last write due by then, in issue order. -/
def latest (l : List Pend) (d : Dst) (now : Nat) (old : Word) : Word :=
  l.foldl (fun v p => if p.dst = d && decide (p.due ≤ now) then p.val else v) old

/-- A scalar register as seen at clock `now`; s0 reads zero. -/
def RoleCtx.reg (c : RoleCtx) (r now : Nat) : Word :=
  if r = 0 then 0 else latest c.pend (.sreg r) now (c.regs.get r 0)

/-- A flag as seen at clock `now`. -/
def RoleCtx.flag (c : RoleCtx) (f now : Nat) : Bool :=
  latest c.pend (.flag f) now (if c.flags.getLsbD f then 1 else 0) != 0

/-- Fixed-latency writes due before `now` leave the list; those due at `now` stay for readers one cycle ahead. -/
def RoleCtx.settle (c : RoleCtx) (now : Nat) : RoleCtx :=
  let out := c.pend.filter (fun p => decide (p.due < now))
  let c1 := out.foldl (fun (acc : RoleCtx) p => acc.land p.dst p.val) c
  { c1 with pend := c.pend.filter (fun p => !decide (p.due < now)) }

/-- A value that arrives later is there. -/
def Late.arrived (l : Late) (now : Nat) : Bool :=
  l.ticket = 0 && l.events.isNone && l.behind = 0 && decide (l.due ≤ now)

/-- A router holds a request that `pick` names (14 R304). -/
def routerHas (s : State) (pick : Merge → Request → Bool) : Bool :=
  s.clusters.any (fun e => e.2.groups.any (fun g => g.members.any (pick g)))

/-- A request of the slot's loader that was made before the entry stands in a router (14 R289). -/
def earlierRouted (s : State) (slot before : Nat) : Bool :=
  routerHas s (fun _ m => m.slot = slot && m.role = .loader && decide (m.ticket < before))

/-- What a value waited for has come: the event group an EVTEST reads, bound in its cycle (11 R238); the requests before a queue
entry (14 R289). -/
def Late.bind (l : Late) (s : State) (slot : Nat) : Late :=
  let l1 := if l.behind != 0 && !earlierRouted s slot l.behind then { l with behind := 0 } else l
  match l1.events with
  | some (g, at') =>
    if at' ≤ s.cycle then { l1 with val := BitVec.setWidth 64 (eventGroup s (clusterOf slot) g), events := none } else l1
  | none => l1

/-- Variable-latency results that have arrived land in their registers (02 R32). A fixed-latency write of the same
register that is still listed was issued before, so it is done with (04 R90). -/
def RoleCtx.landDue (c : RoleCtx) (now : Nat) : RoleCtx :=
  let c0 := c.settle now
  let out := c0.vpend.filter (fun p => p.late.arrived now)
  let c1 := { c0 with pend := c0.pend.filter (fun p => !out.any (fun v => v.dst = p.dst)) }
  let c2 := out.foldl (fun (acc : RoleCtx) p => acc.land p.dst p.late.val) c1
  { c2 with vpend := c0.vpend.filter (fun p => !p.late.arrived now) }

/-- Bind and land what is due for every role of a slot. -/
def landSlot (s : State) (slot : Nat) : State :=
  let now := s.clock slot
  s.modSlot slot (fun x =>
    { (x.modRoles (fun c =>
        RoleCtx.landDue { c with vpend := c.vpend.map (fun p => { p with late := p.late.bind s slot }) } now)) with
      queues := x.queues.map (fun q => (q.1, q.2.map (fun e => Late.bind e s slot))) })

/-! ### Data queues (02 R23, R24) -/

/-- Queue numbers: lq0 to lq3 are 0 to 3, sq0 and sq1 are 4 and 5 (20 R417). -/
def State.queue (s : State) (slot q : Nat) : List QEntry := (s.slot slot).queues.get q []
def setQueue (s : State) (slot q : Nat) (l : List QEntry) : State :=
  s.modSlot slot (fun x => { x with queues := x.queues.put q l [] })

/-- All six queues are empty, with no reserved entry. -/
def queuesEmpty (s : State) (slot : Nat) : Bool := (List.range 6).all (fun q => (s.queue slot q).isEmpty)

/-! ### The context as it stands -/

/-- The registers JRNL takes for a role at trap entry (20 R419). -/
def imageOf (c : RoleCtx) : RoleImage :=
  let f := c.finalRegs
  ⟨f.regs, f.flags, c.epc, c.fpctl, c.sup, c.psup, c.cause, c.tval⟩

/-! ### Snapshots (20 R429) -/

/-- A trigger fires: while ARM is 1, the latch comes 8 cycles later. SEQ advances and ARM clears at the latch. -/
def fireSnapshot (s : State) (src : Nat) : State :=
  if s.snap.getLsbD 0 && s.snapAt.isNone then { s with snapAt := some (s.cycle + 8, src) } else s

/-! ### Halting (04 R100) -/

/-- Every role of the slot but `x` has no NUL window open (04 R82). -/
def windowsClosed (s : State) (slot : Nat) (x : Option Role) : Bool :=
  allRoles.all (fun r => some r = x || (s.role slot r).nul = 0 || !(s.role slot r).runs || (s.role slot r).held)

/-- The slot has a queued or running vector or matrix command (20 R412). -/
def commandsLeft (s : State) (slot : Nat) : Bool :=
  let c := s.core (coreOf slot)
  c.vq.any (fun m => m.slot = slot) || c.mq.any (fun m => m.slot = slot) ||
    (c.vrun ++ c.mrun).any (fun m => m.cmd.slot = slot && m.landedAt = 0)

/-- The copy-unit commands of a slot that are neither settled nor discarded. -/
def copiesLeft (s : State) (slot : Nat) : Bool := (s.slot slot).journal.any (fun e => !e.discarded)

/-- A slot whose strand has left by HALT is halted once the commands pushed before have completed. -/
def haltDone (s : State) (slot : Nat) : State :=
  let x := s.slot slot
  if x.halting && x.strand.isNone && !commandsLeft s slot && !copiesLeft s slot then
    s.modSlot slot (fun x => { x with halted := true, halting := false })
  else s

/-- The slot has stopped: its queues are discarded, its strand counts as exited for its scope and its launch, and the
slot leaves the set the scheduler fills; its commands run on. -/
def finishHalt (s : State) (slot : Nat) : State :=
  match (s.slot slot).strand with
  | none => haltDone s slot
  | some t =>
    let s1 := if t.boot then s else scopeDec s t.scope
    let s2 := if t.boot || t.timed then s1 else launchExit s1 t.ref.pa false
    haltDone ((logPending (releaseVictim (drainSlot s2 slot) slot) slot).modSlot slot (fun x =>
      { (x.modRoles (fun c => { c with exited := true, held := false, barWait := none, reason := 0 })) with
        strand := none, halting := true, queues := [], susp := none, block := none, trap := none, handlers := [],
        draining := false, kill := false })) slot

/-- HALT, or a double fault, by a role: the other roles stop at their next boundary. -/
def haltSlot (s : State) (slot : Nat) (r : Role) : State :=
  let s1 := (s.modSlot slot (fun x => { x with halting := true, trap := none })).modRole slot r
    (fun c => { c with exited := true, nul := 0 })
  if windowsClosed s1 slot (some r) then finishHalt s1 slot else s1

/-! ### Taking a trap (20 R407) -/

/-- A suspension that has not completed is given up: the record is no waiter (11 R222). -/
def dropSuspension (s : State) (slot : Nat) : State :=
  match (s.slot slot).susp, (s.slot slot).strand with
  | some _, some t =>
    let s1 := s.modSlot slot (fun x => { x with susp := none })
    let s2 := s1.modCluster (clusterOf slot) (fun c =>
      { c with monitors := c.monitors.filter (fun m => m.1.pa != t.ref.pa) })
    { s2 with phWait := s2.phWait.filter (fun w => w.1.pa != t.ref.pa) }
  | _, _ => s

/-- Every variable-latency result of every role has landed, the data queues' entries included. -/
def resultsLanded (s : State) (slot : Nat) : Bool :=
  let now := s.clock slot
  allRoles.all (fun r => (s.role slot r).vpend.isEmpty) &&
    (List.range 6).all (fun q => (s.queue slot q).all (fun e => e.arrived now))

/-- The trap can be entered: the other roles stand at a boundary, and where it is asynchronous the taker too (04 R82); the results
have landed, and for PREEMPT the engine work has drained. -/
def trapReady (s : State) (slot : Nat) (q : TrapReq) : Bool :=
  windowsClosed s slot (if q.async then none else some q.role) && resultsLanded s slot &&
    (q.cause != 14 || !commandsLeft s slot)

/-- sys.cause as a trap writes it (20 R405). -/
def causeWord (q : TrapReq) : Word :=
  BitVec.ofNat 64 ((if q.async then 2 ^ 63 else 0) + roleNum q.src * 256 + q.cause)

/-- The role that is not the taker is held, its sys.epc naming its next unissued instruction; a role already held
keeps the address it will resume at. -/
def holdRole (c : RoleCtx) : RoleCtx :=
  if c.present && !c.exited && !c.held then
    { c with held := true, epc := BitVec.setWidth 64 c.pc, barWait := none }
  else c

/-- What entry writes for the taker; one that is held keeps the address it will resume at. -/
def takerEntry (c : RoleCtx) (q : TrapReq) : RoleCtx :=
  { c with epc := if c.held then c.epc else BitVec.setWidth 64 c.pc, cause := causeWord q, tval := q.tval, psup := c.sup, sup := true, nul := 0,
           held := false, barWait := none, pc := codeAddr ((c.tvec.toNat % 2 ^ 28 + q.cause) % 2 ^ 28) 1 }

/-- A double fault: the slot halts, with a record of KIND 7 that gives the vector line's address (20 R407). -/
def doubleFault (s : State) (slot : Nat) (r : Role) (line : Nat) : State :=
  haltSlot (logSlot s slot 7 0 0 (BitVec.ofNat 64 (64 * line))) slot r

/-- Trap entry. -/
def enterTrap (s : State) (slot : Nat) (q : TrapReq) : State :=
  let s0 := dropSuspension s slot
  let line := (s0.role slot q.role).tvec.toNat % 2 ^ 28 + q.cause
  let now := s0.clock slot
  let s1 := s0.modSlot slot (fun x =>
    let t := takerEntry (x.role q.role) q
    let y := (x.modRoles holdRole).setRole q.role { t with nextIssue := Nat.max t.nextIssue (now + 1), blockUntil := 0 }
    { (y.modRoles (fun c => { c with images := imageOf c :: c.images })) with
      trap := none, handlers := (q.role, q.cause) :: x.handlers, stored := x.stored && q.cause != 14, draining := false })
  let s2 := if (bitsOf s1.snap 32 32) / 2 ^ q.cause % 2 = 1 then fireSnapshot s1 2 else s1
  if endLine ≤ line then doubleFault s2 slot q.role line
  else
    match codeFill s2 slot line true with
    | (s3, .error _) => doubleFault s3 slot q.role line
    | (s3, .ok d) =>
      if bitsOf (BitVec.setWidth 64 (lineWord d 0)) 28 4 = roleNum q.role then s3
      else doubleFault s3 slot q.role line

/-- The slot waits to enter a trap, and enters it where nothing is left to wait for. -/
def startTrap (s : State) (slot : Nat) (q : TrapReq) : State :=
  let s1 := s.modSlot slot (fun x =>
    if q.cause = 14 then
      -- the drain of a preemption begins: the slot's copies are discarded, not settled (20 R412)
      { x with trap := some q, draining := true,
               journal := x.journal.map (fun e => { e with discarded := true, running := false, finished := false }) }
    else { x with trap := some q })
  if trapReady s1 slot q then enterTrap s1 slot q else s1

/-- A trap is raised: it is entered at once where nothing is to be waited for, else in the step TRAP_ENTRY. An asynchronous trap that
waits for a window to end stands back for the synchronous trap of the role in it; of two synchronous traps the first keeps its place,
and the later role is held at its instruction (20 R408), its window closed so that the two do not wait for each other (DEDUCED: log entry
87). -/
def raiseTrap (s : State) (slot : Nat) (q : TrapReq) : State :=
  match (s.slot slot).trap with
  | none => startTrap s slot q
  | some t =>
    if q.async then addPending s slot q
    else if t.async then startTrap (s.modSlot slot (fun x => { x with pending := t :: x.pending })) slot q
    else s.modRole slot q.role (fun c => { c with nul := 0 })

/-- The taker of an asynchronous trap: the role itself, or the lowest-numbered role that still runs (20 R466). -/
def asyncTaker (s : State) (slot : Nat) (r : Role) : Option Role :=
  if (s.role slot r).runs then some r else allRoles.find? (fun y => (s.role slot y).runs)

/-- PREEMPT, HANG and RESUME stay pending while a trap of the slot has been entered whose ERET is still to come (20 R408). -/
def deferred (s : State) (slot : Nat) (q : TrapReq) : Bool :=
  !(s.slot slot).handlers.isEmpty && (q.cause = 14 || q.cause = 16 || q.cause = 18)

/-- No NUL window keeps an asynchronous trap from stopping the slot: for a preemption none of any role, for another none of its taker
(04 R82). -/
def windowAllows (s : State) (slot : Nat) (q : TrapReq) (r : Role) : Bool :=
  if q.cause = 14 then windowsClosed s slot none else (s.role slot r).nul = 0 || (s.role slot r).held

/-- Take the first pending trap that may be taken; where no role is left to take any, log them (20 R466). -/
def takePending (s : State) (slot : Nat) : State :=
  let x := s.slot slot
  if x.trap.isSome then s
  else
    match x.pending.find? (fun q => !deferred s slot q) with
    | none => s
    | some q =>
      match (if x.strand.isSome then asyncTaker s slot q.role else none) with
      | some r =>
        if windowAllows s slot q r then
          raiseTrap (s.modSlot slot (fun y => { y with pending := y.pending.erase q })) slot { q with role := r }
        else s
      | none => logPending s slot

/-- The trap of the context that issues: precise, before the instruction. -/
def State.trapNow (s : State) (cause : Nat) (tval : Word) : State :=
  raiseTrap s s.me ⟨s.cur.role, cause, tval, false, s.cur.role⟩

/-! ### Returning from a trap (04 R86, R99, 20 R409) -/

/-- The check of a code address held in a register, for JI and ERET (04 R86). -/
def badTarget (a : Word) : Bool := bitsOf a 32 32 != 0 || bitsOf a 28 4 = 0 || bitsOf a 0 28 = endLine

/-- The trap of a fetch (02 R29): at word 1 of its line, unless another role's trap comes first (20 R408). -/
def fetchTrap (s : State) (line cause : Nat) (tval : Word) : State :=
  let first := (s.slot s.me).trap.all (fun t => t.async)
  (if first then s.modMe (fun c => { c with pc := codeAddr line 1 }) else s).trapNow cause tval

/-- A held role is released to its own sys.epc. -/
def releaseRole (c : RoleCtx) : RoleCtx := if c.held then { c with held := false, pc := BitVec.setWidth 32 c.epc } else c

/-- Which trap entries stay open at an ERET of a role: all but its latest; all but its own where it returns to user code, which no
handler is (20 R408; DEDUCED, log entry 87). -/
def openStays (l : List (Role × Nat)) (r : Role) (user : Bool) : List Bool :=
  match l with
  | [] => []
  | e :: t => if e.1 = r then false :: (if user then openStays t r user else t.map (fun _ => true)) else true :: openStays t r user

/-- The elements of a list that are marked. -/
def marked {α : Type} (m : List Bool) (l : List α) : List α := ((l.zip m).filter (·.2)).map (·.1)

/-- An ERET of a role closes its trap entry, and drops the registers kept for it (20 R408, R419). -/
def Slot.closeEntry (x : Slot) (r : Role) (user : Bool) : Slot :=
  let m := openStays x.handlers r user
  let h := marked m x.handlers
  { (x.modRoles (fun c => { c with images := marked m c.images })) with handlers := h, stored := x.stored && !h.isEmpty }

/-- The return of the issuing role, whose sys.epc has passed the check: every held role is released with its own
status, and the first whose sys.epc fails the check takes ILL before it issues. -/
def returnFromTrap (s : State) : State :=
  let k := s.me
  let bad := allRoles.find? (fun r => r != s.cur.role && (s.role k r).held && (s.role k r).runs &&
    badTarget (s.role k r).epc)
  let s1 := s.modSlot k (fun x => (x.modRoles releaseRole).closeEntry s.cur.role (!s.myRole.psup))
  let s2 := s1.modMe (fun c => { c with sup := c.psup, nul := 0, pc := BitVec.setWidth 32 c.epc })
  match bad with
  | none => s2
  | some r => raiseTrap s2 k ⟨r, 1, (s2.role k r).epc, false, r⟩

/-! ### Suspending (11 R221, R236, R237, 12 R257, 15 R320, R333) -/

/-- The pointer a role's part of the record gets when the strand leaves its slot. -/
def leavePtr (c : RoleCtx) : BitVec 32 := if c.runs then c.pc else 0

/-- A suspension that has found the queues empty completes in this cycle: the other roles stand at a boundary, and results and
accesses are performed. -/
def suspendReady (s : State) (slot : Nat) : Bool :=
  windowsClosed s slot none && resultsLanded s slot && !routerHas s (fun _ m => m.slot = slot)

/-- Write REGS, pointers, priority and flags of a record at a suspension (11 R221, R239); reserved fields as zero (00 R6). -/
def writeBack (s : State) (slot : Nat) (t : Strand) (u : Susp) : State :=
  let x := s.slot slot
  let pa := t.ref.pa
  let ptr (r : Role) : Nat := if r = u.role then u.ptr.toNat else (leavePtr (x.role r)).toNat
  let regs := ((x.role u.role).finalRegs).regs
  let s1 := recPut s pa 0 4 (ptr .loader)
  let s2 := recPut s1 pa 4 4 (ptr .computer)
  let s3 := noteExited (recPut s2 pa 8 4 (ptr .storer)) pa (ptr .computer = 0)
  let s4 := recPut (recPut s3 pa 14 1 (t.prio % 64)) pa 21 1 0
  [1, 2, 3, 4, 5].foldl
    (fun acc k => if k = 5 && t.preempted then acc else recPut acc pa (16 + 8 * k) 8 (regs.get k 0).toNat) s4

/-- STATE and FLAGS of a record at a suspension: STARTED is set. -/
def leaveFlags (t : Strand) : Nat :=
  flagStarted + (if t.timed then flagTimed else 0) + (if t.preempted then flagPreempted else 0)

/-- The suspension completes: the record goes back to memory in the state its kind gives, placed by the slot's domain (11 R214),
and the slot frees. The boot
strand has no record (DESIGN CHOICE, log entry 13: it leaves its slot and nothing is written). -/
def completeSuspension (s : State) (slot : Nat) (t : Strand) (u : Susp) : State :=
  if t.boot then vacate s slot
  else
  let ref : RecRef := { t.ref with dom := (s.slot slot).domain }
  let cl := clusterOf slot
  let pa := t.ref.pa
  let s1 := writeBack (drainSlot s slot) slot t u
  let put (acc : State) (st : Nat) : State := recPut acc pa 15 1 (leaveFlags t * 16 + st)
  let s2 := vacate s1 slot
  match u.kind with
  | .yield =>
    let s3 := put s2 stRunning
    placeResume s3 cl (readyOf s3 ref false)
  | .dormant =>
    let s3 := put s2 stDormant
    { s3 with dormant := s3.dormant ++ [(ref, t.scope)] }
  | .event mask group =>
    let s3 := recPut s2 pa 18 2 mask.toNat
    let s4 := recPut s3 pa 20 1 (group * 16 + recGet s3 pa 20 1 % 16)
    enterWaitEv (put s4 stWaitEv) cl ref group mask
  | .frame th =>
    let s3 := recPut s2 pa 18 2 0
    let s4 := recPut s3 pa 20 1 (recGet s3 pa 20 1 % 16)
    let s5 := put s4 stWaitEv
    listAppend (s5.modCluster cl (fun c => { c with frameWait := c.frameWait ++ [(ref, th)] })) cl 6 t.ref.va
  | .monitor _ _ =>
    let s3 := put s2 stWaitMon
    if u.woken then resumeRec s3 cl ref
    else if (s3.cluster cl).monitors.any (fun m => m.1.pa = pa) then
      s3.modCluster cl (fun c =>
        { c with monitors := c.monitors.map (fun m => if m.1.pa = pa then (ref, m.2) else m) })
    else
      listAppend (s3.modCluster cl (fun c => { c with poll := c.poll ++ [(ref, s3.cycle + 1024)] })) cl 4 t.ref.va
  | .phaser _ =>
    let s3 := put s2 stWaitPh
    if u.woken then resumeRec s3 cl ref
    else { s3 with phWait := s3.phWait.map (fun w => if w.1.pa = pa then (ref, w.2) else w) }

end Sys2Proof.Machine
end

