-- ==== Sys2Proof/Machine/Operands.lean ====
section
/-! DEFINITION. How an instruction issues: what blocks a role (02 R21), the checks in their order (03 R63 to R65),
nullification (04 R80, R81), operands and results (02 R22 to R33), and what retiring an instruction does (02 R30). -/

namespace Sys2Proof.Machine

/-- The words of an instruction as sys.tval and a command hold them: the first in [31:0], the second in [63:32]
(03 R64). -/
def wordsOf (i : Instr) : Word := (encode i).2 ++ (encode i).1

/-- The stall count of an instruction (03 R47). -/
def stallOf (i : Instr) : Nat := ((encode i).1.extractLsb' 22 3).toNat

/-- The number of words an instruction has (03 R48). -/
def lengthOf (i : Instr) : Nat := if i.isLong then 2 else 1

/-! ### Blocking (02 R21) -/

/-- Why a role issues nothing now, as the code of a hang record (20 R431); `none`: it may take its next instruction. -/
def blockedBy (s : State) (slot : Nat) (r : Role) : Option Nat :=
  let x := s.slot slot
  let c := x.role r
  if x.strand.isNone || x.halted || !c.runs then some 0
  else if c.held then some 12
  else if (x.trap.isSome || x.halting || x.kill || x.susp.any (fun u => u.stop && u.role != r)) && c.nul = 0 then some 12
  else if x.susp.any (fun u => u.role = r) then some 9
  else if c.bend then some 0
  else if s.clock slot < c.blockUntil then some 2
  else if s.clock slot < c.nextIssue || (x.timed && s.vccPaused) then some 1
  else none

/-- The role is blocked for a reason, which hang records and snapshots show. -/
def State.blocked (s : State) (why : Nat) : State := s.modMe (fun c => { c with reason := why })

/-! ### Retiring -/

/-- The code address after an instruction in the role's chain: its link (04 R85). -/
def linkOf (c : RoleCtx) (i : Instr) : BitVec 32 :=
  let w := wordOf c.pc + lengthOf i
  if w ≤ 15 then codeAddr (lineOf c.pc) w else codeAddr (c.link.toNat % 2 ^ 28) 1

/-- The words of an issue of a role enter a block that is not yet checked. -/
def Block.counted (vcc order : Nat) (ws : List InstrWord) (b : Block) : Block :=
  if b.checked then b else { b with words := b.words ++ ws.map (fun w => (vcc, order, w)) }

/-- The words of an issue enter the block of a timed strand that is not yet checked (12 R252). -/
def blockWords (s : State) (slot order : Nat) (ws : List InstrWord) : State :=
  s.modSlot slot (fun x => { x with block := x.block.map (Block.counted s.vcc order ws) })

/-- The words of an instruction in order. -/
def wordList (i : Instr) : List InstrWord := if i.isLong then [(encode i).1, (encode i).2] else [(encode i).1]

/-- The issue opportunity is used. -/
def State.mark (s : State) : State := { s with issued := true }

/-- The role goes on at `pc` once its next issue may come. -/
def RoleCtx.retired (c : RoleCtx) (pc : BitVec 32) (nul next : Nat) : RoleCtx :=
  { c with pc := pc, nul := nul, nextIssue := next, reason := 0 }

/-- The slot's progress counter restarts (20 R431). -/
def Slot.retired (x : Slot) (r : Role) (pc : BitVec 32) (nul next : Nat) : Slot :=
  { (x.modRole r (fun c => c.retired pc nul next)) with progress := 0, moved := true }

/-- The instruction has issued and the role goes on at `pc`: its words count, its stall count runs (02 R30). -/
def retireTo (i : Instr) (pc : BitVec 32) (nul : Nat) (s : State) : State :=
  ((blockWords s s.me (roleNum s.cur.role) (wordList i)).modSlot s.me
    (fun x => x.retired s.cur.role pc nul (s.clock s.me + 1 + stallOf i))).mark

/-- The instruction has issued and the role goes on behind it. -/
def retire (i : Instr) (nul : Nat) (s : State) : State := retireTo i (linkOf s.myRole i) nul s

/-! ### The gate every instruction passes -/

/-- What the body of an instruction comes to: done, on to another address, a precise trap of check 6, still blocked. -/
inductive Did where
  | done (s : State)
  | goto (s : State) (pc : BitVec 32)
  | trap (s : State) (cause : Nat) (tval : Word)
  | wait (s : State) (why : Nat)
deriving Repr

/-- What the body of an instruction came to takes its effect. -/
def Did.close (i : Instr) (d : Did) : State :=
  match d with
  | .done s => retire i s.myRole.nul s
  | .goto s pc => retireTo i pc s.myRole.nul s
  | .trap s cause tval => (s.trapNow cause tval).mark
  | .wait s why => s.blocked why

/-- The checks in their order (03 R63): the operand limits that depend on the address (`chk3`), role, privilege, the
NUL window, then the body; `null` is what a nullified instruction still does. -/
def gate (i : Instr) (chk3 : Bool) (roles : Role → Bool) (sup : Bool) (null : State → State) (body : State → Did)
    (s : State) : State :=
  match blockedBy s s.me s.cur.role with
  | some why => s.blocked why
  | none =>
    if !chk3 || !roles s.cur.role then (s.trapNow 1 (wordsOf i)).mark
    else if sup && !s.myRole.sup then (s.trapNow 2 (wordsOf i)).mark
    else if s.myRole.nul ≠ 0 then retire i (s.myRole.nul - 1) (null s)
    else (body (landSlot s s.me)).close i

/-! ### Operands -/

/-- What an instruction reads and writes: source registers in the order of their pops, flags, the destination, a
destination flag; `early`: operands captured one cycle ahead (02 R31). -/
structure Use where
  srcs : List (BitVec 5) := []
  flags : List (BitVec 3) := []
  dst : Option (BitVec 5) := none
  dstFlag : Option (BitVec 3) := none
  early : Bool := false

/-- A register number that pops a load queue in a role (02 R23). -/
def popsQueue (r : Role) (n : BitVec 5) : Option Nat :=
  if r = .computer && 28 ≤ n.toNat then some (n.toNat - 28) else none

/-- A register number that pushes a store queue in a role. -/
def pushesQueue (r : Role) (n : BitVec 5) : Option Nat :=
  if r = .computer && (n = 28 || n = 29) then some (n.toNat - 24) else none

/-- Destinations that no role but the computer refuses (02 R23, check 4 of 03 R63). -/
def dstOk (d : BitVec 5) (r : Role) : Bool := !(r = .computer && (d = 30 || d = 31))

/-- Fields that are read and written: the queue ports are refused (04 R75, R87, R96). -/
def noPort (d : BitVec 5) (r : Role) : Bool := !(r = .computer && 28 ≤ d.toNat)

/-- The values of the sources: registers as seen at `now`, queue entries from the head. -/
def sourceVals (s : State) (srcs : List (BitVec 5)) (now : Nat) (seen : List Nat) : List Word :=
  match srcs with
  | [] => []
  | n :: rest =>
    match popsQueue s.cur.role n with
    | some q =>
      let nth := (seen.filter (· = q)).length
      (((s.queue s.me q)[nth]?).map (·.val)).getD 0 :: sourceVals s rest now (q :: seen)
    | none => s.myRole.reg n.toNat now :: sourceVals s rest now seen

/-- The load queues the sources pop. -/
def popList (s : State) (u : Use) : List Nat := u.srcs.filterMap (popsQueue s.cur.role)

/-- Every pop finds its entry filled. -/
def popsReady (s : State) (u : Use) : Bool :=
  let l := popList s u
  l.all (fun q =>
    let n := (l.filter (· = q)).length
    decide (n ≤ (s.queue s.me q).length) && ((s.queue s.me q).take n).all (fun e => e.arrived (s.clock s.me)))

/-- An entry of a data queue as it is read: an error is found, and one of two bits leaves the value open (20 R427; DESIGN CHOICE, log
entry 86). -/
def mendEntry (s : State) (slot q n : Nat) : State :=
  match (s.queue slot q)[n]? with
  | none => s
  | some e =>
    let s1 := logFlips s slot (s.slot slot).domain 6 (BitVec.ofNat 64 (16 * q + n)) e.flips
    let (v, s2) := if popcount e.flips < 2 then (e.val, s1) else takeFree s1 64
    setQueue s2 slot q ((s2.queue slot q).modify n (fun x => { x with val := v, flips := 0 }))

/-- The first `n` entries of a queue are free of errors. -/
def soundQueue (s : State) (slot q n : Nat) : Bool := ((s.queue slot q).take n).all (fun e => e.flips = 0)

/-- The first `n` entries of a queue are read. -/
def mendQueue (s : State) (slot q n : Nat) : State :=
  if soundQueue s slot q n then s else (List.range n).foldl (fun acc i => mendEntry acc slot q i) s

/-- The entries that the sources pop are free of errors. -/
def popsSound (s : State) (u : Use) : Bool :=
  (popList s u).all (fun q => soundQueue s s.me q ((popList s u).filter (· = q)).length)

/-- The entries that the sources pop are read. -/
def mendPops (s : State) (u : Use) : State :=
  if popsSound s u then s
  else (popList s u).foldl (fun acc q => mendQueue acc acc.me q ((popList s u).filter (· = q)).length) s

/-- The pops of an instruction that has its effect. -/
def popAll (s : State) (u : Use) : State :=
  (popList s u).foldl (fun acc q => setQueue acc acc.me q ((acc.queue acc.me q).drop 1)) s

/-- The pops happen where the body has its effect. -/
def Did.popped (u : Use) (d : Did) : Did :=
  match d with
  | .done s => .done (popAll s u)
  | .goto s pc => .goto (popAll s u) pc
  | .trap s cause tval => .trap s cause tval
  | .wait s why => .wait s why

/-- The scoreboard refuses an instruction that would issue: what blocks it comes first, but a wait on a phaser or a barrier comes after
the issue (02 R21, R33). -/
def Did.refused (d : Did) (s : State) : Did :=
  match d with
  | .wait t why => if why = 7 || why = 8 then .trap s 8 0 else .wait t why
  | _ => .trap s 8 0

/-- The destinations and sources that a variable-latency result is still due for. -/
def lateBlocks (s : State) (u : Use) : Bool :=
  let c := s.myRole
  let due (d : Dst) : Bool := c.vpend.any (fun p => p.dst = d)
  u.srcs.any (fun n => (popsQueue s.cur.role n).isNone && n != 0 && due (.sreg n.toNat)) ||
    u.flags.any (fun f => due (.flag f.toNat)) ||
    u.dst.any (fun n => (pushesQueue s.cur.role n).isNone && n != 0 && due (.sreg n.toNat)) ||
    u.dstFlag.any (fun f => due (.flag f.toNat))

/-- The push finds a free entry (02 R24). -/
def pushReady (s : State) (u : Use) : Bool :=
  match u.dst.bind (pushesQueue s.cur.role) with
  | some q => decide ((s.queue s.me q).length < 16)
  | none => true

/-- A fixed-latency dependence the checking scoreboard refuses (02 R33). -/
def stallHazard (s : State) (u : Use) : Bool :=
  let c := s.myRole
  let now := s.clock s.me
  let seen := if u.early then now - 1 else now
  let open' (d : Dst) (t : Nat) : Bool := c.pend.any (fun p => p.dst = d && decide (t < p.due))
  u.srcs.any (fun n => (popsQueue s.cur.role n).isNone && open' (.sreg n.toNat) seen) ||
    u.flags.any (fun f => open' (.flag f.toNat) seen) ||
    u.dst.any (fun n => (pushesQueue s.cur.role n).isNone && open' (.sreg n.toNat) now) ||
    u.dstFlag.any (fun f => open' (.flag f.toNat) now)

/-- Wait for operands and for a place for the result, run the body on the source values, and check the scoreboard of what issues
when CHK is 1; the pops happen with its effect. -/
def operands (u : Use) (body : List Word → State → Did) (s : State) : Did :=
  let now := s.clock s.me
  if lateBlocks s u then .wait s 2
  else if !popsReady s u then .wait s 3
  else if !pushReady s u then .wait s 4
  else
    let seen := if u.early then now - 1 else now
    let s := mendPops s u
    let d := body (sourceVals s u.srcs seen []) s
    if (s.slot s.me).ctl.getLsbD 0 && stallHazard s u then d.refused s
    else d.popped u

/-- A flag as the instruction sees it. -/
def State.flagNow (s : State) (f : BitVec 3) : Bool := s.myRole.flag f.toNat (s.clock s.me)

/-! ### Results -/

/-- A fixed-latency write lands no earlier than an earlier one of the same destination (02 R33). -/
def addPend (c : RoleCtx) (d : Dst) (due : Nat) (v : Word) : RoleCtx :=
  let due' := c.pend.foldl (fun m p => if p.dst = d && decide (m < p.due) then p.due else m) due
  { c with pend := c.pend ++ [⟨d, due', v⟩] }

/-- A result of fixed latency: into a register, or into a store queue whose entry it fills (02 R24, R31). -/
def writeReg (s : State) (d : BitVec 5) (lat : Nat) (v : Word) : State :=
  let due := s.clock s.me + lat
  match pushesQueue s.cur.role d with
  | some q => setQueue s s.me q (s.queue s.me q ++ [{ val := v, due := due }])
  | none => if d = 0 then s else s.modMe (fun c => addPend c (.sreg d.toNat) due v)

/-- A flag result, latency 1. -/
def writeFlag (s : State) (f : BitVec 3) (b : Bool) : State :=
  let due := s.clock s.me + 1
  s.modMe (fun c => addPend c (.flag f.toNat) due (if b then 1 else 0))

/-- A result of variable latency: into a register, or into a store queue (02 R32). -/
def writeLate (s : State) (d : BitVec 5) (l : Late) : State :=
  match pushesQueue s.cur.role d with
  | some q => setQueue s s.me q (s.queue s.me q ++ [l])
  | none => s.modMe (fun c => { c with vpend := c.vpend ++ [⟨.sreg d.toNat, l⟩] })

/-- When a variable-latency result arrives: exactly at its timed latency in a timed strand; otherwise the timing
choice adds to it (02 R32, log entry 2). -/
def dueIn (s : State) (lat : Nat) : Nat × State :=
  if (s.slot s.me).timed then (s.clock s.me + lat, s)
  else
    let (d, s1) := takeDelay s
    (s.clock s.me + lat + d, s1)

/-- An interlocked result with the timed latency of its chapter. -/
def writeInterlocked (s : State) (d : BitVec 5) (lat : Nat) (v : Word) : State :=
  let (due, s1) := dueIn s lat
  writeLate s1 d { val := v, due := due }

/-! ### Small bodies shared by many instructions -/

/-- All three roles. -/
def anyRole (_ : Role) : Bool := true

/-- The loader and the storer. -/
def memRole (r : Role) : Bool := r != .computer

def onlyLoader (r : Role) : Bool := r = .loader
def onlyComputer (r : Role) : Bool := r = .computer
def onlyStorer (r : Role) : Bool := r = .storer

/-- A trap of check 6 whose value the spec does not give: a free value (log entry 6). -/
def trapFree (s : State) (cause : Nat) : Did :=
  let (v, s1) := takeFree s 64
  .trap s1 cause v

/-- An instruction of two sources and one result of fixed latency. -/
def alu2 (i : Instr) (lat : Nat) (d a b : BitVec 5) (f : Word → Word → Word) (s : State) : State :=
  gate i true (dstOk d) false id
    (operands { srcs := [a, b], dst := some d }
      (fun v s => .done (writeReg s d lat (f (v.getD 0 0) (v.getD 1 0))))) s

/-- An instruction of one source and one result of fixed latency. -/
def alu1 (i : Instr) (lat : Nat) (d a : BitVec 5) (f : Word → Word) (s : State) : State :=
  gate i true (dstOk d) false id
    (operands { srcs := [a], dst := some d } (fun v s => .done (writeReg s d lat (f (v.getD 0 0))))) s

end Sys2Proof.Machine
end

