-- ==== Sys2Proof/Machine/Scalar.lean ====
section
/-! DEFINITION. The scalar instructions: arithmetic, logic, bits, constants, addresses, flags, control flow
(04 R67 to R87). -/

namespace Sys2Proof.Machine

/-- What every meaning answers. -/
abbrev Result := Host.Outcome State Fault Refusal

/-- The next state of a step that another one contains. -/
def Result.state (r : Result) (s : State) : State :=
  match r with
  | .next t => t
  | _ => s

/-- ADD (04 R69). -/
def execAdd (st : BitVec 3) (d a b : BitVec 5) (s : State) : Result :=
  .next (alu2 (.add st d a b) 1 d a b (fun x y => x + y) s)

/-- SUB (04 R69). -/
def execSub (st : BitVec 3) (d a b : BitVec 5) (s : State) : Result :=
  .next (alu2 (.sub st d a b) 1 d a b (fun x y => x - y) s)

/-- AND (04 R71). -/
def execAnd (st : BitVec 3) (d a b : BitVec 5) (s : State) : Result :=
  .next (alu2 (.and st d a b) 1 d a b (fun x y => x &&& y) s)

/-- OR (04 R71). -/
def execOr (st : BitVec 3) (d a b : BitVec 5) (s : State) : Result :=
  .next (alu2 (.or st d a b) 1 d a b (fun x y => x ||| y) s)

/-- XOR (04 R71). -/
def execXor (st : BitVec 3) (d a b : BitVec 5) (s : State) : Result :=
  .next (alu2 (.xor st d a b) 1 d a b (fun x y => x ^^^ y) s)

/-- ANDN (04 R71). -/
def execAndn (st : BitVec 3) (d a b : BitVec 5) (s : State) : Result :=
  .next (alu2 (.andn st d a b) 1 d a b (fun x y => x &&& ~~~y) s)

/-- ORN (04 R71). -/
def execOrn (st : BitVec 3) (d a b : BitVec 5) (s : State) : Result :=
  .next (alu2 (.orn st d a b) 1 d a b (fun x y => x ||| ~~~y) s)

/-- SHL (04 R71). -/
def execShl (st : BitVec 3) (d a b : BitVec 5) (s : State) : Result :=
  .next (alu2 (.shl st d a b) 1 d a b (fun x y => shl64 x (count6 y)) s)

/-- SHR (04 R71). -/
def execShr (st : BitVec 3) (d a b : BitVec 5) (s : State) : Result :=
  .next (alu2 (.shr st d a b) 1 d a b (fun x y => shr64 x (count6 y)) s)

/-- SAR (04 R71). -/
def execSar (st : BitVec 3) (d a b : BitVec 5) (s : State) : Result :=
  .next (alu2 (.sar st d a b) 1 d a b (fun x y => sar64 x (count6 y)) s)

/-- ROTL (04 R71). -/
def execRotl (st : BitVec 3) (d a b : BitVec 5) (s : State) : Result :=
  .next (alu2 (.rotl st d a b) 1 d a b (fun x y => rotl64 x (count6 y)) s)

/-- MIN (04 R72). -/
def execMin (st : BitVec 3) (d a b : BitVec 5) (s : State) : Result :=
  .next (alu2 (.min st d a b) 1 d a b (fun x y => if slt64 y x then y else x) s)

/-- MAX (04 R72). -/
def execMax (st : BitVec 3) (d a b : BitVec 5) (s : State) : Result :=
  .next (alu2 (.max st d a b) 1 d a b (fun x y => if slt64 x y then y else x) s)

/-- MINU (04 R72). -/
def execMinu (st : BitVec 3) (d a b : BitVec 5) (s : State) : Result :=
  .next (alu2 (.minu st d a b) 1 d a b (fun x y => if ult64 y x then y else x) s)

/-- MAXU (04 R72). -/
def execMaxu (st : BitVec 3) (d a b : BitVec 5) (s : State) : Result :=
  .next (alu2 (.maxu st d a b) 1 d a b (fun x y => if ult64 x y then y else x) s)

/-- SLT (04 R72). -/
def execSlt (st : BitVec 3) (d a b : BitVec 5) (s : State) : Result :=
  .next (alu2 (.slt st d a b) 1 d a b (fun x y => bool64 (slt64 x y)) s)

/-- SLTU (04 R72). -/
def execSltu (st : BitVec 3) (d a b : BitVec 5) (s : State) : Result :=
  .next (alu2 (.sltu st d a b) 1 d a b (fun x y => bool64 (ult64 x y)) s)

/-- SEQ (04 R72). -/
def execSeq (st : BitVec 3) (d a b : BitVec 5) (s : State) : Result :=
  .next (alu2 (.seq st d a b) 1 d a b (fun x y => bool64 (x == y)) s)

/-- SNE (04 R72). -/
def execSne (st : BitVec 3) (d a b : BitVec 5) (s : State) : Result :=
  .next (alu2 (.sne st d a b) 1 d a b (fun x y => bool64 (x != y)) s)

/-- MUL (04 R69). -/
def execMul (st : BitVec 3) (d a b : BitVec 5) (s : State) : Result :=
  .next (alu2 (.mul st d a b) 3 d a b (fun x y => x * y) s)

/-- MULH (04 R69). -/
def execMulh (st : BitVec 3) (d a b : BitVec 5) (s : State) : Result :=
  .next (alu2 (.mulh st d a b) 3 d a b (fun x y => mulHigh x y) s)

/-- MULHU (04 R69). -/
def execMulhu (st : BitVec 3) (d a b : BitVec 5) (s : State) : Result :=
  .next (alu2 (.mulhu st d a b) 3 d a b (fun x y => mulHighU x y) s)

/-! ### Division (04 R70) -/

/-- When the core's one divider delivers: exactly 40 ticks after issue in a timed strand; otherwise 12 to 40 cycles
after it, in issue order. -/
def divideDue (s : State) : Nat × State :=
  let k := s.me
  if (s.slot k).timed then (s.clock k + 40, s)
  else
    let (x, s1) := takeDelay s
    let due := Nat.max (s.cycle + 12 + Nat.min x 28) (s.core (coreOf k)).divider
    (due, s1.modCore (coreOf k) (fun c => { c with divider := due }))

/-- A divide: its result is of variable latency. -/
def divide (i : Instr) (d a b : BitVec 5) (f : Word → Word → Word) (s : State) : State :=
  gate i true (dstOk d) false id
    (operands { srcs := [a, b], dst := some d }
      (fun v s =>
        let (due, s1) := divideDue s
        .done (writeLate s1 d { val := f (v.getD 0 0) (v.getD 1 0), due := due }))) s

/-- DIV (04 R70). -/
def execDiv (st : BitVec 3) (d a b : BitVec 5) (s : State) : Result :=
  .next (divide (.div st d a b) d a b (quotient true) s)

/-- DIVU (04 R70). -/
def execDivu (st : BitVec 3) (d a b : BitVec 5) (s : State) : Result :=
  .next (divide (.divu st d a b) d a b (quotient false) s)

/-- REM (04 R70). -/
def execRem (st : BitVec 3) (d a b : BitVec 5) (s : State) : Result :=
  .next (divide (.rem st d a b) d a b (remainder true) s)

/-- REMU (04 R70). -/
def execRemu (st : BitVec 3) (d a b : BitVec 5) (s : State) : Result :=
  .next (divide (.remu st d a b) d a b (remainder false) s)

/-! ### Unary (04 R73) -/

/-- CLZ (04 R73). -/
def execClz (st : BitVec 3) (d a : BitVec 5) (s : State) : Result :=
  .next (alu1 (.clz st d a) 1 d a clz64 s)

/-- CTZ (04 R73). -/
def execCtz (st : BitVec 3) (d a : BitVec 5) (s : State) : Result :=
  .next (alu1 (.ctz st d a) 1 d a ctz64 s)

/-- POPC (04 R73). -/
def execPopc (st : BitVec 3) (d a : BitVec 5) (s : State) : Result :=
  .next (alu1 (.popc st d a) 1 d a popc64 s)

/-- BREV (04 R73). -/
def execBrev (st : BitVec 3) (d a : BitVec 5) (s : State) : Result :=
  .next (alu1 (.brev st d a) 1 d a brev64 s)

/-- BSWAP (04 R73). -/
def execBswap (st : BitVec 3) (d a : BitVec 5) (s : State) : Result :=
  .next (alu1 (.bswap st d a) 1 d a bswap64 s)

/-- SEL: reads its flag in its issue cycle (04 R72). -/
def execSel (st f : BitVec 3) (d a b : BitVec 5) (s : State) : Result :=
  .next (gate (.sel st f d a b) true (dstOk d) false id
    (operands { srcs := [a, b], flags := [f], dst := some d }
      (fun v s => .done (writeReg s d 1 (if s.flagNow f then v.getD 0 0 else v.getD 1 0)))) s)

/-! ### Immediate forms: the immediate is sign-extended (04 R67) -/

/-- SignExtend(imm12). -/
def imm64 (imm : BitVec 12) : Word := imm.signExtend 64

/-- ADD, immediate (04 R69). -/
def execAddImm (st : BitVec 3) (d a : BitVec 5) (imm : BitVec 12) (s : State) : Result :=
  .next (alu1 (.addImm st d a imm) 1 d a (fun x => x + imm64 imm) s)

/-- AND, immediate (04 R71). -/
def execAndImm (st : BitVec 3) (d a : BitVec 5) (imm : BitVec 12) (s : State) : Result :=
  .next (alu1 (.andImm st d a imm) 1 d a (fun x => x &&& imm64 imm) s)

/-- OR, immediate (04 R71). -/
def execOrImm (st : BitVec 3) (d a : BitVec 5) (imm : BitVec 12) (s : State) : Result :=
  .next (alu1 (.orImm st d a imm) 1 d a (fun x => x ||| imm64 imm) s)

/-- XOR, immediate (04 R71). -/
def execXorImm (st : BitVec 3) (d a : BitVec 5) (imm : BitVec 12) (s : State) : Result :=
  .next (alu1 (.xorImm st d a imm) 1 d a (fun x => x ^^^ imm64 imm) s)

/-- SHL, immediate (04 R71). -/
def execShlImm (st : BitVec 3) (d a : BitVec 5) (imm : BitVec 12) (s : State) : Result :=
  .next (alu1 (.shlImm st d a imm) 1 d a (fun x => shl64 x imm.toNat) s)

/-- SHR, immediate (04 R71). -/
def execShrImm (st : BitVec 3) (d a : BitVec 5) (imm : BitVec 12) (s : State) : Result :=
  .next (alu1 (.shrImm st d a imm) 1 d a (fun x => shr64 x imm.toNat) s)

/-- SAR, immediate (04 R71). -/
def execSarImm (st : BitVec 3) (d a : BitVec 5) (imm : BitVec 12) (s : State) : Result :=
  .next (alu1 (.sarImm st d a imm) 1 d a (fun x => sar64 x imm.toNat) s)

/-- ROTL, immediate (04 R71). -/
def execRotlImm (st : BitVec 3) (d a : BitVec 5) (imm : BitVec 12) (s : State) : Result :=
  .next (alu1 (.rotlImm st d a imm) 1 d a (fun x => rotl64 x imm.toNat) s)

/-- SLT, immediate (04 R72). -/
def execSltImm (st : BitVec 3) (d a : BitVec 5) (imm : BitVec 12) (s : State) : Result :=
  .next (alu1 (.sltImm st d a imm) 1 d a (fun x => bool64 (slt64 x (imm64 imm))) s)

/-- SLTU, immediate (04 R72). -/
def execSltuImm (st : BitVec 3) (d a : BitVec 5) (imm : BitVec 12) (s : State) : Result :=
  .next (alu1 (.sltuImm st d a imm) 1 d a (fun x => bool64 (ult64 x (imm64 imm))) s)

/-- SEQ, immediate (04 R72). -/
def execSeqImm (st : BitVec 3) (d a : BitVec 5) (imm : BitVec 12) (s : State) : Result :=
  .next (alu1 (.seqImm st d a imm) 1 d a (fun x => bool64 (x == imm64 imm)) s)

/-- SNE, immediate (04 R72). -/
def execSneImm (st : BitVec 3) (d a : BitVec 5) (imm : BitVec 12) (s : State) : Result :=
  .next (alu1 (.sneImm st d a imm) 1 d a (fun x => bool64 (x != imm64 imm)) s)

/-- MIN, immediate (04 R72). -/
def execMinImm (st : BitVec 3) (d a : BitVec 5) (imm : BitVec 12) (s : State) : Result :=
  .next (alu1 (.minImm st d a imm) 1 d a (fun x => if slt64 (imm64 imm) x then imm64 imm else x) s)

/-- MAX, immediate (04 R72). -/
def execMaxImm (st : BitVec 3) (d a : BitVec 5) (imm : BitVec 12) (s : State) : Result :=
  .next (alu1 (.maxImm st d a imm) 1 d a (fun x => if slt64 x (imm64 imm) then imm64 imm else x) s)

/-- MUL, immediate (04 R69). -/
def execMulImm (st : BitVec 3) (d a : BitVec 5) (imm : BitVec 12) (s : State) : Result :=
  .next (alu1 (.mulImm st d a imm) 3 d a (fun x => x * imm64 imm) s)

/-! ### Bit fields, addresses, constants (04 R74 to R77) -/

/-- EXTS (04 R74): width w + 1 at position p. -/
def execExts (st : BitVec 3) (d a : BitVec 5) (w p : BitVec 6) (s : State) : Result :=
  .next (alu1 (.exts st d a w p) 1 d a (fun x => signExtend64 (x >>> p.toNat) (w.toNat + 1)) s)

/-- EXTZ (04 R74). -/
def execExtz (st : BitVec 3) (d a : BitVec 5) (w p : BitVec 6) (s : State) : Result :=
  .next (alu1 (.extz st d a w p) 1 d a (fun x => zeroExtend64 (x >>> p.toNat) (w.toNat + 1)) s)

/-- An instruction that reads its destination: the queue ports are refused in the computer role (04 R75). -/
def readModify (i : Instr) (d : BitVec 5) (srcs : List (BitVec 5)) (f : Word → Word → Word) (s : State) : State :=
  gate i true (noPort d) false id
    (operands { srcs := d :: srcs, dst := some d }
      (fun v s => .done (writeReg s d 1 (f (v.getD 0 0) (v.getD 1 0))))) s

/-- INS (04 R74, R75). -/
def execIns (st : BitVec 3) (d a : BitVec 5) (w p : BitVec 6) (s : State) : Result :=
  .next (readModify (.ins st d a w p) d [a] (fun x y => insField x y p.toNat (w.toNat + 1)) s)

/-- ALIGNUP (04 R77). -/
def execAlignup (st : BitVec 3) (d a : BitVec 5) (n : BitVec 6) (s : State) : Result :=
  .next (alu1 (.alignup st d a n) 1 d a (fun x => alignUp64 x n.toNat) s)

/-- LEA (04 R77). -/
def execLea (st : BitVec 3) (d a b : BitVec 5) (k : BitVec 3) (s : State) : Result :=
  .next (alu2 (.lea st d a b k) 1 d a b (fun x y => x + (y <<< k.toNat)) s)

/-- WRAP (04 R77). -/
def execWrap (st : BitVec 3) (d a b : BitVec 5) (k : BitVec 7) (s : State) : Result :=
  .next (alu2 (.wrap st d a b k) 1 d a b (fun x y => wrap64 x y k.toNat) s)

/-- An instruction without sources and one result of latency 1. -/
def alu0 (i : Instr) (d : BitVec 5) (v : State → Word) (s : State) : State :=
  gate i true (dstOk d) false id (operands { dst := some d } (fun _ s => .done (writeReg s d 1 (v s)))) s

/-- MOVI (04 R76). -/
def execMovi (st : BitVec 3) (d : BitVec 5) (imm : BitVec 17) (s : State) : Result :=
  .next (alu0 (.movi st d imm) d (fun _ => imm.signExtend 64) s)

/-- MOVL (04 R76). -/
def execMovl (st : BitVec 3) (d : BitVec 5) (imm : BitVec 32) (s : State) : Result :=
  .next (alu0 (.movl st d imm) d (fun _ => imm.signExtend 64) s)

/-- LHI: the low half of the destination is kept (04 R75, R76). -/
def execLhi (st : BitVec 3) (d : BitVec 5) (imm : BitVec 32) (s : State) : Result :=
  .next (readModify (.lhi st d imm) d [] (fun x _ => imm ++ x.extractLsb' 0 32) s)

/-! ### Flags and nullification (04 R78 to R81) -/

/-- FCMP (04 R78). -/
def execFcmp (st f : BitVec 3) (a b : BitVec 5) (cond : BitVec 7) (s : State) : Result :=
  .next (gate (.fcmp st f a b cond) true anyRole false id
    (operands { srcs := [a, b], dstFlag := some f }
      (fun v s => .done (writeFlag s f (fcmpHolds cond.toNat (v.getD 0 0) (v.getD 1 0))))) s)

/-- The flags an FLOG operation reads (04 R79). -/
def flogReads (op : BitVec 7) (fa fb : BitVec 3) : List (BitVec 3) :=
  if op.toNat ≤ 3 then [fa, fb] else if op.toNat ≤ 5 then [fa] else []

/-- FLOG (04 R79). -/
def execFlog (st fd fa fb : BitVec 3) (op : BitVec 7) (s : State) : Result :=
  .next (gate (.flog st fd fa fb op) true anyRole false id
    (operands { flags := flogReads op fa fb, dstFlag := some fd }
      (fun _ s => .done (writeFlag s fd (flogResult op.toNat (s.flagNow fa) (s.flagNow fb))))) s)

/-- NUL: with the flag clear, the next n instructions are nullified (04 R80). -/
def execNul (st f : BitVec 3) (n : BitVec 4) (s : State) : Result :=
  .next (gate (.nul st f n) true anyRole false id
    (operands { flags := [f] }
      (fun _ s => .done (if s.flagNow f then s else s.modMe (fun c => { c with nul := n.toNat })))) s)

/-! ### Branches and jumps (03 R52, 04 R83 to R87) -/

/-- The target line of a branch or jump, from the line that holds its first word. -/
def targetLine (s : State) (off : Int) : Int := (lineOf s.myRole.pc : Int) + off

/-- The limits of a target: word 1 to 15, line 0 to 0x0FFF_FFFE. -/
def targetOk (s : State) (off : Int) (tw : BitVec 4) : Bool :=
  tw != 0 && decide (0 ≤ targetLine s off) && decide (targetLine s off < endLine)

/-- The target as a code address. -/
def target (s : State) (off : Int) (tw : BitVec 4) : BitVec 32 := codeAddr (targetLine s off).toNat tw.toNat

/-- A branch that compares two registers. -/
def branch2 (i : Instr) (a b : BitVec 5) (off : BitVec 8) (tw : BitVec 4) (taken : Word → Word → Bool) (s : State) :
    State :=
  gate i (targetOk s off.toInt tw) anyRole false id
    (operands { srcs := [a, b] }
      (fun v s => if taken (v.getD 0 0) (v.getD 1 0) then .goto s (target s off.toInt tw) else .done s)) s

/-- A branch on a flag. -/
def branchFlag (i : Instr) (f : BitVec 3) (off : BitVec 8) (tw : BitVec 4) (when : Bool) (s : State) : State :=
  gate i (targetOk s off.toInt tw) anyRole false id
    (operands { flags := [f] }
      (fun _ s => if s.flagNow f == when then .goto s (target s off.toInt tw) else .done s)) s

/-- BEQ (04 R83). -/
def execBeq (st : BitVec 3) (a b : BitVec 5) (off : BitVec 8) (tw : BitVec 4) (s : State) : Result :=
  .next (branch2 (.beq st a b off tw) a b off tw (fun x y => x == y) s)

/-- BNE (04 R83). -/
def execBne (st : BitVec 3) (a b : BitVec 5) (off : BitVec 8) (tw : BitVec 4) (s : State) : Result :=
  .next (branch2 (.bne st a b off tw) a b off tw (fun x y => x != y) s)

/-- BLT (04 R83). -/
def execBlt (st : BitVec 3) (a b : BitVec 5) (off : BitVec 8) (tw : BitVec 4) (s : State) : Result :=
  .next (branch2 (.blt st a b off tw) a b off tw (fun x y => slt64 x y) s)

/-- BGE (04 R83). -/
def execBge (st : BitVec 3) (a b : BitVec 5) (off : BitVec 8) (tw : BitVec 4) (s : State) : Result :=
  .next (branch2 (.bge st a b off tw) a b off tw (fun x y => !slt64 x y) s)

/-- BLTU (04 R83). -/
def execBltu (st : BitVec 3) (a b : BitVec 5) (off : BitVec 8) (tw : BitVec 4) (s : State) : Result :=
  .next (branch2 (.bltu st a b off tw) a b off tw (fun x y => ult64 x y) s)

/-- BGEU (04 R83). -/
def execBgeu (st : BitVec 3) (a b : BitVec 5) (off : BitVec 8) (tw : BitVec 4) (s : State) : Result :=
  .next (branch2 (.bgeu st a b off tw) a b off tw (fun x y => !ult64 x y) s)

/-- BF: taken when the flag is 1 (04 R83). -/
def execBf (st f : BitVec 3) (off : BitVec 8) (tw : BitVec 4) (s : State) : Result :=
  .next (branchFlag (.bf st f off tw) f off tw true s)

/-- BF.n: taken when the flag is 0 (04 R83). -/
def execBfN (st f : BitVec 3) (off : BitVec 8) (tw : BitVec 4) (s : State) : Result :=
  .next (branchFlag (.bfN st f off tw) f off tw false s)

/-- LOOP (04 R87): the queue ports are refused in the computer role. -/
def execLoop (st : BitVec 3) (a : BitVec 5) (off : BitVec 8) (tw : BitVec 4) (s : State) : Result :=
  .next (gate (.loop st a off tw) (targetOk s off.toInt tw) (noPort a) false id
    (operands { srcs := [a], dst := some a }
      (fun v s =>
        let c := v.getD 0 0 - 1
        let s1 := writeReg s a 1 c
        if c != 0 then .goto s1 (target s off.toInt tw) else .done s1)) s)

/-- J (04 R85). -/
def execJ (st : BitVec 3) (off : BitVec 18) (tw : BitVec 4) (s : State) : Result :=
  .next (gate (.j st off tw) (targetOk s off.toInt tw) anyRole false id
    (operands {} (fun _ s => .goto s (target s off.toInt tw))) s)

/-- JL: the link goes to s27 (04 R85). -/
def execJl (st : BitVec 3) (off : BitVec 18) (tw : BitVec 4) (s : State) : Result :=
  .next (gate (.jl st off tw) (targetOk s off.toInt tw) anyRole false id
    (operands { dst := some 27 }
      (fun _ s =>
        let link := BitVec.setWidth 64 (linkOf s.myRole (.jl st off tw))
        .goto (writeReg s 27 1 link) (target s off.toInt tw))) s)

/-- JI: reads its target before it writes the link (04 R85, R86). -/
def execJi (st : BitVec 3) (d a : BitVec 5) (s : State) : Result :=
  .next (gate (.ji st d a) true (dstOk d) false id
    (operands { srcs := [a], dst := some d }
      (fun v s =>
        let t := v.getD 0 0
        if badTarget t then .trap s 1 t
        else .goto (writeReg s d 1 (BitVec.setWidth 64 (linkOf s.myRole (.ji st d a)))) (BitVec.setWidth 32 t))) s)

/-! ### NOP and TICK (04 R94, R101) -/

/-- NOP (04 R94). -/
def execNop (st : BitVec 3) (s : State) : Result :=
  .next (gate (.nop st) true anyRole false id (fun s => .done s) s)

/-- TICK: the free-running cycle counter (04 R101). -/
def execTick (st : BitVec 3) (d : BitVec 5) (s : State) : Result :=
  .next (alu0 (.tick st d) d (fun s => BitVec.ofNat 64 s.cycle) s)

end Sys2Proof.Machine
end

