-- ==== Sys2Proof/Machine/MemoryInstr.lean ====
section
/-! DEFINITION. Plain and ordered accesses, fences, atomics, WAITA (04 R88 to R93, 14 R285 to R304, 15 R305 to R322). -/

namespace Sys2Proof.Machine

/-! ### Order (14 R288, R289, 15 R307) -/

/-- The timed latency of an access by its target (12 R243). -/
def accessLatency (slot : Nat) (p : Place) : Nat :=
  match p with
  | .spad c _ => if c = coreOf slot then 8 else 24
  | .deep a => if a / 2 ^ 32 % 4 = dieOf slot then 64 else 96
  | _ => 256

/-- The latency of an access whose address has been translated: an untimed one waits for its translation (13 R276). -/
def accessTime (s : State) (p : Place) (va : Word) : Nat :=
  accessLatency s.me p +
    (if (s.slot s.me).timed then 0 else transWait s (coreOf s.me) (s.slot s.me).domain va.toNat)

/-- A request of the role stands in a router, to the 8-byte unit of `p` or anywhere. -/
def inGroup (s : State) (slot : Nat) (r : Role) (p : Option Place) : Bool :=
  routerHas s (fun g m => m.slot = slot && m.role = r && p.all (fun q => q.unit = g.place.unit))

/-- No access performed since raised an error of its own, which would be taken first (15 R306). -/
def quiet (s t : State) : Bool := (s.slot s.me).pending.length = (t.slot t.me).pending.length

/-- Every earlier access of the role is performed; the answer says whether that has come about. -/
def performedAll (s : State) : State × Bool :=
  let s1 := drain s s.me s.cur.role (fun _ => true)
  (s1, s1.myRole.outst.isEmpty && !inGroup s1 s1.me s1.cur.role none && quiet s s1)

/-- The role's earlier plain accesses on the streams that `pick` names are performed. -/
def performedStreams (s : State) (pick : Nat → Bool) : State × Bool :=
  let s1 := drain s s.me s.cur.role (fun o => o.stream < 16 && pick o.stream)
  (s1, !s1.myRole.outst.any (fun o => o.stream < 16 && pick o.stream))

/-- The role's earlier accesses to the 8-byte unit are performed, and with a plain one its stream (14 R288). -/
def performedUnit (s : State) (p : Place) : State × Bool :=
  let here (o : Outst) : Bool := o.place.unit = p.unit
  let l := s.myRole.outst
  let mine (o : Outst) : Bool := here o || (decide (o.stream < 16) && l.any (fun x => here x && x.stream = o.stream))
  let s1 := drain s s.me s.cur.role mine
  (s1, !s1.myRole.outst.any mine && !inGroup s1 s1.me s1.cur.role (some p) && quiet s s1)

/-- The role's earlier accesses to the line are performed, and with a plain one its stream. -/
def performedLine (s : State) (p : Place) : State × Bool :=
  let here (o : Outst) : Bool := o.place.line = p.line
  let l := s.myRole.outst
  let mine (o : Outst) : Bool := here o || (decide (o.stream < 16) && l.any (fun x => here x && x.stream = o.stream))
  let s1 := drain s s.me s.cur.role mine
  let grouped := routerHas s1 (fun g m => m.slot = s1.me && m.role = s1.cur.role && g.place.line = p.line)
  (s1, !grouped && quiet s s1)

/-- What a plain access on a stream waits for: with `all` the earlier ones of its stream, and always the ordered ones to its unit
(14 R288). -/
def performedPlain (s : State) (p : Place) (stream : Nat) (all : Bool) : State × Bool :=
  let mine (o : Outst) : Bool := (o.stream = 16 && o.place.unit = p.unit) || (all && o.stream = stream)
  let s1 := drain s s.me s.cur.role mine
  (s1, !s1.myRole.outst.any mine && !inGroup s1 s1.me s1.cur.role (some p))

/-- What an ordered access of order code `ord` (03 R57) waits for: release, acq_rel and sc for every earlier access,
the others for those to their own unit. -/
def performedFor (s : State) (ord : Nat) (p : Place) : State × Bool :=
  if 2 ≤ ord then performedAll s else performedUnit s p

/-- A write that is to be performed later has its line's undo record from the cycle in which it leaves (20 R432; DEDUCED, log
entry 40). -/
def logEarly (s : State) (p : Place) : State :=
  match p with
  | .deep a =>
    let n := monitorCount s
    let s1 := undoLog s a
    if n = 0 then s1 else wakeUndo s1 n
  | _ => s

/-- A write waits where the die's undo log is full and its line is not in it (20 R432). -/
def undoWait (s : State) (p : Place) (next : State → Did) : Did :=
  if undoStalls s p then .wait (noteStall s s.me p) 10 else next s

/-- A store or an atomic without return leaves the role: it is performed at once, or, when its translation or the timing choice holds it,
later (14 R286, log entry 2). -/
def leave (s : State) (o : Outst) : State :=
  let k := s.me
  let (x, s1) := if (s.slot k).timed then (0, s) else takeDelay s
  let d := if (s.slot k).timed then x else x + transWait s (coreOf k) (s.slot k).domain o.va.toNat
  let behind := s1.myRole.outst.any (fun x => x.stream = o.stream)
  if d = 0 && !behind then performOne s1 k s.cur.role o
  else
    let due := s1.myRole.outst.foldl (fun m x => if x.stream = o.stream then Nat.max m x.due else m) (s1.cycle + d)
    (logEarly s1 o.place).modMe (fun c => { c with outst := c.outst ++ [{ o with due := due }] })

/-! ### Checks of an address (04 R89, 22 R440) -/

/-- ALIGN and XLATE, in that order; a window access is one aligned doubleword, plain or ordered. -/
def checkAddress (s : State) (va : Word) (n : Nat) (k : AccKind) (next : State → Place → Did) : Did :=
  if va.toNat % n ≠ 0 then .trap s 3 va
  else
    match translate s (coreOf s.me) (s.slot s.me).domain va.toNat k s.myRole.sup s.me with
    | (s1, .error r) => .trap (logXlate s1 s.me r va) 4 va
    | (s1, .ok (.window o)) => if n ≠ 8 then .trap (logXlate s1 s.me 1 va) 4 va else next s1 (.window o)
    | (s1, .ok p) => next s1 p

/-- The stamp check of a plain access (14 R296), on metadata that is right (20 R427); before that of a write, the stores to the line
that other slots have under way. -/
def checkStamp (s : State) (va : Word) (p : Place) (write : Bool) (next : State → Did) : Did :=
  let k := s.me
  let dom := (s.slot k).domain
  let s1 := if write then settleLine s k p else s
  if !p.stamped then next s1
  else if lineBad s1 p then .trap (logBad s1 p k dom) 15 va
  else
    let s2 := eccMeta s1 p k dom
    if stampAllows (metaAt s2 p) k (s2.slot k).dphaser then next s2 else .trap (logMmx s2 k dom p va) 5 va

/-- A read at the home, or a precise ECC trap. -/
def readOrTrap (s : State) (va : Word) (p : Place) (n : Nat) (next : State → Nat → Did) : Did :=
  match performRead s p n s.me (s.slot s.me).domain with
  | (s1, none) => .trap s1 15 va
  | (s1, some v) => next s1 v

/-- A value of `n` bytes as a register holds it. -/
def widened (n : Nat) (signed : Bool) (v : Nat) : Word :=
  let w := BitVec.ofNat 64 v
  if signed then signExtend64 w (8 * n) else zeroExtend64 w (8 * n)

/-- The address of an MM access (03 R53). -/
def mmAddress (base : Word) (disp : BitVec 8) (n : Nat) : Word := base + BitVec.ofInt 64 (disp.toInt * n)

/-! ### Plain loads and stores (04 R88 to R91) -/

/-- The read of a plain access: earlier accesses of its stream first. -/
def plainRead (s : State) (va : Word) (n : Nat) (stream : BitVec 4) (next : State → Place → Nat → Did) : Did :=
  checkAddress s va n .read (fun s p =>
    match performedPlain s p stream.toNat true with
    | (s1, false) => .wait s1 10
    | (s1, true) => checkStamp s1 va p false (fun s => readOrTrap s va p n (fun s v => next s p v)))

/-- A load of `n` bytes. -/
def load (i : Instr) (n : Nat) (signed : Bool) (t base : BitVec 5) (stream : BitVec 4) (disp : BitVec 8) (s : State) :
    State :=
  gate i true memRole false id
    (operands { srcs := [base], dst := some t }
      (fun v s =>
        let va := mmAddress (v.getD 0 0) disp n
        plainRead s va n stream (fun s p x =>
          .done (writeInterlocked s t (accessTime s p va) (widened n signed x))))) s

/-- A write to the management window. -/
def Place.isWindow (p : Place) : Bool :=
  match p with
  | .window _ => true
  | _ => false

/-- A plain write: to the window it is a management write, behind the earlier accesses of its stream (04 R91); else it leaves the
role on its stream. -/
def plainWrite (s : State) (va : Word) (n : Nat) (stream : BitVec 4) (v : Word) (next : State → Did) : Did :=
  checkAddress s va n .write (fun s p =>
    match performedPlain s p stream.toNat p.isWindow with
    | (s1, false) => .wait s1 10
    | (s1, true) =>
      checkStamp s1 va p true (fun s =>
        if p.isWindow then next (unitStore s p 8 v.toNat)
        else
          undoWait s p (fun s =>
            next (leave s ⟨stream.toNat, p, va, n, 0, v, stampPlain s.me (s.slot s.me).dphaser, 0⟩))))

/-- A store of the low `n` bytes of s[t]. -/
def store (i : Instr) (n : Nat) (t base : BitVec 5) (stream : BitVec 4) (disp : BitVec 8) (s : State) : State :=
  gate i true memRole false id
    (operands { srcs := [base, t] }
      (fun v s => plainWrite s (mmAddress (v.getD 0 0) disp n) n stream (v.getD 1 0) (fun s => .done s))) s

/-- LD.b (04 R88). -/
def execLdB (st : BitVec 3) (t base : BitVec 5) (stream : BitVec 4) (disp : BitVec 8) (s : State) : Result :=
  .next (load (.ldB st t base stream disp) 1 true t base stream disp s)

/-- LD.bu (04 R88). -/
def execLdBu (st : BitVec 3) (t base : BitVec 5) (stream : BitVec 4) (disp : BitVec 8) (s : State) : Result :=
  .next (load (.ldBu st t base stream disp) 1 false t base stream disp s)

/-- LD.h (04 R88). -/
def execLdH (st : BitVec 3) (t base : BitVec 5) (stream : BitVec 4) (disp : BitVec 8) (s : State) : Result :=
  .next (load (.ldH st t base stream disp) 2 true t base stream disp s)

/-- LD.hu (04 R88). -/
def execLdHu (st : BitVec 3) (t base : BitVec 5) (stream : BitVec 4) (disp : BitVec 8) (s : State) : Result :=
  .next (load (.ldHu st t base stream disp) 2 false t base stream disp s)

/-- LD.w (04 R88). -/
def execLdW (st : BitVec 3) (t base : BitVec 5) (stream : BitVec 4) (disp : BitVec 8) (s : State) : Result :=
  .next (load (.ldW st t base stream disp) 4 true t base stream disp s)

/-- LD.wu (04 R88). -/
def execLdWu (st : BitVec 3) (t base : BitVec 5) (stream : BitVec 4) (disp : BitVec 8) (s : State) : Result :=
  .next (load (.ldWu st t base stream disp) 4 false t base stream disp s)

/-- LD.d (04 R88). -/
def execLdD (st : BitVec 3) (t base : BitVec 5) (stream : BitVec 4) (disp : BitVec 8) (s : State) : Result :=
  .next (load (.ldD st t base stream disp) 8 false t base stream disp s)

/-- ST.b (04 R88). -/
def execStB (st : BitVec 3) (t base : BitVec 5) (stream : BitVec 4) (disp : BitVec 8) (s : State) : Result :=
  .next (store (.stB st t base stream disp) 1 t base stream disp s)

/-- ST.h (04 R88). -/
def execStH (st : BitVec 3) (t base : BitVec 5) (stream : BitVec 4) (disp : BitVec 8) (s : State) : Result :=
  .next (store (.stH st t base stream disp) 2 t base stream disp s)

/-- ST.w (04 R88). -/
def execStW (st : BitVec 3) (t base : BitVec 5) (stream : BitVec 4) (disp : BitVec 8) (s : State) : Result :=
  .next (store (.stW st t base stream disp) 4 t base stream disp s)

/-- ST.d (04 R88). -/
def execStD (st : BitVec 3) (t base : BitVec 5) (stream : BitVec 4) (disp : BitVec 8) (s : State) : Result :=
  .next (store (.stD st t base stream disp) 8 t base stream disp s)

/-- A push of the issuing role: its earlier accesses are performed, and the entry waits for its requests that stand in a router: those
numbered below the number handed on (14 R289). -/
def pushBehind (s : State) (next : State → Nat → Did) : Did :=
  let s1 := drain s s.me s.cur.role (fun _ => true)
  if quiet s s1 then next s1 (if inGroup s1 s1.me s1.cur.role none then s1.seqNo else 0) else .wait s1 10

/-- LDQ (04 R92): the push reserves its entry, which is poppable only after the loader's earlier accesses have been
performed (14 R289). -/
def execLdq (st : BitVec 3) (q : BitVec 2) (base : BitVec 5) (stream : BitVec 4) (disp : BitVec 8) (s : State) :
    Result :=
  .next (gate (.ldq st q base stream disp) true onlyLoader false id
    (operands { srcs := [base] }
      (fun v s =>
        if 16 ≤ (s.queue s.me q.toNat).length then .wait s 4
        else
          let va := mmAddress (v.getD 0 0) disp 8
          plainRead s va 8 stream (fun s p x =>
            pushBehind s (fun s behind =>
              let (due, s1) := dueIn s (accessTime s p va)
              .done (setQueue s1 s1.me q.toNat
                (s1.queue s1.me q.toNat ++ [{ val := BitVec.ofNat 64 x, due := due, behind := behind }])))))) s)

/-- STQ (04 R93): pops the head of a store queue once it is filled. -/
def execStq (st : BitVec 3) (q : BitVec 1) (base : BitVec 5) (stream : BitVec 4) (disp : BitVec 8) (s : State) :
    Result :=
  .next (gate (.stq st q base stream disp) true onlyStorer false id
    (operands { srcs := [base] }
      (fun v s =>
        let s := mendQueue s s.me (4 + q.toNat) 1
        match s.queue s.me (4 + q.toNat) with
        | [] => .wait s 3
        | e :: rest =>
          if !e.arrived (s.clock s.me) then .wait s 3
          else
            plainWrite s (mmAddress (v.getD 0 0) disp 8) 8 stream e.val
              (fun s => .done (setQueue s s.me (4 + q.toNat) rest)))) s)

/-! ### Ordered accesses (15 R305 to R307) -/

/-- LDO (15 R306). -/
def execLdo (st : BitVec 3) (d a : BitVec 5) (ord : BitVec 3) (sx : BitVec 1) (w : BitVec 2) (s : State) : Result :=
  .next (gate (.ldo st d a ord sx w) true memRole false id
    (operands { srcs := [a], dst := some d }
      (fun v s =>
        let va := v.getD 0 0
        let n := 2 ^ w.toNat
        checkAddress s va n .read (fun s p =>
          match performedFor s ord.toNat p with
          | (s1, false) => .wait s1 10
          | (s1, true) =>
            readOrTrap s1 va p n (fun s x =>
              .done (writeInterlocked s d (accessTime s p va) (widened n (sx = 1) x)))))) s)

/-- STO (15 R306): an sc store holds the role until it is performed, so it is performed at issue (15 R307). -/
def execSto (st : BitVec 3) (a b : BitVec 5) (ord : BitVec 3) (w : BitVec 2) (s : State) : Result :=
  .next (gate (.sto st a b ord w) true memRole false id
    (operands { srcs := [a, b] }
      (fun v s =>
        let va := v.getD 0 0
        let n := 2 ^ w.toNat
        checkAddress s va n .write (fun s p =>
          match performedFor s ord.toNat p with
          | (s1, false) => .wait s1 10
          | (s1, true) =>
            let o : Outst := ⟨16, p, va, n, 0, v.getD 1 0, stampOrdered s1.me, 0⟩
            if p.isWindow then .done (unitStore s1 p 8 (v.getD 1 0).toNat)
            else
              undoWait s1 p (fun s =>
                if ord = 4 then .done (performOne s s.me s.cur.role o) else .done (leave s o))))) s)

/-! ### Fences (15 R308 to R310) -/

/-- The engine commands that the computer pushed are completed or discarded (15 R309). -/
def commandsDone (s : State) : Bool :=
  !commandsLeft s s.me && !(s.slot s.me).journal.any (fun e => e.role = .computer && !e.discarded)

/-- FENCE (15 R308, R309): order 1 acquire waits for earlier reads, the others for every earlier access. -/
def execFence (st ord sco : BitVec 3) (s : State) : Result :=
  .next (gate (.fence st ord sco) true anyRole false id
    (fun s =>
      if s.cur.role = .computer && !commandsDone s then .wait s 10
      else if ord = 1 then if inGroup s s.me s.cur.role none then .wait s 10 else .done s
      else
        match performedAll s with
        | (s1, true) => .done s1
        | (s1, false) => .wait s1 10) s)

/-- XFENCE (15 R310). -/
def execXfence (st : BitVec 3) (mask : BitVec 16) (s : State) : Result :=
  .next (gate (.xfence st mask) true memRole false id
    (fun s =>
      match performedStreams s (fun x => mask.getLsbD x) with
      | (s1, true) => .done s1
      | (s1, false) => .wait s1 10) s)

/-! ### Atomics (15 R311 to R318) -/

/-- The operations that routers merge, at relaxed order (14 R303). -/
def mergeable (op ord : Nat) : Bool := decide (op ≤ 7) && ord = 0

/-- The places whose atomics pass a router: the local deep store and tier 1 (15 R318). -/
def routed (p : Place) : Bool :=
  match p with
  | .deep _ => true
  | .remote _ _ => true
  | _ => false

/-- The requests of these two may merge, and the group is still open (14 R303, R304). -/
def mergesInto (s : State) (p : Place) (n op : Nat) (g : Merge) : Bool :=
  g.place = p && g.w = n && g.op = op && decide (s.cycle < g.opened + 8)

/-- Requests enter a router together: they join the open group of their key, or open one (14 R304). -/
def enterRouter (s : State) (cluster : Nat) (p : Place) (n op : Nat) (ms : List Request) : State :=
  s.modCluster cluster (fun c =>
    if c.groups.any (mergesInto s p n op) then
      { c with groups := c.groups.map (fun g => if mergesInto s p n op g then { g with members := g.members ++ ms } else g) }
    else { c with groups := c.groups ++ [⟨p, n, op, s.cycle, ms⟩] })

/-- The request of the issuing role enters its cluster's router at its core's input (14 R303), its line's undo record taken. -/
def joinGroup (s : State) (p : Place) (n op : Nat) (operand va : Word) (ticket : Nat) (returns : Bool) : State :=
  let k := s.me
  enterRouter (logEarly s p) (clusterOf k) p n op [⟨coreOf k % 4, k, s.cur.role, ticket, returns, operand, va, s.myRole.pc⟩]

/-- What a relaxed atomic that merges waits for: the role's earlier accesses to its unit, with a plain one its stream, but for requests in
the group that it joins, which go before it (14 R288, R304). -/
def performedMerging (s : State) (p : Place) (n op : Nat) : State × Bool :=
  let k := s.me
  let here (o : Outst) : Bool := o.place.unit = p.unit
  let l := s.myRole.outst
  let s1 := drain s k s.cur.role (fun o => here o || (decide (o.stream < 16) && l.any (fun x => here x && x.stream = o.stream)))
  let elsewhere := s1.clusters.any (fun e => e.2.groups.any (fun g =>
    g.place.unit = p.unit && g.members.any (fun m => m.slot = k && m.role = s.cur.role) &&
      !(e.1 = clusterOf k && mergesInto s p n op g)))
  (s1, !elsewhere && quiet s s1)

/-- An uncorrectable error stands at the home of the access. -/
def homeError (s : State) (p : Place) : Bool := p.stamped && (lineBad s p || decide (2 ≤ popcount (errAt s p)))

/-- A returning form traps precisely on an error at its home (15 R311). -/
def homeOrTrap (s : State) (p : Place) (va : Word) (next : State → Did) : Did :=
  if homeError s p then .trap (eccUnit s p s.me (s.slot s.me).domain).1 15 va else next s

/-- An atomic goes through the routers (15 R318): its value, where it returns one, is bound when its group comes back. -/
def routedAtomic (p : Place) (n op : Nat) (d : BitVec 5) (va operand : Word) (s : State) : Did :=
  let (t, s1) := takeSeq s
  if d = 0 then .done (joinGroup s1 p n op operand va t false)
  else
    let (due, s2) := dueIn s1 (accessTime s p va + 16)
    .done (writeLate (joinGroup s2 p n op operand va t true) d { val := 0, due := due, ticket := t })

/-- An atomic of `n` bytes; d = 0 is the form without return (15 R311, R312). -/
def atomic (i : Instr) (n op : Nat) (d a b : BitVec 5) (ord : BitVec 3) (s : State) : State :=
  gate i true memRole false id
    (operands { srcs := [a, b], dst := some d }
      (fun v s =>
        let va := v.getD 0 0
        let operand := v.getD 1 0
        checkAddress s va n .atomic (fun s p =>
          let k := s.me
          let dom := (s.slot k).domain
          let merges := mergeable op ord.toNat && routed p
          match (if merges then performedMerging s p n op else performedFor s ord.toNat p) with
          | (s1, false) => .wait s1 10
          | (s1, true) =>
            undoWait s1 p (fun s =>
              if d = 0 then
                if merges then routedAtomic p n op d va operand s
                else .done (leave s ⟨16, p, va, n, op + 1, operand, stampOrdered k, 0⟩)
              else
                homeOrTrap s p va (fun s =>
                  if merges then routedAtomic p n op d va operand s
                  else
                    match performAtomic s p n op operand.toNat k dom with
                    | (s2, none) => .trap s2 15 va
                    | (s2, some x) =>
                      .done (writeInterlocked s2 d (accessTime s2 p va + 16) (BitVec.ofNat 64 x))))))) s

/-- AADD.w (15 R312, R313). -/
def execAaddW (st : BitVec 3) (d a b : BitVec 5) (ord : BitVec 3) (s : State) : Result :=
  .next (atomic (.aaddW st d a b ord) 4 0 d a b ord s)

/-- AAND.w (15 R312, R313). -/
def execAandW (st : BitVec 3) (d a b : BitVec 5) (ord : BitVec 3) (s : State) : Result :=
  .next (atomic (.aandW st d a b ord) 4 1 d a b ord s)

/-- AOR.w (15 R312, R313). -/
def execAorW (st : BitVec 3) (d a b : BitVec 5) (ord : BitVec 3) (s : State) : Result :=
  .next (atomic (.aorW st d a b ord) 4 2 d a b ord s)

/-- AXOR.w (15 R312, R313). -/
def execAxorW (st : BitVec 3) (d a b : BitVec 5) (ord : BitVec 3) (s : State) : Result :=
  .next (atomic (.axorW st d a b ord) 4 3 d a b ord s)

/-- AMIN.s.w (15 R312, R313). -/
def execAminSW (st : BitVec 3) (d a b : BitVec 5) (ord : BitVec 3) (s : State) : Result :=
  .next (atomic (.aminSW st d a b ord) 4 4 d a b ord s)

/-- AMAX.s.w (15 R312, R313). -/
def execAmaxSW (st : BitVec 3) (d a b : BitVec 5) (ord : BitVec 3) (s : State) : Result :=
  .next (atomic (.amaxSW st d a b ord) 4 5 d a b ord s)

/-- AMIN.u.w (15 R312, R313). -/
def execAminUW (st : BitVec 3) (d a b : BitVec 5) (ord : BitVec 3) (s : State) : Result :=
  .next (atomic (.aminUW st d a b ord) 4 6 d a b ord s)

/-- AMAX.u.w (15 R312, R313). -/
def execAmaxUW (st : BitVec 3) (d a b : BitVec 5) (ord : BitVec 3) (s : State) : Result :=
  .next (atomic (.amaxUW st d a b ord) 4 7 d a b ord s)

/-- AFADD.w (15 R312, R313). -/
def execAfaddW (st : BitVec 3) (d a b : BitVec 5) (ord : BitVec 3) (s : State) : Result :=
  .next (atomic (.afaddW st d a b ord) 4 8 d a b ord s)

/-- AEXCH.w (15 R312, R313). -/
def execAexchW (st : BitVec 3) (d a b : BitVec 5) (ord : BitVec 3) (s : State) : Result :=
  .next (atomic (.aexchW st d a b ord) 4 9 d a b ord s)

/-- AINCW.w (15 R312, R313). -/
def execAincwW (st : BitVec 3) (d a b : BitVec 5) (ord : BitVec 3) (s : State) : Result :=
  .next (atomic (.aincwW st d a b ord) 4 10 d a b ord s)

/-- ADECW.w (15 R312, R313). -/
def execAdecwW (st : BitVec 3) (d a b : BitVec 5) (ord : BitVec 3) (s : State) : Result :=
  .next (atomic (.adecwW st d a b ord) 4 11 d a b ord s)

/-- AADD.d (15 R312, R313). -/
def execAaddD (st : BitVec 3) (d a b : BitVec 5) (ord : BitVec 3) (s : State) : Result :=
  .next (atomic (.aaddD st d a b ord) 8 0 d a b ord s)

/-- AAND.d (15 R312, R313). -/
def execAandD (st : BitVec 3) (d a b : BitVec 5) (ord : BitVec 3) (s : State) : Result :=
  .next (atomic (.aandD st d a b ord) 8 1 d a b ord s)

/-- AOR.d (15 R312, R313). -/
def execAorD (st : BitVec 3) (d a b : BitVec 5) (ord : BitVec 3) (s : State) : Result :=
  .next (atomic (.aorD st d a b ord) 8 2 d a b ord s)

/-- AXOR.d (15 R312, R313). -/
def execAxorD (st : BitVec 3) (d a b : BitVec 5) (ord : BitVec 3) (s : State) : Result :=
  .next (atomic (.axorD st d a b ord) 8 3 d a b ord s)

/-- AMIN.s.d (15 R312, R313). -/
def execAminSD (st : BitVec 3) (d a b : BitVec 5) (ord : BitVec 3) (s : State) : Result :=
  .next (atomic (.aminSD st d a b ord) 8 4 d a b ord s)

/-- AMAX.s.d (15 R312, R313). -/
def execAmaxSD (st : BitVec 3) (d a b : BitVec 5) (ord : BitVec 3) (s : State) : Result :=
  .next (atomic (.amaxSD st d a b ord) 8 5 d a b ord s)

/-- AMIN.u.d (15 R312, R313). -/
def execAminUD (st : BitVec 3) (d a b : BitVec 5) (ord : BitVec 3) (s : State) : Result :=
  .next (atomic (.aminUD st d a b ord) 8 6 d a b ord s)

/-- AMAX.u.d (15 R312, R313). -/
def execAmaxUD (st : BitVec 3) (d a b : BitVec 5) (ord : BitVec 3) (s : State) : Result :=
  .next (atomic (.amaxUD st d a b ord) 8 7 d a b ord s)

/-- AEXCH.d (15 R312, R313). -/
def execAexchD (st : BitVec 3) (d a b : BitVec 5) (ord : BitVec 3) (s : State) : Result :=
  .next (atomic (.aexchD st d a b ord) 8 9 d a b ord s)

/-- AINCW.d (15 R312, R313). -/
def execAincwD (st : BitVec 3) (d a b : BitVec 5) (ord : BitVec 3) (s : State) : Result :=
  .next (atomic (.aincwD st d a b ord) 8 10 d a b ord s)

/-- ADECW.d (15 R312, R313). -/
def execAdecwD (st : BitVec 3) (d a b : BitVec 5) (ord : BitVec 3) (s : State) : Result :=
  .next (atomic (.adecwD st d a b ord) 8 11 d a b ord s)

/-- The orders and the width of ACAS and AADDB (03 R57). -/
def succOrder (x : ExOps) : Nat := (x.aux.extractLsb' 13 3).toNat
def failOrder (x : ExOps) : Nat := (x.aux.extractLsb' 10 3).toNat
def casWidth (x : ExOps) : Nat := if x.aux.getLsbD 9 then 8 else 4

/-- ACAS and AADDB: `f old b c` answers the new value, or `none` where memory stays (15 R315, R316). The old value always
returns; `refused` also writes f7. -/
def casLike (i : Instr) (x : ExOps) (f : Nat → Nat → Nat → Option Nat) (refused : Bool) (s : State) : State :=
  let n := casWidth x
  let cut (w : Word) : Nat := w.toNat % 2 ^ (8 * n)
  gate i true memRole false id
    (operands { srcs := [x.a, x.b, x.c], dst := some x.d, dstFlag := if refused then some 7 else none }
      (fun v s =>
        let va := v.getD 0 0
        let k := s.me
        let dom := (s.slot k).domain
        checkAddress s va n .atomic (fun s p =>
          match performedFor s (Nat.max (if succOrder x = 1 then 0 else succOrder x) (if failOrder x = 4 then 4 else 0)) p with
          | (s1, false) => .wait s1 10
          | (s1, true) =>
            let new (old : Nat) : Option Nat := f old (cut (v.getD 1 0)) (cut (v.getD 2 0))
            -- one that leaves memory as it is does not stall (20 R432)
            if undoStalls s1 p && (performRead s1 p n k dom).2.any (fun old => (new old).isSome) then
              .wait (noteStall s1 k p) 10
            else
              match performRmw s1 p n k dom new with
              | (s2, none) => .trap s2 15 va
              | (s2, some old) =>
                let (due, s3) := dueIn s2 (accessTime s2 p va + 16)
                let s4 := writeLate s3 x.d { val := BitVec.ofNat 64 old, due := due }
                if refused then
                  let late : Late := { val := bool64 (new old).isNone, due := due }
                  .done (s4.modMe (fun c => { c with vpend := c.vpend ++ [⟨.flag 7, late⟩] }))
                else .done s4))) s

/-- ACAS (15 R315). -/
def execAcas (st : BitVec 3) (x : ExOps) (s : State) : Result :=
  .next (casLike (.acas st x) x (fun old b c => if old = b then some c else none) false s)

/-- AADDB (15 R315): refused where the exact sum exceeds the bound. -/
def execAaddb (st : BitVec 3) (x : ExOps) (s : State) : Result :=
  .next (casLike (.aaddb st x) x (fun old b c => if old + b ≤ c then some (old + b) else none) true s)

/-! ### Waiting on an address (15 R319 to R322) -/

/-- A suspending instruction issues: it completes later, in the step SUSPENSION_COMPLETE; the role's address stays on it,
so that a trap taken first issues it again (11 R221, R222). -/
def suspendHere (s : State) (kind : SuspKind) (ptr : BitVec 32) : Did :=
  .goto (s.modSlot s.me (fun x => { x with susp := some { role := s.cur.role, kind := kind, ptr := ptr, woken := false } })) s.myRole.pc

/-- A suspending instruction that issues while another suspension is pending is treated as not issued (11 R221). -/
def suspensionFree (s : State) : Bool := (s.slot s.me).susp.isNone

/-- The record of the issuing strand, in the slot's domain (11 R214). -/
def myRef (s : State) : RecRef :=
  match (s.slot s.me).strand with
  | some t => { t.ref with dom := (s.slot s.me).domain }
  | none => ⟨0, 0, 0, false⟩

/-- Arm a monitor for the issuing strand, where the table has room and the line is this package's own (15 R321). -/
def armMonitor (s : State) (p : Place) : State :=
  if p.stamped && decide ((s.cluster (clusterOf s.me)).monitors.length < 64) then
    s.modCluster (clusterOf s.me) (fun c => { c with monitors := c.monitors ++ [(myRef s, p.line)] })
  else s

/-- WAITA: an acquire load; where the value equals B, the strand waits on the line. -/
def waitAddress (i : Instr) (n : Nat) (d a b : BitVec 5) (s : State) : State :=
  gate i true memRole false id
    (operands { srcs := [a, b], dst := some d }
      (fun v s =>
        if (s.slot s.me).timed then trapFree s 1
        else if !suspensionFree s then .wait s 9
        else
          let va := v.getD 0 0
          checkAddress s va n .read (fun s p =>
            match performedUnit s p with
            | (s1, false) => .wait s1 10
            | (s1, true) =>
              readOrTrap s1 va p n (fun s x =>
                if x = (v.getD 1 0).toNat % 2 ^ (8 * n) then
                  suspendHere (armMonitor s p) (.monitor va p) s.myRole.pc
                else .done (writeInterlocked s d (accessTime s p va) (BitVec.ofNat 64 x)))))) s

/-- WAITA.w (15 R320). -/
def execWaitaW (st : BitVec 3) (d a b : BitVec 5) (s : State) : Result := .next (waitAddress (.waitaW st d a b) 4 d a b s)

/-- WAITA.d (15 R320). -/
def execWaitaD (st : BitVec 3) (d a b : BitVec 5) (s : State) : Result := .next (waitAddress (.waitaD st d a b) 8 d a b s)

/-! ### Steps: accesses performed, groups that leave, results that land -/

/-- The value of a router ticket returns to whom it waits for (14 R304). -/
def deliver (s : State) (slot ticket : Nat) (v : Word) : State :=
  s.modSlot slot (fun x => x.modRoles (fun c =>
    { c with vpend := c.vpend.map (fun p =>
        if p.late.ticket = ticket then { p with late := { p.late with val := v, ticket := 0 } } else p) }))

/-- The members by the order of 14 R304: input number, then arrival. -/
def memberOrder (ms : List Request) : List Request := (List.range 8).flatMap (fun i => ms.filter (fun m => m.input = i))

/-- A precise trap of an instruction that a role has gone past: the role stands at its address again (DESIGN CHOICE, log entry 8: what it
has issued since stands). Where a trap is under way or the role has exited, it waits as a pending one. -/
def trapBack (s : State) (q : TrapReq) (slot : Nat) (pc : BitVec 32) : State :=
  let s1 := s.modRole slot q.role (fun c => if c.held then { c with epc := BitVec.setWidth 64 pc } else { c with pc := pc })
  if (s.role slot q.role).runs && (s.slot slot).trap.isNone && (s.slot slot).handlers.isEmpty then raiseTrap s1 slot q
  else addPending s1 slot q

/-- A member's role is told of the error that the group has found at its home, where memory is unchanged: a form without return at its
next boundary, a returning one precisely (15 R311). -/
def refuseMember (s : State) (m : Request) : State :=
  if m.returns then
    let s1 := s.modSlot m.slot (fun x => x.modRoles (fun c =>
      { c with vpend := c.vpend.filter (fun p => p.late.ticket != m.ticket) }))
    trapBack s1 ⟨m.role, 15, m.va, false, m.role⟩ m.slot m.pc
  else addPending s m.slot ⟨m.role, 15, m.va, true, m.role⟩

/-- The group is performed at its home as one request; each member gets the value before it (14 R304). -/
def departGroup (s : State) (g : Merge) : State :=
  let ms := memberOrder g.members
  match ms.getLast? with
  | none => s
  | some last =>
    let dom := (s.slot last.slot).domain
    match performRead s g.place g.w last.slot dom with
    | (s1, none) => ms.foldl refuseMember s1
    | (s1, some x) =>
      let r := ms.foldl (fun (acc : State × Nat) m =>
        let s2 := if m.returns then deliver acc.1 m.slot m.ticket (BitVec.ofNat 64 acc.2) else acc.1
        (s2, atomicNew g.op (8 * g.w) acc.2 (m.operand.toNat % 2 ^ (8 * g.w)))) (s1, x)
      performWrite r.1 g.place g.w r.2 (stampOrdered last.slot) last.slot dom

/-- Where a group goes from the router of a cluster: the home, or a later router, at one of its inputs 4 to 7 (14 R304). The spec
does not give the wiring: the timing choice n > 0 leads into the router of cluster (n − 1) / 4, at input 4 + (n − 1) % 4 (DESIGN
CHOICE, log entry 8). -/
def nextRouter (cluster n : Nat) : Option (Nat × Nat) :=
  let c := (n - 1) / 4 % 16
  if n = 0 || c = cluster then none else some (c, 4 + (n - 1) % 4)

/-- A group leaves the router of a cluster (14 R304). -/
def leaveRouter (cluster : Nat) (s : State) (g : Merge) : State :=
  let s1 := s.modCluster cluster (fun c => { c with groups := c.groups.erase g })
  let (n, s2) := if g.members.any (fun m => (s.slot m.slot).timed) then (0, s1) else takeDelay s1
  match nextRouter cluster n with
  | none => departGroup s2 g
  | some (c, i) => enterRouter s2 c g.place g.w g.op ((memberOrder g.members).map (fun m => { m with input := i }))

/-- ROUTER_MERGE_DEPART of the context's cluster: the groups leave that opened eight cycles before (14 R304). -/
def execRouterMergeDepart (s : State) : Result :=
  let cl := clusterOf s.me
  .next (((s.cluster cl).groups.filter (fun g => decide (g.opened + 8 ≤ s.cycle))).foldl (leaveRouter cl) s)

/-- ACCESS_PERFORMED of the context's role: the accesses whose time has come are performed (14 R289, R302). -/
def execAccessPerformed (s : State) : Result :=
  .next (drain s s.me s.cur.role (fun o => decide (o.due ≤ s.cycle)))

/-- VARIABLE_RESULT_LAND of the context's slot (02 R32, 04 R90). -/
def execVariableResultLand (s : State) : Result := .next (landSlot s s.me)

end Sys2Proof.Machine
end

