-- ==== Sys2Proof/Machine/Strands.lean ====
section
/-! DEFINITION. The strand and event instructions (11 R231 to R239), the return of a preempted strand to its queue
(20 R414), and the cluster scheduler's steps (11 R217 to R230). -/

namespace Sys2Proof.Machine

/-- The role issues nothing further until `due` (11 R231). -/
def blockRole (s : State) (due : Nat) : State := s.modMe (fun c => { c with blockUntil := due })

/-- A blocking instruction's result: the role goes on when it has arrived. -/
def writeBlocking (s : State) (d : BitVec 5) (lat : Nat) (v : Word) : State :=
  let (due, s1) := dueIn s lat
  blockRole (writeLate s1 d { val := v, due := due }) due

/-- The scalar registers a record takes from its issuer. -/
def keptRegs : List (BitVec 5) := [1, 2, 3, 4, 5]

/-- The record at an address: ALIGN, XLATE, ECC, in that order (11 R232, R233). -/
def recordAt (s : State) (a : Word) (next : State → RecRef → Did) : Did :=
  let k := s.me
  if a.toNat % 64 ≠ 0 then .trap s 3 a
  else
    match translateRecord s (coreOf k) (s.slot k).domain a.toNat s.myRole.sup k with
    | (s1, .error r) => .trap (logXlate s1 k r a) 4 a
    | (s1, .ok ref) =>
      match readUnits s1 (.deep ref.pa) 64 k (s1.slot k).domain with
      | (s2, none) => .trap s2 15 a
      | (s2, some _) => next s2 ref

/-- A release at package scope over every stream of the role (11 R234). -/
def release (s : State) (next : State → Did) : Did :=
  match performedAll s with
  | (s1, true) => next s1
  | (s1, false) => .wait s1 10

/-- An event change of the role that has not yet taken effect goes first (11 R234). -/
def eventsFirst (s : State) (next : State → Did) : Did :=
  if s.cycle < s.myRole.evAt then .wait s 2 else next s

/-- The status codes of SPAWN and SPAWNJ. -/
def stCancelled : Nat := 3
def stBusy : Nat := 4
def stFull : Nat := 5

/-- The scope counts a strand from its acceptance; a dormant strand that suspended is still counted (12 R260). -/
def countAccepted (s : State) (pa : Nat) : State :=
  if s.dormant.any (fun e => e.1.pa = pa) then { s with dormant := s.dormant.filter (fun e => e.1.pa != pa) }
  else scopeInc s (recScope s pa)

/-- A dormant strand that suspended is counted no more once its record waits for joins (12 R260). -/
def uncountDormant (s : State) (pa : Nat) : State :=
  if s.dormant.any (fun e => e.1.pa = pa) then
    scopeDec { s with dormant := s.dormant.filter (fun e => e.1.pa != pa) } (recScope s pa)
  else s

/-- Step 7 of 11 R232: the record takes its registers and is placed; the status. -/
def acceptRecord (s : State) (ref : RecRef) (join dormant : Bool) (b : Word) (regs : List Word) : State × Nat :=
  let pa := ref.pa
  let cl := clusterOf s.me
  let setRegs (acc : State) (from' : Nat) : State :=
    ((List.range 5).filter (fun i => from' ≤ i)).foldl
      (fun a i => recPut a pa (24 + 8 * i) 8 (regs.getD i 0).toNat) acc
  if join then
    let s1 := recPut (setRegs s 0) pa 16 2 (b.toNat % 65536)
    let s2 := recPut s1 pa 15 1 (recState s1 pa)
    if b.toNat % 65536 ≠ 0 then (recPut s2 pa 15 1 stWaitJoin, 2)
    else admitRec (scopeInc s2 (recScope s2 pa)) cl ref true
  else if dormant then
    let s1 := recPut s pa 24 8 b.toNat
    if recJoinc s1 pa != 0 then (recSetState (uncountDormant s1 pa) pa stWaitJoin, 2)
    else admitRec (countAccepted s1 pa) cl ref false
  else
    let s1 := recPut (setRegs s 1) pa 24 8 b.toNat
    let s2 := recPut s1 pa 16 2 0
    let s3 := recPut s2 pa 15 1 (recState s2 pa)
    admitRec (scopeInc s3 (recScope s3 pa)) cl ref true

/-- Placement of a new record would need the spill queue, which is full (11 R218, R232). -/
def noRoom (s : State) (ref : RecRef) (join : Bool) (b : Word) : Bool :=
  (!join || b.toNat % 65536 = 0) && recEventHolds s (clusterOf s.me) ref.pa && needsSpill s (clusterOf s.me) &&
    spillFull s (clusterOf s.me)

/-- SPAWN and SPAWNJ. -/
def spawnBody (i : Instr) (join : Bool) (d a b : BitVec 5) (s : State) : State :=
  gate i true (dstOk d) false id
    (operands { srcs := a :: b :: keptRegs, dst := some d }
      (fun v s =>
        let addr := v.getD 0 0
        let sb := v.getD 1 0
        eventsFirst s (fun s => release s (fun s =>
          recordAt s addr (fun s ref =>
            if join && 65535 < sb.toNat then .trap s 1 sb
            else
              let st := recState s ref.pa
              let answer (s : State) (code : Nat) : Did := .done (writeBlocking s d 64 (BitVec.ofNat 64 code))
              if (join && st != stReady) || (st != stReady && st != stDormant) then answer s stBusy
              else if !s.myRole.sup && decide (recPrio s ref.pa < 8) then trapFree s 2
              else if scopeDead s (recScope s ref.pa) then answer s stCancelled
              else if st = stReady && noRoom s ref join sb then answer s stFull
              else
                let r := acceptRecord s ref join (st = stDormant) sb (v.drop 2)
                answer r.1 r.2))))) s

/-- SPAWN (11 R232). -/
def execSpawn (st : BitVec 3) (d a b : BitVec 5) (s : State) : Result := .next (spawnBody (.spawn st d a b) false d a b s)

/-- SPAWNJ (11 R232). -/
def execSpawnj (st : BitVec 3) (d a b : BitVec 5) (s : State) : Result := .next (spawnBody (.spawnj st d a b) true d a b s)

/-- JOIN (11 R233, 12 R260). -/
def execJoin (st : BitVec 3) (a : BitVec 5) (s : State) : Result :=
  .next (gate (.join st a) true anyRole false id
    (operands { srcs := [a] }
      (fun v s =>
        let addr := v.getD 0 0
        eventsFirst s (fun s => release s (fun s =>
          recordAt s addr (fun s ref =>
            let pa := ref.pa
            let finish (s : State) : Did :=
              let (due, s1) := dueIn s 64
              .done (blockRole s1 due)
            if recState s pa != stWaitJoin || recJoinc s pa = 0 then
              .trap (logSlot s s.me 6 0 0 addr) 11 addr
            else if scopeDead s (recScope s pa) then finish (launchExit (recSetState s pa stFree) pa true)
            else
              let n := recJoinc s pa - 1
              let s1 := recPut s pa 16 2 n
              if n ≠ 0 then finish s1
              else finish (admitRec (scopeInc s1 (recScope s1 pa)) (clusterOf s1.me) ref false).1))))) s)

/-! ### Leaving and waiting (11 R235 to R237) -/

/-- The CRC-32C of the words a block has issued, in its order within each tick (12 R252). -/
def blockCrc (b : Block) : BitVec 32 :=
  let sorted := b.words.foldl
    (fun (l : List (Nat × Nat × InstrWord)) w =>
      l.takeWhile (fun x => x.1 < w.1 || (x.1 = w.1 && x.2.1 ≤ w.2.1)) ++ w ::
        l.dropWhile (fun x => x.1 < w.1 || (x.1 = w.1 && x.2.1 ≤ w.2.1))) []
  crc32c (sorted.flatMap (fun w => wordBytes w.2.2))

/-- EXIT or HALT of a timed role before its BEND (12 R255): the value of the BCHK. -/
def unfinishedBlock (s : State) : Option Word :=
  match (s.slot s.me).block with
  | some b => if b.checked || s.myRole.bend then none else some (blockCrc b ++ (0xFFFFFFFF#32))
  | none => none

/-- A BCHK trap with its log record (20 R424). -/
def bchk (s : State) (v : Word) : Did :=
  .trap (logSlot s s.me 11 0 0 (BitVec.setWidth 64 s.frameCtr)) 13 v

/-- Every present role has issued EXIT. -/
def allExited (s : State) (slot : Nat) : Bool := allRoles.all (fun r => !(s.role slot r).runs)

/-- The queues a role pushes into (02 R23). -/
def ownQueues (r : Role) : List Nat :=
  match r with
  | .loader => [0, 1, 2, 3]
  | .computer => [4, 5]
  | .storer => []

/-- A result of the role is still on its way to a data queue. -/
def queueResultDue (s : State) : Bool :=
  (ownQueues s.cur.role).any (fun q => (s.queue s.me q).any (fun e => !e.arrived (s.clock s.me)))

/-- EXIT (11 R235): after the role's outstanding results and accesses. -/
def execExit (st : BitVec 3) (s : State) : Result :=
  .next (gate (.exit st) true anyRole false id
    (fun s =>
      match unfinishedBlock s with
      | some v => bchk s v
      | none =>
        if !s.myRole.vpend.isEmpty || queueResultDue s then .wait s 2
        else
          eventsFirst s (fun s => release s (fun s =>
            let s1 := s.modMe (fun c => { c with exited := true })
            .done (if allExited s1 s1.me then strandExit s1 s1.me else s1)))) s)

/-- YIELD issued by the computer in the PREEMPT handler (20 R414): the record becomes a preempted resume of this core. -/
def preemptYield (s : State) : State :=
  let k := s.me
  match (s.slot k).strand with
  | none => s
  | some t =>
    let pa := t.ref.pa
    let ptr (r : Role) : Nat := if (s.role k r).runs then (s.role k r).epc.toNat % 2 ^ 32 else 0
    let s1 := recPut s pa 0 4 (ptr .loader)
    let s2 := recPut s1 pa 4 4 (ptr .computer)
    let s3 := noteExited (recPut s2 pa 8 4 (ptr .storer)) pa (ptr .computer = 0)
    let s4 := recPut s3 pa 15 1 ((flagStarted + flagPreempted) * 16 + recState s3 pa)
    let s5 := vacate ((s4.modSlot k (fun x => { x with journal := [], lift := [], saveArea := none }))) k
    let s6 := { s5 with preemptedOn := s5.preemptedOn.set pa (coreOf k) }
    placeResume s6 (clusterOf k) (readyOf s6 { t.ref with dom := (s.slot k).domain } false)

/-- A suspending instruction without a condition. -/
def suspendPlain (i : Instr) (kind : SuspKind) (s : State) : Did :=
  if (s.slot s.me).timed then trapFree s 1
  else if !suspensionFree s then .wait s 9
  else suspendHere s kind (linkOf s.myRole i)

/-- YIELD (11 R236, 20 R414). -/
def execYield (st : BitVec 3) (s : State) : Result :=
  .next (gate (.yield st) true anyRole false id
    (fun s =>
      if s.cur.role = .computer && (s.slot s.me).handlers.head? = some (.computer, 14) then
        if !(s.slot s.me).stored then trapFree s 1
        else if routerHas s (fun _ m => m.slot = s.me) then .wait s 10
        else .done (preemptYield (drainSlot s s.me))
      else suspendPlain (.yield st) .yield s) s)

/-- SUSP (11 R236). -/
def execSusp (st : BitVec 3) (s : State) : Result :=
  .next (gate (.susp st) true anyRole false id (suspendPlain (.susp st) .dormant) s)

/-- SELF (11 R239): the record's address; for a timed strand, its entry's record. -/
def execSelf (st : BitVec 3) (d : BitVec 5) (s : State) : Result :=
  .next (alu0 (.self st d) d (fun s => (myRef s).va) s)

/-- PRIO (11 R239): the new priority counts from the next cycle. -/
def execPrio (st : BitVec 3) (d a : BitVec 5) (s : State) : Result :=
  .next (gate (.prio st d a) true (dstOk d) false id
    (operands { srcs := [a], dst := some d }
      (fun v s =>
        let n := v.getD 0 0
        if (s.slot s.me).timed then trapFree s 1
        else if 63 < n.toNat then .trap s 1 n
        else if !s.myRole.sup && decide (n.toNat < 8) then .trap s 2 n
        else
          match (s.slot s.me).strand with
          | none => .done s
          | some t =>
            let s1 := s.modSlot s.me (fun x =>
              { x with strand := some { t with prio := n.toNat, prioOld := t.prio, prioAt := some s.cycle } })
            .done (writeReg s1 d 1 (BitVec.ofNat 64 t.prio)))) s)

/-! ### Events (11 R224, R237, R238) -/

/-- The owner domain of an event group of a cluster (22 R440, EVOWN). -/
def groupOwner (s : State) (cluster g : Nat) : Nat := bitsOf (s.mreg (0x600 + 8 * cluster)) (4 * g) 4

/-- The limits on a group operand and its owner: ILL, then PRIV (11 R224, R237). -/
def checkGroup (s : State) (a : Word) (next : State → Nat → Did) : Did :=
  if bitsOf a 4 60 ≠ 0 then .trap s 1 a
  else if groupOwner s (clusterOf s.me) (bitsOf a 0 4) ≠ (s.slot s.me).domain then .trap s 2 a
  else next s (bitsOf a 0 4)

/-- The limits on a group and a mask operand. -/
def checkMask (s : State) (a b : Word) (next : State → Nat → BitVec 16 → Did) : Did :=
  if bitsOf a 4 60 ≠ 0 then .trap s 1 a
  else if bitsOf b 16 48 ≠ 0 then .trap s 1 b
  else checkGroup s a (fun s g => next s g (b.extractLsb' 0 16))

/-- EVSET and EVCLR: the bits change 2 cycles after issue; EVSET is a release at cluster scope. -/
def eventChange (i : Instr) (set : Bool) (a b : BitVec 5) (s : State) : State :=
  gate i true anyRole false id
    (operands { srcs := [a, b] }
      (fun v s =>
        checkMask s (v.getD 0 0) (v.getD 1 0) (fun s g m =>
          let change (s : State) : Did :=
            let at' := s.cycle + 2
            .done ((changeEvents s (clusterOf s.me) at' set g m).modMe (fun c => { c with evAt := at' }))
          if set then release s change else change s))) s

/-- EVSET (11 R238). -/
def execEvset (st : BitVec 3) (a b : BitVec 5) (s : State) : Result := .next (eventChange (.evset st a b) true a b s)

/-- EVCLR (11 R238). -/
def execEvclr (st : BitVec 3) (a b : BitVec 5) (s : State) : Result := .next (eventChange (.evclr st a b) false a b s)

/-- EVWAIT (11 R237): completes where the condition holds at issue, even where another role's suspension is pending (DESIGN CHOICE,
log entry 78), else suspends. -/
def execEvwait (st : BitVec 3) (a b : BitVec 5) (s : State) : Result :=
  .next (gate (.evwait st a b) true anyRole false id
    (operands { srcs := [a, b] }
      (fun v s =>
        if (s.slot s.me).timed then trapFree s 1
        else
          checkMask s (v.getD 0 0) (v.getD 1 0) (fun s g m =>
            if eventHolds (eventGroup s (clusterOf s.me) g) m then .done s
            else if !suspensionFree s then .wait s 9
            else suspendHere s (.event m g) (linkOf s.myRole (.evwait st a b))))) s)

/-- EVTEST (11 R238): the group as it stands 2 cycles after issue. -/
def execEvtest (st : BitVec 3) (d a : BitVec 5) (s : State) : Result :=
  .next (gate (.evtest st d a) true (dstOk d) false id
    (operands { srcs := [a], dst := some d }
      (fun v s =>
        checkGroup s (v.getD 0 0) (fun s g =>
          let (due, s1) := dueIn s 4
          .done (writeLate s1 d { val := 0, due := due, events := some (g, s1.cycle + 2) })))) s)

/-! ### Scheduler steps -/

/-- SUSPENSION_COMPLETE of the context's slot (11 R221): from the first cycle in which the queues are empty, no role issues; it
completes once the others stand at a boundary and what was issued has landed and is performed (DEDUCED, log entry 80). -/
def execSuspensionComplete (s : State) : Result :=
  let k := s.me
  match (s.slot k).strand, (s.slot k).susp with
  | some t, some u =>
    if (s.slot k).trap.isNone && !(s.slot k).kill && (u.stop || queuesEmpty s k) then
      if suspendReady s k then .next (completeSuspension s k t u)
      else .next (s.modSlot k (fun x => { x with susp := some { u with stop := true } }))
    else .next s
  | _, _ => .next s

/-- The slot may take a record: free, its last strand's commands completed, not reserved, its core in service
(11 R219, R227, 22 R442). -/
def slotFree (s : State) (slot : Nat) : Bool :=
  let x := s.slot slot
  x.strand.isNone && !x.halted && !x.halting && !commandsLeft s slot && !copiesLeft s slot &&
    (s.reservedBy slot).isNone && !(s.core (coreOf slot)).withdraw

/-- The roles of a strand at pick-up (11 R219). -/
def freshRole (c : RoleCtx) (ptr : BitVec 32) (regs : Sp Word) (sup : Bool) (issue : Nat) : RoleCtx :=
  { c with present := ptr != 0, exited := false, pc := ptr, regs := regs, flags := 0, nul := 0, nextIssue := issue,
           pend := [], vpend := [], outst := [], fpctl := 0, sup := sup, held := false, bend := false, barWait := none,
           link := 0, reason := 0, images := [], blockUntil := 0, evAt := 0 }

/-- The slot's shared state at pick-up (11 R219, R220): everything stale, tags RAW; the key's part number, which 11 R219 does not name, is
0 (DESIGN CHOICE, log entry 88). -/
def freshSlot (x : Slot) (dom : Nat) : Slot :=
  { x with
    queues := [], qraw := [], tokens := [], tokPend := [], rowTag := [], rowStale := (List.range 160).map (fun i => (i, 0xFFFF#16)), masks := [],
    preds := [], tileTag := [], tileStale := (List.range 4).map (fun i => (i, BitVec.allOnes 256)), keyTag := 0,
    keyPart := 0, keyStale := true, opRegs := [], dphaser := 0, domain := dom, journal := [], lift := [],
    saveArea := none, susp := none, block := none, holds := 0, trap := none, handlers := [], stored := false,
    draining := false, victimOf := none, kill := false, progress := 0, pending := [], reissued := 0, unfailed := [] }

/-- A nonzero pointer names word 0. -/
def badPtr (p : Nat) : Bool := p != 0 && decide (p < 2 ^ 28)

/-- The registers of a record: s1 to s5. -/
def recRegs (s : State) (pa : Nat) : Sp Word :=
  [1, 2, 3, 4, 5].foldl (fun m k => Sp.put m k (recReg s pa k) 0) []

/-- Place a record in a slot: its first instruction issues 16 cycles later (11 R219); a preempted record takes RESUME
(20 R415), a bad one ILL (02 R35), one that cannot be read ECC (20 R427; DEDUCED, log entry 15). A CPTR of 0 that a
suspension has left for a computer that had exited (11 R221) is none of these. `stv` is the STATE of the record or template. -/
def placeStrand (s : State) (slot : Nat) (ref : RecRef) (timed : Bool) (stv issue : Nat) : State :=
  let pa := ref.pa
  let (s, unreadable) := recCheck (logPending s slot) pa slot ref.dom
  let lp := recGet s pa 0 4
  let cp := recGet s pa 4 4
  let sp := recGet s pa 8 4
  let pre := !timed && (recFlags s pa / flagPreempted % 2 = 1)
  let regs := if pre then [] else recRegs s pa
  let t : Strand :=
    { ref := ref, prio := recPrio s pa, scope := recScope s pa, started := recFlags s pa % 2 = 1,
      timed := timed || recFlags s pa / flagTimed % 2 = 1, preempted := pre, smask := BitVec.ofNat 16 (recSmask s pa),
      groups := BitVec.ofNat 8 (recGroups s pa) }
  let role (c : RoleCtx) (p : Nat) : RoleCtx := freshRole c (BitVec.ofNat 32 p) regs ref.sup issue
  let s1 := (noteExited s pa false).modSlot slot (fun x =>
    let y := freshSlot x ref.dom
    { y with strand := some t, lo := role x.lo lp, co := role x.co cp, st := role x.st sp })
  if unreadable || 8 ≤ stv || (cp = 0 && !s.exitedOn.contains pa) || badPtr lp || badPtr cp || badPtr sp then
    let s2 := s1.modRole slot .computer (fun c => { c with present := true })
    raiseTrap s2 slot ⟨.computer, if unreadable then 15 else 1, ref.va, false, .computer⟩
  else if pre then raiseTrap s1 slot ⟨.computer, 18, ref.va, true, .computer⟩
  else s1

/-- The record a free slot takes: the first by 11 R226; a preempted record only on the core it left (20 R411). -/
def nextFor (s : State) (slot : Nat) : Option Ready :=
  firstReady (s.cluster (clusterOf slot)).ready (fun e => e.core.all (fun c => c = coreOf slot))

/-- STRAND_PICKUP of the context's slot (11 R219, R226), with the refill from the resume list (R217). -/
def execStrandPickup (s : State) : Result :=
  let k := s.me
  if !slotFree s k then .next s
  else
    match nextFor s k with
    | none => .next s
    | some e =>
      let cl := clusterOf k
      let s1 := refillResume (s.modCluster cl (fun c => { c with ready := c.ready.erase e })) cl
      .next (placeStrand s1 k e.ref false (recState s1 e.ref.pa) (s1.cycle + 16))

/-- EVENT_OVERFLOW_SCAN of the context's cluster, every 256 cycles (11 R225). -/
def execEventOverflowScan (s : State) : Result :=
  if s.cycle % 256 = 0 then .next (scanOverflow s (clusterOf s.me)) else .next s

/-- The oldest record of the highest priority of the spill queue. -/
def spillNext (l : List Ready) : Option Ready :=
  l.foldl
    (fun best e =>
      match best with
      | none => some e
      | some b => if e.prio < b.prio then some e else some b)
    none

/-- SPILL_REFILL of the context's cluster (11 R217): O below 960, the resume list empty, at most one in 4 cycles. -/
def execSpillRefill (s : State) : Result :=
  let cl := clusterOf s.me
  let c := s.cluster cl
  if c.ready.length < 960 && c.resume.isEmpty && decide (c.refillAt ≤ s.cycle) then
    match spillNext c.spill with
    | none => .next s
    | some e =>
      .next (s.modCluster cl (fun x =>
        { x with spill := x.spill.erase e, ready := x.ready ++ [{ e with since := s.cycle }], refillAt := s.cycle + 4 }))
  else .next s

/-- A message whose record has found its place settles (17 R370). -/
def settleMsg (s : State) (msg : Option (Nat × Nat)) : State :=
  match msg with
  | none => s
  | some (k, id) =>
    s.modSlot k (fun x =>
      { x with journal := x.journal.map (fun e => if e.id = id && !e.discarded then { e with finished := true } else e) })

/-- A kept entry is offered again. -/
def retryKept (cl : Nat) (s : State) (e : Kept) : State :=
  let s1 := s.modCluster cl (fun c => { c with kept := c.kept.erase e })
  let r := offerNew s1 cl { e.entry with since := s.cycle } e.msg
  if r.2 then settleMsg r.1 e.msg else r.1

/-- PLACEMENT_RETRY of the context's cluster (11 R218): kept new entries are offered again every 256 cycles. -/
def execPlacementRetry (s : State) : Result :=
  let cl := clusterOf s.me
  .next (((s.cluster cl).kept.filter (fun e => decide (e.again ≤ s.cycle))).foldl (retryKept cl) s)

/-- A slot whose dynamic strand may be preempted: no preemption under way, none still to be restored from its image (DESIGN CHOICE,
log entry 79), a record to return to. -/
def preemptable (x : Slot) : Bool :=
  x.victimOf.isNone && x.saveArea.isNone && !x.halted &&
    x.strand.any (fun t => !t.timed && !t.boot && !t.preempted)

/-- A slot takes PREEMPT: a save area is reserved and the request waits for a boundary (11 R229, 20 R411). -/
def requestPreempt (s : State) (slot : Nat) (v : Word) : State :=
  let cl := clusterOf slot
  match (s.cluster cl).saves with
  | [] => s
  | a :: rest =>
    let s1 := s.modCluster cl (fun c => { c with saves := rest })
    let s2 := s1.modSlot slot (fun x => { x with saveArea := some a, victimOf := some v })
    addPending s2 slot ⟨.computer, 14, v, true, .computer⟩

/-- The victim of a waiting record of priority `p` among a cluster's slots: the numerically highest priority above `p`,
the lowest-numbered slot among equals. -/
def victimFor (s : State) (cl p : Nat) : Option Nat :=
  ((List.range 16).map (fun j => 16 * cl + j)).foldl
    (fun best k =>
      let x := s.slot k
      let pr := (x.strand.map (·.prio)).getD 0
      if preemptable x && (s.reservedBy k).isNone && decide (p < pr) then
        match best with
        | none => some k
        | some b => if ((s.slot b).strand.map (·.prio)).getD 0 < pr then some k else some b
      else best)
    none

/-- PREEMPT_TRIGGER of the context's cluster: a record has waited 4,096 cycles (11 R229), or frame mode reserves a slot
that a dynamic strand still holds (11 R228). At most one preemption a cycle (DESIGN CHOICE, log entry 79). -/
def execPreemptTrigger (s : State) : Result :=
  let cl := clusterOf s.me
  let c := s.cluster cl
  if c.saves.isEmpty then .next s
  else
    match ((List.range 16).map (fun j => 16 * cl + j)).find?
        (fun k => (s.reservedBy k).isSome && preemptable (s.slot k)) with
    | some k =>
      let (v, s1) := takeFree s 64
      .next (requestPreempt s1 k v)
    | none =>
      match c.ready.find? (fun e => !e.busy && decide (4096 ≤ s.cycle - e.since) && (victimFor s cl e.prio).isSome) with
      | none => .next s
      | some e =>
        match victimFor s cl e.prio with
        | none => .next s
        | some k =>
          let s1 := s.modCluster cl (fun x =>
            { x with ready := x.ready.map (fun y => if y = e then { y with busy := true } else y) })
          .next (requestPreempt s1 k e.ref.va)

/-! ### The drain of a preemption (20 R412) -/

/-- The wait field of a command's second word: the token it waits on (03 R58). -/
def waitToken (w1 : InstrWord) : Option Nat := if w1.getLsbD 9 then some (w1.extractLsb' 5 4).toNat else none

/-- The token a command signals. -/
def signalToken (w1 : InstrWord) : Option Nat := if w1.getLsbD 4 then some (w1.extractLsb' 0 4).toNat else none

/-- The count of a token. -/
def tokenCount (s : State) (slot t : Nat) : Nat := (s.slot slot).tokens.get t 0

/-- A started or running command of the slot will signal the token. -/
def willSignal (s : State) (slot t : Nat) : Bool :=
  let c := s.core (coreOf slot)
  (c.vrun ++ c.mrun).any (fun r => r.landedAt = 0 && r.cmd.slot = slot && signalToken r.cmd.w1 = some t)

/-- The command is lifted: it waits on a token that is 0 and that no started command will signal. -/
def mustLift (s : State) (m : Cmd) : Bool :=
  match waitToken m.w1 with
  | some t => !m.nullified && tokenCount s m.slot t = 0 && !willSignal s m.slot t
  | none => false

/-- Insert a command by its place in push order. -/
def insertCmd (l : List Cmd) (m : Cmd) : List Cmd :=
  l.takeWhile (fun x => decide (x.seq < m.seq)) ++ m :: l.dropWhile (fun x => decide (x.seq < m.seq))

/-- Lift the slot's commands of each engine whose first waits in vain. A nullified command behind it has nothing left to do
and the lift buffer has no mark for it: it is dropped (DESIGN CHOICE, log entry 17). -/
def liftStep (s : State) (slot : Nat) : State :=
  let core := coreOf slot
  let mine (l : List Cmd) : List Cmd := l.filter (fun m => m.slot = slot)
  let lifted (l : List Cmd) : List Cmd :=
    match mine l with
    | [] => []
    | m :: r => if mustLift s m then m :: r else []
  let v := lifted (s.core core).vq
  let m := lifted (s.core core).mq
  let s1 := s.modCore core (fun c =>
    { c with vq := c.vq.filter (fun x => !v.contains x), mq := c.mq.filter (fun x => !m.contains x) })
  s1.modSlot slot (fun x => { x with lift := ((v ++ m).filter (fun c => !c.nullified)).foldl insertCmd x.lift })

/-- PREEMPT_DRAIN_END of the context's slot: commands that wait in vain are lifted, and once no command is left the
handler is entered (20 R412). -/
def execPreemptDrainEnd (s : State) : Result :=
  let k := s.me
  if !(s.slot k).draining then .next s
  else
    let s1 := liftStep s k
    match (s1.slot k).trap with
    | some q => if trapReady s1 k q then .next (enterTrap s1 k q) else .next s1
    | none => .next s1

/-- POLL_WAKE of the context's cluster: each record 1,024 cycles after it entered the list (15 R322). -/
def execPollWake (s : State) : Result :=
  let cl := clusterOf s.me
  .next (((s.cluster cl).poll.filter (fun e => decide (e.2 ≤ s.cycle))).foldl
    (fun acc e => wakeRec (acc.modCluster cl (fun c => { c with poll := c.poll.erase e })) cl e.1) s)

/-- TRAP_ENTRY of the context's slot: a halt that waited for a window, or for commands, ends; a pending asynchronous trap is taken; a trap
under way is entered once nothing is to be waited for (20 R407, R408, R466). -/
def execTrapEntry (s : State) : Result :=
  let k := s.me
  if (s.slot k).halting then
    if (s.slot k).strand.isNone then .next (logPending (haltDone s k) k)
    else if windowsClosed s k none then .next (finishHalt s k) else .next s
  else
    match (s.slot k).trap with
    | none => .next (takePending s k)
    | some q => if trapReady s k q then .next (enterTrap s k q) else .next s

/-- The role's line may be fetched: it can issue, or stands in its stall count or in a paused cycle. -/
def mayFetch (s : State) (slot : Nat) (r : Role) : Bool :=
  match blockedBy s slot r with
  | none => true
  | some 1 => (s.slot slot).timed
  | some _ => false

/-- CODE_LINE_FILL of the context's role: the line of its next instruction is fetched once its translation is there (13 R276); a fetch
that fails traps once the role is to issue (02 R29). -/
def execCodeLineFill (s : State) : Result :=
  let k := s.me
  let c := s.myRole
  let line := lineOf c.pc
  if !mayFetch s k s.cur.role || line = endLine || isRom line ||
      (cachedLine s (coreOf k) (s.slot k).domain line c.sup).isSome then .next s
  else
    match translate s (coreOf k) (s.slot k).domain (64 * line) .exec c.sup k with
    | (_, .error _) => .next s
    | (s1, .ok _) =>
      if transWait s1 (coreOf k) (s.slot k).domain (64 * line) ≠ 0 then .next s1
      else
        match codeFill s1 k line c.sup with
        | (s2, .ok _) => .next s2
        | (_, .error _) => .next s

end Sys2Proof.Machine
end

