-- ==== Sys2Proof/Machine/Scopes.lean ====
section
/-! DEFINITION. The frame and scope instructions (12 R252 to R265), the staging instructions (18 R395 to R399), and the
steps of the block check and of holds. -/

namespace Sys2Proof.Machine

/-! ### Segment headers (18 R375) -/

/-- `n` bytes of a header from byte `off`, as a number. -/
def hdr (h : BitVec 512) (off n : Nat) : Nat := (h.extractLsb' (8 * off) (8 * n)).toNat

def hKind (h : BitVec 512) : Nat := hdr h 0 1
def hDomain (h : BitVec 512) : Nat := hdr h 1 1 % 16
def hGen (h : BitVec 512) : Nat := hdr h 2 2
def hSegidx (h : BitVec 512) : Nat := hdr h 4 4 % 2 ^ 24
def hTtidx (h : BitVec 512) : Nat := hdr h 8 2
def hCtid (h : BitVec 512) : Nat := hdr h 10 1 % 16
def hElen (h : BitVec 512) : Nat := hdr h 12 4

/-! ### Frames (12 R256 to R258) -/

/-- The tick of the compute frame: 0 to 511; 0 before the first (12 R240, R245). -/
def frameTick (s : State) : Nat := if s.frame.no = 0 then 0 else Nat.min 511 (s.vcc - s.frame.start)

/-- TWAIT (12 R257). -/
def execTwait (st : BitVec 3) (a : BitVec 5) (s : State) : Result :=
  .next (gate (.twait st a) true anyRole false id
    (operands { srcs := [a] }
      (fun v s =>
        let th : BitVec 48 := (v.getD 0 0).extractLsb' 0 48
        if (s.slot s.me).timed then trapFree s 1
        else if 0 ≤ signedDiff48 s.frameCtr th then .done s
        else if !suspensionFree s then .wait s 9
        else suspendHere s (.frame th) (linkOf s.myRole (.twait st a)))) s)

/-- FRAMEQ (12 R258). -/
def execFrameq (st : BitVec 3) (d a : BitVec 5) (s : State) : Result :=
  .next (gate (.frameq st d a) true (dstOk d) false id
    (operands { srcs := [a], dst := some d }
      (fun v s =>
        let x := v.getD 0 0
        if 4 < x.toNat then .trap s 1 x
        else
          let r : Nat :=
            match x.toNat with
            | 0 => s.frameCtr.toNat
            | 1 => s.ring.frameNo % 2 ^ 48
            | 2 => frameTick s
            | 3 => if s.frame.no = 0 then 0 else hTtidx s.frame.header
            | _ => s.slips % 2 ^ 32
          .done (writeInterlocked s d 4 (BitVec.ofNat 64 r)))) s)

/-! ### The block and its check (12 R252 to R255) -/

/-- The block can be checked: every present role has issued its BEND, every vector and matrix command has started. -/
def blockReady (s : State) (slot : Nat) : Bool :=
  let x := s.slot slot
  let c := s.core (coreOf slot)
  x.block.any (fun b => !b.checked) && allRoles.all (fun r => !(x.role r).present || (x.role r).bend) &&
    !c.vq.any (fun m => m.slot = slot) && !c.mq.any (fun m => m.slot = slot)

/-- The BEND that completed the set: the last tick's, at the lowest role. -/
def lastBend (b : Block) : Option (Nat × Role × BitVec 32) :=
  b.bends.foldl
    (fun best e =>
      match best with
      | none => some e
      | some x => if x.1 < e.1 || (x.1 = e.1 && roleNum e.2.1 < roleNum x.2.1) then some e else best)
    none

/-- The check: the roles go on behind their BEND, or the slot traps BCHK at the BEND that completed the set, with its
log record (12 R253, 20 R424). -/
def checkBlock (s : State) (slot : Nat) : State :=
  match (s.slot slot).block with
  | none => s
  | some b =>
    let ticks : BitVec 32 := BitVec.ofNat 32 (s.vcc - b.tick0)
    let crc := blockCrc b
    let s1 := s.modSlot slot (fun x =>
      { (x.modRoles (fun c => { c with bend := false })) with block := some { b with checked := true } })
    if ticks = b.eticks && crc = b.ecrc then s1
    else
      match lastBend b with
      | none => s1
      | some e =>
        let s2 := logSlot s1 slot 11 0 0 (BitVec.setWidth 64 s1.frameCtr)
        let s3 := s2.modRole slot e.2.1 (fun c => { c with pc := e.2.2 })
        let q : TrapReq := ⟨e.2.1, 13, crc ++ ticks, false, e.2.1⟩
        -- behind a trap under way it waits (20 R408)
        if (s3.slot slot).trap.any (fun t => !t.async) then addPending s3 slot q else raiseTrap s3 slot q

/-- BEND (12 R252, R255, R256). -/
def execBend (st : BitVec 3) (s : State) : Result :=
  let t := gate (.bend st) true anyRole false id
    (fun s =>
      match (s.slot s.me).block with
      | none => trapFree s 1
      | some b =>
        if !(s.slot s.me).timed || b.checked || s.myRole.bend then trapFree s 1
        else
          let s1 := s.modSlot s.me (fun x =>
            { x with block := some { b with bends := b.bends ++ [(s.vcc, s.cur.role, s.myRole.pc)] } })
          .done (s1.modMe (fun c => { c with bend := true }))) s
  .next (if blockReady t t.me then checkBlock t t.me else t)

/-- BLOCK_CHECK of the context's slot: the check of a block whose commands started after its last BEND. -/
def execBlockCheck (s : State) : Result := .next (if blockReady s s.me then checkBlock s s.me else s)

/-! ### Cancel scopes (12 R259, R261, R264, R265) -/

/-- Bits [63:0] of a scope entry. -/
def scopeWord (x : Scope) : Word :=
  if x.state = scFree then 0
  else
    BitVec.ofNat 8 x.evb ++ BitVec.ofNat 4 x.ecl ++ BitVec.ofNat 4 x.dom ++ (if x.even then 1#1 else 0#1) ++ (0#1) ++
      BitVec.ofNat 6 x.depth ++ BitVec.ofNat 24 x.live ++ BitVec.ofNat 2 x.state ++ BitVec.ofNat 14 x.parent

/-- The lowest free scope id from 16. -/
def freeScope (s : State) : Option Nat :=
  ((List.range 16384).drop 16).find? (fun c => (s.scope c).state = scFree)

/-- A status of a failed request: bit 63 with a code. -/
def statusWord (code : Nat) : Word := BitVec.ofNat 64 (2 ^ 63 + code)

/-- SCOPE (12 R261). -/
def execScope (st : BitVec 3) (d a b : BitVec 5) (s : State) : Result :=
  .next (gate (.scope st d a b) true (dstOk d) false id
    (operands { srcs := [a, b], dst := some d }
      (fun v s =>
        let sa := v.getD 0 0
        let sb := v.getD 1 0
        let p := bitsOf sa 0 14
        let x := s.scope p
        let cl := clusterOf s.me
        let even := sb.getLsbD 0
        let evb := bitsOf sb 56 8
        let answer (s : State) (w : Word) : Did := .done (writeInterlocked s d 32 w)
        if bitsOf sa 14 50 ≠ 0 then .trap s 1 sa
        else if bitsOf sb 1 2 ≠ 0 then .trap s 1 sb
        else if x.dom ≠ (s.slot s.me).domain then .trap s 2 sa
        else if even && groupOwner s cl (evb / 16) != (s.slot s.me).domain then .trap s 2 sb
        else if x.state ≠ scLive then answer s (statusWord 3)
        else if x.depth = 32 then answer s (statusWord 2)
        else
          match freeScope s with
          | none => answer s (statusWord 1)
          | some c =>
            let y : Scope :=
              { state := scLive, parent := p, live := 0, depth := x.depth + 1, even := even, dom := x.dom, ecl := cl,
                evb := evb, ack := BitVec.ofNat 56 (bitsOf sb 3 53 * 8) }
            answer (scopeInc (s.setScope c y) p) (BitVec.ofNat 64 c))) s)

/-- SCQRY (12 R264). -/
def execScqry (st : BitVec 3) (d a : BitVec 5) (s : State) : Result :=
  .next (gate (.scqry st d a) true (dstOk d) false id
    (operands { srcs := [a], dst := some d }
      (fun v s =>
        let sa := v.getD 0 0
        let x := s.scope (bitsOf sa 0 14)
        if bitsOf sa 14 50 ≠ 0 then .trap s 1 sa
        else if (x.state = scLive || x.state = scCancelling) && x.dom != (s.slot s.me).domain then .trap s 2 sa
        else .done (writeInterlocked s d 16 (scopeWord x)))) s)

/-- SCACK (12 R265): reads the acknowledgement word of a cancelled scope, or waits on it. -/
def execScack (st : BitVec 3) (d a b : BitVec 5) (s : State) : Result :=
  .next (gate (.scack st d a b) true (dstOk d) false id
    (operands { srcs := [a, b], dst := some d }
      (fun v s =>
        let sa := v.getD 0 0
        let c := bitsOf sa 0 14
        let x := s.scope c
        if (s.slot s.me).timed then trapFree s 1
        else if !suspensionFree s then .wait s 9
        else if bitsOf sa 14 50 ≠ 0 || x.state = scFree || x.ack = 0 then .trap s 1 sa
        else if x.dom ≠ (s.slot s.me).domain then .trap s 2 sa
        else
          let va : Word := BitVec.setWidth 64 x.ack
          checkAddress s va 8 .read (fun s p =>
            if x.state = scCancelled then
              readOrTrap s va p 8 (fun s w =>
                let s1 := if (v.getD 1 0).getLsbD 0 then s.setScope c {} else s
                .done (writeInterlocked s1 d (accessTime s1 p va) (BitVec.ofNat 64 w)))
            else suspendHere (armMonitor s p) (.monitor va p) s.myRole.pc))) s)

/-! ### Staging buffers (18 R380 to R385, R396 to R398) -/

def State.buf (s : State) (n : Nat) : Buf := s.bufs.get n {}
def State.setBuf (s : State) (n : Nat) (b : Buf) : State := { s with bufs := s.bufs.put n b {} }

/-- The scratchpad offset of buffer `n`. -/
def bufOffset (s : State) (n : Nat) : Nat := s.stgBase + 0x20000 * n

/-- The two ownership entries of a buffer, in every core: V and DOMAIN while it is CUR or HELD (18 R382). -/
def bufOwner (s : State) (n : Nat) (v : Bool) (dom : Nat) : State :=
  let e : BitVec 8 := if v then BitVec.ofNat 8 (16 + dom) else 0
  let i := bufOffset s n / 65536
  (List.range 64).foldl
    (fun acc k => acc.modCore k (fun c => { c with owner := (c.owner.put i e 0).put (i + 1) e 0 })) s

/-- A buffer becomes free. -/
def freeBuf (s : State) (n : Nat) : State := bufOwner (s.setBuf n {}) n false 0

/-- One hold of a buffer drops: a HELD buffer becomes FREE with its last (18 R385). -/
def dropHold (s : State) (n : Nat) : State :=
  let b := s.buf n
  let s1 := s.setBuf n { b with holds := b.holds - 1 }
  if b.st = .held && b.holds ≤ 1 then freeBuf s1 n else s1

/-- A matrix command that the slot pushed before `seq` is neither completed nor discarded. -/
def matrixBefore (s : State) (slot seq : Nat) : Bool :=
  let c := s.core (coreOf slot)
  c.mq.any (fun m => m.slot = slot && decide (m.seq < seq)) ||
    c.mrun.any (fun r => r.cmd.slot = slot && r.landedAt = 0 && decide (r.cmd.seq < seq))

/-- The drops of a slot whose matrix commands are done take effect. -/
def settleDrops (s : State) (slot : Nat) : State :=
  let go := (s.slot slot).drops.filter (fun d => !matrixBefore s slot d.1)
  let s1 := s.modSlot slot (fun x => { x with drops := x.drops.filter (fun d => matrixBefore s slot d.1) })
  go.foldl (fun acc d => dropHold acc d.2) s1

/-- HOLD_DROP of the context's slot (18 R385). -/
def execHoldDrop (s : State) : Result := .next (settleDrops s s.me)

/-- SEGHDR (18 R396). -/
def execSeghdr (st : BitVec 3) (d a : BitVec 5) (s : State) : Result :=
  .next (gate (.seghdr st d a) true onlyLoader false id
    (operands { srcs := [a], dst := some d }
      (fun v s =>
        let sa := v.getD 0 0
        let late := sa.getLsbD 3
        let x := s.slot s.me
        let (h, there) : BitVec 512 × Bool :=
          if late then (s.lastHeader, s.anyHeader)
          else
            match x.timed, x.block with
            | true, some b => (b.header, true)
            | _, _ => (s.frame.header, s.frame.no != 0)
        if bitsOf sa 4 60 ≠ 0 then .trap s 1 sa
        else if !s.myRole.sup && (late || (there && hDomain h != x.domain)) then .trap s 2 sa
        else
          let w : Word := h.extractLsb' (64 * bitsOf sa 0 3) 64
          .done (writeInterlocked s d 8 w))) s)

/-- The strand's release frame still runs. -/
def frameRuns (s : State) (b : Block) : Bool := s.frame.running && s.frame.no = b.frameNo

/-- STGQ (18 R397): takes a hold, and fills its queue entry one tick later. -/
def execStgq (st : BitVec 3) (q : BitVec 2) (s : State) : Result :=
  .next (gate (.stgq st q) true onlyLoader false id
    (fun s =>
      let x := s.slot s.me
      if 16 ≤ (s.queue s.me q.toNat).length then .wait s 4
      else
        match x.block with
        | none => trapFree s 1
        | some b =>
          match b.buf with
          | none => trapFree s 1
          | some n =>
            if !x.timed || !frameRuns s b || 255 ≤ x.holds then trapFree s 1
            else
              pushBehind s (fun s behind =>
                let y := s.buf n
                let s1 := (s.setBuf n { y with holds := y.holds + 1 }).modSlot s.me (fun z => { z with holds := z.holds + 1 })
                .done (setQueue s1 s1.me q.toNat (s1.queue s1.me q.toNat ++
                  [{ val := BitVec.ofNat 64 (bufOffset s1 n), due := s1.clock s1.me + 1, behind := behind }])))) s)

/-- STGREL (18 R398). -/
def execStgrel (st : BitVec 3) (s : State) : Result :=
  .next (gate (.stgrel st) true onlyComputer false id
    (fun s =>
      let x := s.slot s.me
      match x.block.bind (·.buf) with
      | none => trapFree s 1
      | some n =>
        if !x.timed || x.holds = 0 then trapFree s 1
        else
          .done (settleDrops (s.modSlot s.me (fun z => { z with holds := z.holds - 1, drops := z.drops ++ [(s.seqNo, n)] }))
            s.me)) s)

/-! ### Parking (18 R389 to R392, R399) -/

/-- The park entry of a scope. -/
def parkOf (s : State) (c : Nat) : Option Park := s.parks.find? (fun p => p.scope = c)

/-- A scope's park clears. -/
def unpark (s : State) (c : Nat) : State := { s with parks := s.parks.filter (fun p => p.scope != c) }

/-- The park word of 18 R399; 0 for a scope that is not parked. -/
def parkWord (s : State) (c : Nat) : Word :=
  match parkOf s c with
  | none => 0
  | some p =>
    (1#1) ++ (if p.auto then 1#1 else 0#1) ++ (0#10) ++ BitVec.ofNat 4 p.dom ++ BitVec.ofNat 24 p.rejoin ++ (0#10) ++
      BitVec.ofNat 14 p.scope

/-- Park a live scope; the status. -/
def parkScope (s : State) (c rejoin : Nat) : State × Word :=
  if (s.scope c).state ≠ scLive then (s, statusWord 3)
  else if (parkOf s c).isSome then
    ({ s with parks := s.parks.map (fun p => if p.scope = c then { p with rejoin := rejoin } else p) }, 0)
  else if 256 ≤ s.parks.length then (s, statusWord 1)
  else ({ s with parks := s.parks ++ [⟨c, rejoin, false, (s.scope c).dom⟩] }, 0)

/-- PARK: s[b][63:62] chooses the operation (18 R399). -/
def park (i : Instr) (d a b : BitVec 5) (s : State) : State :=
  gate i true (dstOk d) false id
    (operands { srcs := [a, b], dst := some d }
      (fun v s =>
        let sa := v.getD 0 0
        let sb := v.getD 1 0
        let c := bitsOf sa 0 14
        let op := bitsOf sb 62 2
        let x := s.scope c
        if bitsOf sa 14 50 ≠ 0 || bitsOf sb 24 38 ≠ 0 || op = 3 || (c < 16 && op != 2) then .trap s 1 sa
        else if x.state ≠ scFree && x.dom ≠ (s.slot s.me).domain then .trap s 2 sa
        else
          release s (fun s =>
            let answer (s : State) (w : Word) : Did := .done (writeInterlocked s d 16 w)
            match op with
            | 0 =>
              let r := parkScope s c (bitsOf sb 0 24)
              answer r.1 r.2
            | 1 => if (parkOf s c).isSome then answer (unpark s c) 0 else answer s (statusWord 2)
            | _ => answer s (parkWord s c)))) s

/-- PARK, as it parks a scope (op 0). -/
def execParkSet (st : BitVec 3) (d a b : BitVec 5) (s : State) : Result := .next (park (.parkSet st d a b) d a b s)

/-- PARK, as it clears a park (op 1). -/
def execParkClear (st : BitVec 3) (d a b : BitVec 5) (s : State) : Result := .next (park (.parkSet st d a b) d a b s)

/-- PARK, as it reads a park word (op 2). -/
def execParkRead (st : BitVec 3) (d a b : BitVec 5) (s : State) : Result := .next (park (.parkSet st d a b) d a b s)

end Sys2Proof.Machine
end

