-- ==== Sys2Proof/Machine/Phasers.lean ====
section
/-! DEFINITION. The phaser instructions (15 R328 to R335). -/

namespace Sys2Proof.Machine

/-- The key of the issuing strand's memberships. -/
def myKey (s : State) : Nat :=
  match (s.slot s.me).strand with
  | some t => recKey t
  | none => 0

/-- The issuing strand holds a DATA membership already. -/
def hasData (s : State) : Bool := s.members.any (fun m => m.record = myKey s && m.data)

/-- The member table holds 4,096 entries. -/
def membersFull (s : State) : Bool := decide (4096 ≤ s.members.length)

/-- The common checks on s[a]: the limit of the operand, a live phaser of the issuing domain, the membership the use
needs, a strand that is not timed (15 R328). -/
def phaserChecks (s : State) (a : Word) (need : Option Member → Bool) (next : State → Nat → Did) : Did :=
  let p := bitsOf a 0 8
  if bitsOf a 8 56 ≠ 0 then .trap s 1 a
  else if !(s.phaser p).live then .trap s 1 a
  else if (s.phaser p).dom ≠ (s.slot s.me).domain then .trap s 2 a
  else if !need (memberOf s (myKey s) p) then .trap s 1 a
  else if (s.slot s.me).timed then .trap s 1 a
  else next s p

/-- The strand joins a phaser by 15 R325, and the data-phaser register follows. -/
def joinPhaser (s : State) (p mode : Nat) (data : Bool) : State :=
  let x := s.phaser p
  let sig := mode = 1 || mode = 3
  let wait := mode = 2 || mode = 3
  let m : Member := ⟨myKey s, p, mode, if sig then x.phase + 1 else 0, if wait then x.phase else 0, data⟩
  let s1 := { s with members := s.members ++ [m] }
  let s2 := if sig then s1.setPhaser p { x with ns := x.ns + 1 } else s1
  updateData s2 s2.me (myKey s2) p

/-- The lowest free phaser. -/
def freePhaser (s : State) : Option Nat := (List.range 256).find? (fun p => !(s.phaser p).live)

/-- PHNEW (15 R329): the creator's signalling membership has MP 0, with O = NS = 1. -/
def createPhaser (s : State) (p mode : Nat) (data : Bool) : State :=
  let sig := mode = 1 || mode = 3
  let n := if sig then 1 else 0
  let s1 := s.setPhaser p { live := true, dom := (s.slot s.me).domain, out := n, ns := n }
  if mode = 0 then s1
  else
    let s2 := { s1 with members := s1.members ++ [⟨myKey s1, p, mode, 0, 0, data⟩] }
    updateData s2 s2.me (myKey s2) p

/-- PHNEW (15 R329). -/
def execPhnew (st : BitVec 3) (d a : BitVec 5) (s : State) : Result :=
  .next (gate (.phnew st d a) true (dstOk d) false id
    (operands { srcs := [a], dst := some d }
      (fun v s =>
        let sa := v.getD 0 0
        let mode := bitsOf sa 0 2
        let data := sa.getLsbD 2
        let answer (s : State) (w : Word) : Did := .done (writeInterlocked s d 16 w)
        if bitsOf sa 3 61 ≠ 0 || (data && mode = 0) || (s.slot s.me).timed then .trap s 1 sa
        else
          match freePhaser s with
          | none => answer s (statusWord 1)
          | some p =>
            if mode ≠ 0 && membersFull s then answer s (statusWord 2)
            else if data && hasData s then answer s (statusWord 4)
            else answer (createPhaser s p mode data) (BitVec.ofNat 64 p))) s)

/-- The registrations; 5 is judged before 2, and 2 before 4 (DESIGN CHOICE, log entry 14). -/
def register (i : Instr) (mode : Nat) (d a b : BitVec 5) (s : State) : State :=
  gate i true (dstOk d) false id
    (operands { srcs := [a, b], dst := some d }
      (fun v s =>
        let sb := v.getD 1 0
        let data := sb.getLsbD 0
        let answer (s : State) (w : Word) : Did := .done (writeInterlocked s d 16 w)
        phaserChecks s (v.getD 0 0) (fun _ => true) (fun s p =>
          if bitsOf sb 1 63 ≠ 0 then .trap s 1 sb
          else if (memberOf s (myKey s) p).isSome then answer s (statusWord 5)
          else if membersFull s then answer s (statusWord 2)
          else if data && hasData s then answer s (statusWord 4)
          else answer (joinPhaser s p mode data) 0))) s

/-- PHREG.s (15 R330). -/
def execPhregS (st : BitVec 3) (d a b : BitVec 5) (s : State) : Result := .next (register (.phregS st d a b) 1 d a b s)

/-- PHREG.w (15 R330). -/
def execPhregW (st : BitVec 3) (d a b : BitVec 5) (s : State) : Result := .next (register (.phregW st d a b) 2 d a b s)

/-- PHREG.sw (15 R330). -/
def execPhregSw (st : BitVec 3) (d a b : BitVec 5) (s : State) : Result := .next (register (.phregSw st d a b) 3 d a b s)

/-- PHDROP (15 R327, R331). -/
def execPhdrop (st : BitVec 3) (a : BitVec 5) (s : State) : Result :=
  .next (gate (.phdrop st a) true anyRole false id
    (operands { srcs := [a] }
      (fun v s =>
        phaserChecks s (v.getD 0 0) Option.isSome (fun s p =>
          release s (fun s =>
            match memberOf s (myKey s) p with
            | some m => .done (phDrop s m (some s.me))
            | none => .done s)))) s)

/-- A member signals phase MP = PHASE (15 R332). -/
def signalPhaser (s : State) (m : Member) : State := phLower (setMember s { m with mp := m.mp + 1 }) m.phaser

/-- PHSIG (15 R332): an empty phase closes first; a signal that would run ahead blocks. -/
def execPhsig (st : BitVec 3) (a : BitVec 5) (s : State) : Result :=
  .next (gate (.phsig st a) true anyRole false id
    (operands { srcs := [a] }
      (fun v s =>
        phaserChecks s (v.getD 0 0) (fun m => m.any Member.signals) (fun s p =>
          release s (fun s =>
            let s1 := phBefore s p
            match memberOf s1 (myKey s1) p with
            | some m =>
              if m.mp = (s1.phaser p).phase then .done (updateData (signalPhaser s1 m) s1.me (myKey s1) p)
              else .wait s1 7
            | none => .done s1)))) s)

/-- The waiting half of PHWAIT and PHNEXT: pass WP, or suspend with the instruction to issue again (15 R333). -/
def waitPhaser (s : State) (p : Nat) : Did :=
  match memberOf s (myKey s) p with
  | none => .done s
  | some m =>
    if 0 < signedDiff16 (s.phaser p).phase m.wp then
      .done (updateData (setMember s { m with wp := m.wp + 1 }) s.me (myKey s) p)
    else if !suspensionFree s then .wait s 9
    else
      let s1 := updateData s s.me (myKey s) p
      suspendHere { s1 with phWait := s1.phWait ++ [(myRef s1, clusterOf s1.me, p)] } (.phaser p) s1.myRole.pc

/-- PHWAIT (15 R333). -/
def execPhwait (st : BitVec 3) (a : BitVec 5) (s : State) : Result :=
  .next (gate (.phwait st a) true anyRole false id
    (operands { srcs := [a] }
      (fun v s =>
        phaserChecks s (v.getD 0 0) (fun m => m.any Member.waits) (fun s p => waitPhaser (phBefore s p) p))) s)

/-- PHNEXT (15 R333): a SIGWAIT member with MP = WP signals first. -/
def execPhnext (st : BitVec 3) (a : BitVec 5) (s : State) : Result :=
  .next (gate (.phnext st a) true anyRole false id
    (operands { srcs := [a] }
      (fun v s =>
        phaserChecks s (v.getD 0 0) (fun m => m.any Member.waits) (fun s p =>
          match memberOf s (myKey s) p with
          | none => .done s
          | some m =>
            if !suspensionFree s then .wait s 9
            else if m.mode = 3 && m.mp = m.wp then
              release s (fun s =>
                let s1 := phBefore s p
                if m.mp = (s1.phaser p).phase then waitPhaser (signalPhaser s1 m) p else .wait s1 7)
            else waitPhaser (phBefore s p) p))) s)

/-- The phasers above `p`, nearest first. -/
def ancestors (s : State) (p fuel : Nat) : List Nat :=
  match fuel with
  | 0 => []
  | n + 1 => if (s.phaser p).ratio = 0 then [] else (s.phaser p).parent :: ancestors s (s.phaser p).parent n

/-- The levels of the tree below `p`, `p` included. -/
def phHeight (s : State) (p fuel : Nat) : Nat :=
  match fuel with
  | 0 => 0
  | n + 1 => 1 + (childrenOf s p).foldl (fun h c => Nat.max h (phHeight s c n)) 0

/-- The link would form a cycle or a tree deeper than 8. -/
def badLink (s : State) (c q : Nat) : Bool :=
  let up := ancestors s q 9
  q = c || up.contains c || decide (8 < up.length + 1 + phHeight s c 9)

/-- PHLINK (15 R334); an unlinked parent with nothing left is freed (15 R331); 7 is judged before 6 (DESIGN CHOICE, log entry 14). -/
def execPhlink (st : BitVec 3) (d a b : BitVec 5) (s : State) : Result :=
  .next (gate (.phlink st d a b) true (dstOk d) false id
    (operands { srcs := [a, b], dst := some d }
      (fun v s =>
        let sb := v.getD 1 0
        let q := bitsOf sb 0 8
        let ratio := bitsOf sb 8 8
        let unlink := sb.getLsbD 16
        let answer (s : State) (w : Word) : Did := .done (writeInterlocked s d 16 w)
        phaserChecks s (v.getD 0 0) (fun _ => true) (fun s p =>
          if bitsOf sb 17 47 ≠ 0 || (ratio = 0) != unlink then .trap s 1 sb
          else if !(s.phaser q).live then .trap s 1 (v.getD 0 0)
          else if (s.phaser q).dom ≠ (s.slot s.me).domain then .trap s 2 (v.getD 0 0)
          else
            let x := s.phaser p
            if unlink then
              if x.ratio = 0 || x.parent != q then answer s (statusWord 8) 
              else answer (phFree (phUnlink s p) q 257) 0
            else if x.ratio ≠ 0 then answer s (statusWord 7)
            else if badLink s p q then answer s (statusWord 6)
            else
              let y := s.phaser q
              let s1 := s.setPhaser q { y with ns := y.ns + 1 }
              answer (s1.setPhaser p { x with parent := q, ratio := ratio, rcnt := 0, childMp := y.phase + 1 }) 0))) s)

/-- The phaser word of 15 R335. -/
def phaserWord (x : Phaser) : Word :=
  if !x.live then 0
  else
    BitVec.ofNat 4 x.dom ++ (1#1) ++ (if x.held then 1#1 else 0#1) ++ BitVec.ofNat 8 x.parent ++ BitVec.ofNat 8 x.ratio ++
      BitVec.ofNat 13 x.ns ++ BitVec.ofNat 13 x.out ++ x.phase

/-- The member word of 15 R335; 0 where the strand is no member. -/
def memberWord (m : Option Member) : Word :=
  match m with
  | none => 0
  | some m =>
    (0#28) ++ (1#1) ++ (if m.data then 1#1 else 0#1) ++ BitVec.ofNat 2 m.mode ++ (if m.waits then m.wp else 0) ++
      (if m.signals then m.mp else 0)

/-- PHQRY (15 R335). -/
def execPhqry (st : BitVec 3) (d a : BitVec 5) (s : State) : Result :=
  .next (gate (.phqry st d a) true (dstOk d) false id
    (operands { srcs := [a], dst := some d }
      (fun v s =>
        let sa := v.getD 0 0
        let p := bitsOf sa 0 8
        let x := s.phaser p
        if bitsOf sa 9 55 ≠ 0 then .trap s 1 sa
        else if x.live && x.dom != (s.slot s.me).domain then .trap s 2 sa
        else
          .done (writeInterlocked s d 16
            (if sa.getLsbD 8 then memberWord (memberOf s (myKey s) p) else phaserWord x)))) s)

end Sys2Proof.Machine
end

