-- ==== Sys2Proof/Machine/Copy.lean ====
section
/-! DEFINITION. Tokens (17 R343 to R346), the transaction barrier (17 R352 to R354), the copy unit's commands from their
start to their settlement (17 R349, R350, R363 to R373, 14 R300, R301), and the key-value lookups of an owning package
(13 R279 to R281). -/

namespace Sys2Proof.Machine

/-! ### Tokens -/

/-- The count a wait finds: a role's wait counts at once, a role's signal from the next cycle (17 R344, R360). -/
def tokenNow (s : State) (slot t : Nat) : Nat :=
  tokenCount s slot t - ((s.slot slot).tokPend.filter (fun e => e = (t, false))).length

def setToken (s : State) (slot t n : Nat) : State := s.modSlot slot (fun x => { x with tokens := x.tokens.put t n 0 })

/-- A command's wait takes its token. -/
def takeToken (s : State) (slot t : Nat) : Option State :=
  if 0 < tokenNow s slot t then some (setToken s slot t (tokenCount s slot t - 1)) else none

/-- A command's signal; one that finds 255 leaves it, and the slot takes TOKOVF (17 R345). -/
def commandSignal (s : State) (slot : Nat) (r : Role) (addr : BitVec 32) (w1 : InstrWord) : State :=
  match signalToken w1 with
  | none => s
  | some t =>
    let n := tokenCount s slot t
    if n = 255 then addPending s slot ⟨r, 10, addr ++ BitVec.ofNat 32 (65536 + t), true, r⟩
    else setToken s slot t (n + 1)

/-- A signal that an instruction brings about, of a command it discards: it counts from the next cycle on (17 R344). -/
def laterSignal (s : State) (slot : Nat) (r : Role) (addr : BitVec 32) (w1 : InstrWord) : State :=
  match signalToken w1 with
  | none => s
  | some t =>
    let coming := ((s.slot slot).tokPend.filter (fun e => e = (t, true))).length
    if 255 ≤ tokenCount s slot t + coming then addPending s slot ⟨r, 10, addr ++ BitVec.ofNat 32 (65536 + t), true, r⟩
    else s.modSlot slot (fun x => { x with tokPend := x.tokPend ++ [(t, true)] })

/-- What TKSIG and TKWAIT did in the last cycle counts from now on: every signal, then every wait (17 R344). -/
def landTokens (s : State) (slot : Nat) : State :=
  s.modSlot slot (fun x =>
    let add := x.tokPend.filter (·.2)
    let sub := x.tokPend.filter (fun e => !e.2)
    let t1 := add.foldl (fun (m : Sp Nat) e => m.put e.1 (Nat.min 255 (m.get e.1 0 + 1)) 0) x.tokens
    { x with tokens := sub.foldl (fun (m : Sp Nat) e => m.put e.1 (m.get e.1 0 - 1) 0) t1, tokPend := [] })

/-! ### The transaction barrier (17 R352, R353) -/

/-- The fields of a barrier. -/
structure Bar where
  phase : Nat
  parv : Nat
  exparv : Nat
  pbytes : Nat
  err : Nat
  scope : Nat
  multi : Bool
  init : Bool
  canc : Bool
deriving DecidableEq, Repr

/-- The fields of a barrier's 16 bytes. -/
def barOf (v : Nat) : Bar :=
  { phase := v % 16, parv := v / 2 ^ 4 % 2 ^ 20, exparv := v / 2 ^ 24 % 2 ^ 20, pbytes := v / 2 ^ 44 % 2 ^ 48,
    err := v / 2 ^ 92 % 2 ^ 16, scope := v / 2 ^ 108 % 2 ^ 12, multi := v / 2 ^ 120 % 2 = 1, init := v / 2 ^ 121 % 2 = 1,
    canc := v / 2 ^ 122 % 2 = 1 }

/-- The 16 bytes of a barrier, reserved bits zero. -/
def Bar.word (b : Bar) : Nat :=
  let bit (x : Bool) (k : Nat) : Nat := if x then 2 ^ k else 0
  b.phase + b.parv * 2 ^ 4 + b.exparv * 2 ^ 24 + b.pbytes * 2 ^ 44 + b.err * 2 ^ 92 + b.scope * 2 ^ 108 +
    bit b.multi 120 + bit b.init 121 + bit b.canc 122

/-- An error code is recorded (17 R354). -/
def Bar.error (b : Bar) (e : Nat) : Bar :=
  if e = 0 then b
  else
    let b1 := if b.err = 0 then { b with err := e } else { b with multi := true }
    if e = 0x0400 then { b1 with canc := true } else b1

def barWrite (s : State) (p : Place) (b : Bar) (slot dom : Nat) : State :=
  performWrites s p 16 b.word (stampOrdered slot) slot dom

/-- Every role that a TBWAIT holds at the barrier, changed. -/
def modWaiters (s : State) (p : Place) (f : BarWait → BarWait) : State :=
  { s with slots := s.slots.map (fun e =>
      (e.1, e.2.modRoles (fun c => { c with barWait := c.barWait.map (fun w => if w.place = p then f w else w) }))) }

/-- An update reads the barrier at its home; on an uncorrectable error every blocked TBWAIT is told (17 R353). -/
def barRead (s : State) (p : Place) (slot dom : Nat) : State × Option Bar :=
  match readUnits (notePort s p) p 16 slot dom with
  | (s1, some v) => (s1, some (barOf v))
  | (s1, none) => (modWaiters s1 p (fun w => { w with ecc := true }), none)

/-- The test after an update that lowers PARV or PBYTES: the phase completes when both are 0. -/
def barTest (s : State) (p : Place) (b : Bar) : State × Bar :=
  if b.parv = 0 && b.pbytes = 0 then
    (modWaiters s p (fun w => if w.entry && w.phase = b.phase then { w with done := true } else w),
      { b with phase := (b.phase + 1) % 16, parv := b.exparv })
  else (s, b)

/-- The home that holds a barrier's wait entries: a scratchpad port or a deep-store slice (17 R359, 13 R271). -/
def barHome (p : Place) : Nat :=
  match p with
  | .spad c _ => 256 + c
  | .deep pa => 64 * (pa / 2 ^ 32 % 4) + pa / 256 % 64
  | _ => 320

/-- The wait entries in use at a home. -/
def entriesAt (s : State) (home : Nat) : Nat :=
  s.slots.foldl
    (fun n e => n + (allRoles.filter (fun r => ((e.2.role r).barWait).any (fun w => w.entry && barHome w.place = home))).length)
    0

/-! ### The fields of a copy-unit command (17 R361, R418) -/

def JEntry.fn (e : JEntry) : Nat := (e.w0.extractLsb' 0 7).toNat
def JEntry.q (e : JEntry) : Nat := if e.w1.getLsbD 26 then 1 else 0
def JEntry.aux (e : JEntry) : BitVec 16 := e.w1.extractLsb' 10 16
def JEntry.arv (e : JEntry) : Bool := e.aux.getLsbD 1
def JEntry.kvMode (e : JEntry) : Nat := (e.aux.extractLsb' 2 2).toNat
def JEntry.kvCount (e : JEntry) : Nat := (e.aux.extractLsb' 8 8).toNat + 1
def JEntry.msgLen (e : JEntry) : Nat := 8 * (e.aux.extractLsb' 2 14).toNat

/-- A command in its queue, not started since it entered. -/
def JEntry.queued (e : JEntry) : Bool := !e.running && !e.finished && !e.discarded

/-- The fields of a tensor map (17 R364). -/
def mapField (m : BitVec 512) (off n : Nat) : Nat := (m.extractLsb' (8 * off) (8 * n)).toNat

def mapRun (m : BitVec 512) : Nat := mapField m 0 4
def mapN (m : BitVec 512) (k : Nat) : Nat := mapField m (4 + 2 * k) 2
def mapB (m : BitVec 512) (k : Nat) : Nat := mapField m (12 + 4 * k) 4
def mapW (m : BitVec 512) (k : Nat) : Nat := mapField m (24 + 4 * k) 4
def mapS (m : BitVec 512) (k : Nat) : Word := m.extractLsb' (8 * (40 + 8 * k)) 64

/-- The length a map gives. -/
def mapLength (m : BitVec 512) : Nat := mapRun m * mapN m 0 * mapN m 1 * mapN m 2

/-- The map is valid (17 R365). -/
def mapOk (m : BitVec 512) (side : Bool) : Bool :=
  mapRun m % 8 = 0 && decide (8 ≤ mapRun m ∧ mapRun m ≤ 65536) &&
    (List.range 3).all (fun k => mapN m k != 0 && mapS m k % 8 = 0 && !(side && mapW m k != 0 && decide (mapW m k < mapN m k))) &&
    mapField m 10 2 = 0 && mapField m 36 4 = 0 && decide (mapLength m ≤ 2 ^ 32)

/-- The mapped address of packed byte `o` (17 R365). -/
def mappedAddr (m : BitVec 512) (base : Word) (o : Nat) : Word :=
  let r := o / mapRun m
  let i (k : Nat) : Nat :=
    match k with
    | 0 => r % mapN m 0
    | 1 => r / mapN m 0 % mapN m 1
    | _ => r / (mapN m 0 * mapN m 1)
  let p (k : Nat) : Nat := if mapW m k = 0 then mapB m k + i k else (mapB m k + i k) % mapW m k
  (List.range 3).foldl (fun (a : Word) k => a + BitVec.ofNat 64 (p k) * mapS m k) (base + BitVec.ofNat 64 (o % mapRun m))

/-- The length a copy settles with. -/
def JEntry.len (e : JEntry) : Nat :=
  if e.fn = 0 then e.vb.toNat else if e.fn = 1 && mapOk e.map (e.aux.getLsbD 2) then mapLength e.map else 0

/-- The source and the destination of packed byte `o`. -/
def JEntry.src (e : JEntry) (o : Nat) : Word :=
  if e.fn = 1 && !e.aux.getLsbD 2 then mappedAddr e.map e.va o else e.va + BitVec.ofNat 64 o

def JEntry.dst (e : JEntry) (o : Nat) : Word :=
  if e.fn = 1 && e.aux.getLsbD 2 then mappedAddr e.map e.vd o else e.vd + BitVec.ofNat 64 o

/-! ### Entries, queues, timing -/

def modEntry (s : State) (slot id : Nat) (f : JEntry → JEntry) : State :=
  s.modSlot slot (fun x => { x with journal := x.journal.map (fun e => if e.id = id then f e else e) })

/-- The journal entries of a core's slots, each with its slot. -/
def coreEntries (s : State) (core : Nat) : List (Nat × JEntry) :=
  (List.range 4).flatMap (fun j => (s.slot (4 * core + j)).journal.map (fun e => (4 * core + j, e)))

/-- The queue `q` of a core. -/
def copyQueue (s : State) (core q : Nat) : List (Nat × JEntry) :=
  (coreEntries s core).filter (fun x => x.2.queued && x.2.q = q)

/-- The commands in flight of queue `q` of a core. -/
def copyFlight (s : State) (core q : Nat) : List (Nat × JEntry) :=
  (coreEntries s core).filter (fun x => x.2.running && x.2.q = q)

/-- Core push order (09 R185): by cycle, then by slot, then as pushed. -/
def pushedBefore (a b : Nat × JEntry) : Bool :=
  decide (a.2.pushed < b.2.pushed) ||
    (a.2.pushed = b.2.pushed && (decide (a.1 < b.1) || (a.1 = b.1 && decide (a.2.id < b.2.id))))

/-- The first of a list by an order. -/
def firstBy {α : Type} (lt : α → α → Bool) (l : List α) : Option α :=
  l.foldl
    (fun best e =>
      match best with
      | none => some e
      | some b => if lt e b then some e else some b)
    none

/-- When the queue has moved `bytes` more: 128 bytes a cycle, shared by its commands in flight (17 R349). -/
def movedAt (s : State) (core q bytes : Nat) : Nat :=
  (copyFlight s core q).foldl (fun m x => Nat.max m x.2.next) s.cycle + (bytes + 127) / 128

/-- A command has done its work, with an error code or 0; it settles in its own step, as the next cycle begins, before that cycle's
waits (17 R344). -/
def finishCopy (s : State) (slot id code : Nat) : State :=
  modEntry s slot id (fun e => { e with running := false, finished := true, err := if e.err = 0 then code else e.err })

/-! ### Units of 8 bytes -/

/-- Translate the unit at `va` for a command, logging a failure; the error is the command's code (13 R283). -/
def unitPlace (s : State) (slot dom : Nat) (sup : Bool) (k : AccKind) (va : Word) : State × Except Nat Place :=
  match translate s (coreOf slot) dom va.toNat k sup slot with
  | (s1, .error r) => (logError s1 (clusterOf slot) 4 slot dom 0 r 0 0 va 0, .error (0x100 + r))
  | (s1, .ok (.remote pkg a)) =>
    if s1.ring.failed.contains pkg then (s1, .error 0x0E00) else (s1, .ok (.remote pkg a))
  | (s1, .ok p) => (s1, .ok p)

/-- Some translation that `n` units from byte `o` need is still under way (13 R276). -/
def unitsWait (s : State) (slot : Nat) (e : JEntry) (addr : Nat → Word) (o n : Nat) : Bool :=
  !s.walks.isEmpty && (List.range n).any (fun i => transWait s (coreOf slot) e.dom (addr (o + 8 * i)).toNat != 0)

/-- Where byte `o` of a marked destination stands: the last part of the list that begins at or before it. -/
def homeAt (l : List (Nat × Place)) (o : Nat) : Option Place :=
  l.foldl (fun best e => if e.1 ≤ o then some (e.2.plus (o - e.1)) else best) none

/-- The unit at byte `o` of the destination: where it has been marked, which is settled once and for all (13 R270, R277), or, of an entry
that an image has brought back, where it translates to. -/
def destPlace (s : State) (slot : Nat) (e : JEntry) (o : Nat) : State × Except Nat Place :=
  match homeAt e.homes o with
  | none => unitPlace s slot e.dom e.sup .write (e.dst o)
  | some (.remote pkg a) => if s.ring.failed.contains pkg then (s, .error 0x0E00) else (s, .ok (.remote pkg a))
  | some p => (s, .ok p)

/-- Check `n` units from byte `o`: each translates, and each stamped line is readable and allowed, before a write once the stores to
it that are under way are performed; 0 or the first error code. -/
def checkUnits (s : State) (slot : Nat) (e : JEntry) (k : AccKind) (addr : Nat → Word) (o n : Nat)
    (allowed : State → Place → Bool) : State × Nat :=
  (List.range n).foldl
    (fun acc i =>
      if acc.2 ≠ 0 then acc
      else
        let va := addr (o + 8 * i)
        match unitPlace acc.1 slot e.dom e.sup k va with
        | (s1, .error c) => (s1, c)
        | (s1, .ok p) =>
          let s2 := if k == .write then settleLine s1 noSlot p else s1
          if !p.stamped then (s2, 0)
          else if lineBad s2 p then (logBad s2 p slot e.dom, 0x200)
          else
            let s3 := eccMeta s2 p slot e.dom
            if allowed s3 p then (s3, 0) else (logMmx s3 slot e.dom p va, 0x300))
    (s, 0)

/-- Read `n` units from byte `o`. -/
def readUnitsAt (s : State) (slot : Nat) (e : JEntry) (addr : Nat → Word) (o n : Nat) : State × Except Nat (List Nat) :=
  (List.range n).foldl
    (fun acc i =>
      match acc.2 with
      | .error _ => acc
      | .ok l =>
        match unitPlace acc.1 slot e.dom e.sup .read (addr (o + 8 * i)) with
        | (s1, .error c) => (s1, .error c)
        | (s1, .ok p) =>
          match performRead s1 p 8 slot e.dom with
          | (s2, none) => (s2, .error 0x200)
          | (s2, some v) => (s2, .ok (l ++ [v])))
    (s, .ok [])

/-- One unit of a marked destination is written: data alone, the stamp comes at settlement (14 R300). -/
def writeUnmarked (s : State) (p : Place) (v slot dom : Nat) : State :=
  match p with
  | .window _ => unitStore s p 8 v
  | _ => if p.stamped then writeRaw (notePort s p) p 8 v (metaAt s p) slot dom else rawWrite s p 8 v

/-- Write units of the destination from byte `o`. -/
def writeUnitsAt (s : State) (slot : Nat) (e : JEntry) (o : Nat) (l : List Nat) : State × Nat :=
  (l.foldl
    (fun (acc : (State × Nat) × Nat) v =>
      if acc.1.2 ≠ 0 then acc
      else
        match destPlace acc.1.1 slot e acc.2 with
        | (s1, .error c) => ((s1, c), acc.2)
        | (s1, .ok p) => ((writeUnmarked s1 p v slot e.dom, 0), acc.2 + 8))
    ((s, 0), o)).1

/-- The first unit of the destination from byte `o` whose write would stall on a full undo log. -/
def stalledUnit (s : State) (slot : Nat) (e : JEntry) (o n : Nat) : Option Place :=
  (List.range n).findSome? (fun i =>
    match (destPlace s slot e (o + 8 * i)).2 with
    | .ok p => if undoStalls s p then some p else none
    | .error _ => none)

/-! ### Marking (14 R300, R301) -/

/-- The line belongs to the command's marked destination. -/
def ownLine (s : State) (slot : Nat) (e : JEntry) (p : Place) : Bool :=
  (List.range (e.marked / 8)).any (fun i =>
    match (destPlace s slot e (8 * i)).2 with
    | .ok q => q.line = p.line
    | .error _ => false)

/-- A source line may be read by the command: its own marked lines are not refused for PEND. -/
def sourceAllowed (slot : Nat) (e : JEntry) (s : State) (p : Place) : Bool :=
  stampAllows (metaAt s p) slot e.dph (pendAt s p && ownLine s slot e p)

/-- Where `len` destination bytes stand, unit by unit; a unit right behind the last one joins its part. -/
def homesOf (s : State) (slot : Nat) (e : JEntry) (len : Nat) : State × List (Nat × Place) :=
  (List.range (len / 8)).foldl
    (fun acc i =>
      match unitPlace acc.1 slot e.dom e.sup .write (e.dst (8 * i)) with
      | (s1, .ok p) => (s1, if homeAt acc.2 (8 * i) = some p then acc.2 else acc.2 ++ [(8 * i, p)])
      | (s1, .error _) => (s1, acc.2))
    (s, [])

/-- Set PEND on every line of `len` destination bytes. -/
def markUnits (s : State) (l : List (Nat × Place)) (len : Nat) : State :=
  (List.range (len / 8)).foldl
    (fun acc i =>
      match homeAt l (8 * i) with
      | some p => if p.stamped then setPend acc p true else acc
      | none => acc)
    s

/-- KVGET's destination is the local deep store or a scratchpad window (17 R366): the first unit that is neither. -/
def farUnit (s : State) (slot : Nat) (e : JEntry) (len : Nat) : Option Nat :=
  if e.fn ≠ 2 then none
  else
    (List.range (len / 8)).find? (fun i =>
      match (unitPlace s slot e.dom e.sup .write (e.dst (8 * i))).2 with
      | .ok p => !p.stamped
      | .error _ => false)

/-- Check the whole destination: 0 or a code; a replay accepts lines whose PEND is set (20 R420). -/
def checkDestination (s : State) (slot : Nat) (e : JEntry) (len : Nat) : State × Nat :=
  let allowed (t : State) (p : Place) : Bool := (e.replayed && pendAt t p) || stampAllows (metaAt t p) slot e.dph
  match farUnit s slot e len with
  | none => checkUnits s slot e .write e.dst 0 (len / 8) allowed
  | some i =>
    match checkUnits s slot e .write e.dst 0 i allowed with
    | (s1, 0) => (logError s1 (clusterOf slot) 4 slot e.dom 0 12 0 0 (e.dst (8 * i)) 0, 0x10C)
    | r => r

/-- Mark the whole destination, or refuse with a code. -/
def markDestination (s : State) (slot : Nat) (e : JEntry) (len : Nat) : State × Nat :=
  match checkDestination s slot e len with
  | (s1, 0) =>
    let (s2, l) := homesOf s1 slot e len
    (modEntry (markUnits s2 l len) slot e.id (fun x => { x with marked := len, homes := l }), 0)
  | r => r

/-- The bytes of the destination written so far. -/
def JEntry.written (e : JEntry) : Nat :=
  if e.fn = 2 then
    let x := e.vb.toNat
    let upTo := Nat.min (x + e.kvCount) (64 * (x / 64 + e.chunks))
    (upTo - x) * (e.marked / e.kvCount) + e.part
  else Nat.min (4096 * e.chunks) e.marked

/-- PEND clears on every marked line; the lines written take the metadata of an ordered write by the slot, and their
monitors wake (14 R295, R300, 15 R321). -/
def unmark (s : State) (slot : Nat) (e : JEntry) : State :=
  (List.range (e.marked / 8)).foldl
    (fun acc i =>
      match destPlace acc slot e (8 * i) with
      | (s1, .ok p) =>
        if !p.stamped then s1
        else if 8 * i < e.written then wakeWriters (setMeta s1 p (stampOrdered slot)) p
        else setPend s1 p false
      | (s1, .error _) => s1)
    s

/-! ### Settlement (17 R350, R354) -/

/-- A command counts in the scope of its strand; the boot strand's count nowhere (12 R260). -/
def noScope : Nat := 16384
def cmdInc (s : State) (c : Nat) : State := if c < noScope then scopeInc s c else s
def cmdDec (s : State) (c : Nat) : State := if c < noScope then scopeDec s c else s

/-- The barrier's place, or a code. -/
def barrierPlace (s : State) (slot : Nat) (e : JEntry) : State × Except Nat Place :=
  match unitPlace s slot e.dom e.sup .write e.vc with
  | (s1, .ok p) =>
    if p.stamped then (s1, .ok p)
    else (logError s1 (clusterOf slot) 4 slot e.dom 0 12 0 0 e.vc 0, .error (0x100 + 12))
  | (s1, .error c) => (s1, .error c)

/-- The update of a settling command: BYTEUF, then ARVUF, then its own code are recorded; the codes to log. -/
def barSettle (b : Bar) (len : Nat) (arv : Bool) (code : Nat) : Bar × List Nat :=
  let (b1, l1) :=
    if b.pbytes < len then ({ b with pbytes := 0 }.error 0x0700, [0x0700]) else ({ b with pbytes := b.pbytes - len }, [])
  let (b2, l2) :=
    if !arv then (b1, l1)
    else if b1.parv = 0 then (b1.error 0x0600, l1 ++ [0x0600])
    else ({ b1 with parv := b1.parv - 1 }, l1)
  (b2.error code, l2 ++ [code])

/-- The command updates its barrier; the codes to log. -/
def settleBarrier (s : State) (slot : Nat) (e : JEntry) : State × List Nat :=
  if e.vc = 0 then (s, [e.err])
  else
    match barrierPlace s slot e with
    | (s1, .error c) => (s1, [c, e.err])
    | (s1, .ok p) =>
      match barRead s1 p slot e.dom with
      | (s2, none) => (s2, [0x200, e.err])
      | (s2, some b) =>
        if !b.init then (s2, [e.err])
        else
          let (b1, codes) := barSettle b e.len e.arv e.err
          let (s3, b2) := if e.len ≠ 0 || e.arv then barTest s2 p b1 else (s2, b1)
          (barWrite s3 p b2 slot e.dom, codes)

/-- The barrier's write stalls on a full undo log. -/
def settleStalls (s : State) (slot : Nat) (e : JEntry) : Bool :=
  e.vc != 0 &&
    (match (barrierPlace s slot e).2 with
     | .ok p => undoStalls s p
     | .error _ => false)

/-- The place of an entry in its journal. -/
def journalIndex (s : State) (slot id : Nat) : Nat := ((s.slot slot).journal.findIdx? (fun e => e.id = id)).getD 0

/-- Log the nonzero codes of a command as KIND 5; the record's ADDR is not stated, so a free value. -/
def logCodes (s : State) (slot dom jidx : Nat) (codes : List Nat) : State :=
  (codes.filter (· != 0)).foldl
    (fun acc c =>
      let (v, s1) := takeFree acc 64
      logError s1 (clusterOf slot) 5 slot dom 0 c 0 jidx v 0)
    s

/-- A command that is given up settles with CANCELLED as the next cycle begins. -/
def cancelEntry (e : JEntry) : JEntry := { e with discarded := false, running := false, finished := true, err := 0x0400 }

/-- What settlement does to memory and the log. -/
def settleEffects (s : State) (slot : Nat) (e : JEntry) (jidx : Nat) : State :=
  let s1 := unmark s slot e
  let r := settleBarrier s1 slot e
  logCodes r.1 slot e.dom jidx r.2

/-- A command settles: marks, barrier, log, and last its token; it leaves the journal and its scope's count. -/
def settleCopy (s : State) (slot : Nat) (e : JEntry) : State :=
  let s1 := settleEffects s slot e (journalIndex s slot e.id)
  let s2 := s1.modSlot slot (fun x => { x with journal := x.journal.filter (fun y => y.id != e.id), progress := 0, moved := true })
  cmdDec (commandSignal s2 slot e.role e.addr e.w1) e.scope

/-- A finished command settles, unless its barrier's write stalls on a full undo log. -/
def settleDue (slot : Nat) (s : State) (e : JEntry) : State :=
  if settleStalls s slot e then
    match (barrierPlace s slot e).2 with
    | .ok p => noteStall s slot p
    | .error _ => s
  else settleCopy s slot e

/-- COPY_SETTLE of the context's slot: what has finished settles, in journal order. -/
def execCopySettle (s : State) : Host.Outcome State Fault Refusal :=
  .next (((s.slot s.me).journal.filter (fun e => e.finished && !e.discarded)).foldl (settleDue s.me) s)

/-! ### Key-value lookups (13 R279 to R281, 17 R366 to R369) -/

/-- Where a resolved block stands, and the local second-stage entry, if it is this package's. -/
structure KvBlock where
  entry : BitVec 128
  base : Place
  home : Option Nat
deriving DecidableEq, Repr

/-- The second-stage entry of a GBN of this package. -/
def secondStage (s : State) (gbn : Nat) : Nat := ((s.mreg 0x248).toNat + 16 * gbn) % 2 ^ 34

def kvRef (e : BitVec 128) : Nat := (e.extractLsb' 96 16).toNat
def kvLen (e : BitVec 128) : Nat := (e.extractLsb' 64 32).toNat

/-- The owner's checks of an entry. -/
def kvValid (e : BitVec 128) (dom : Nat) : Bool :=
  e.getLsbD 119 && (e.extractLsb' 112 4).toNat = dom && decide ((e.extractLsb' 116 2).toNat ≤ 1)

/-- The owning package resolves a GBN for a domain. -/
def kvResolve (s : State) (slot dom gbn : Nat) : State × Except Nat KvBlock :=
  if (s.mreg 0x250).toNat ≤ gbn then (s, .error 0x10D)
  else
    let pa := secondStage s gbn
    match readUnits s (.deep pa) 16 slot dom with
    | (s1, none) => (s1, .error 0x200)
    | (s1, some v) =>
      let e := BitVec.ofNat 128 v
      if !kvValid e dom then (s1, .error 0x10D)
      else
        let a := (e.extractLsb' 0 64).toNat
        (s1, .ok ⟨e, if (e.extractLsb' 116 2).toNat = 0 then .deep (a % 2 ^ 34) else .host a, some pa⟩)

/-- Another package resolves it: its tables are not this machine's, so its entry is a free value (log entry 16); its
deep store stands in `remote` under its position, its host's pool under 256 more. -/
def kvRemote (s : State) (dom pkg : Nat) : State × Except Nat KvBlock :=
  if s.ring.failed.contains pkg then (s, .error 0x0E00)
  else
    let (e, s1) := takeFree s 128
    if !kvValid e dom then (s1, .error 0x10D)
    else
      let a := (e.extractLsb' 0 64).toNat
      (s1, .ok ⟨e, if (e.extractLsb' 116 2).toNat = 0 then .remote pkg (a % 2 ^ 34) else .remote (256 + pkg) a, none⟩)

/-- Resolve a first-stage entry. -/
def kvBlock (s : State) (slot dom : Nat) (w : Word) : State × Except Nat KvBlock :=
  let tier := bitsOf w 56 2
  let pkg := bitsOf w 48 8
  let own := pkg = s.ringPos
  if !w.getLsbD 63 || tier = 3 then (s, .error 0x10D)
  else if (tier = 0 && !own) || (tier = 1 && own) || (!own && decide (s.ringLen ≤ pkg)) then (s, .error 0x10C)
  else if own then kvResolve s slot dom (bitsOf w 0 34)
  else kvRemote s dom pkg

/-- Log a translation failure that a lookup answers (13 R282). -/
def kvLog (s : State) (slot dom c : Nat) (va : Word) : State :=
  if c / 256 = 1 then logError s (clusterOf slot) 4 slot dom 0 (c % 256) 0 0 va 0 else s

/-- Entry `j` of the command's table, and its place: the table stands in the local deep store. -/
def kvTable (s : State) (slot : Nat) (e : JEntry) (j : Nat) (k : AccKind) : State × Except Nat (Word × Place) :=
  let va := e.va + BitVec.ofNat 64 (8 * j)
  match unitPlace s slot e.dom e.sup k va with
  | (s1, .error c) => (s1, .error c)
  | (s1, .ok (.deep pa)) =>
    match readUnit s1 (.deep pa) 8 slot e.dom with
    | (s2, none) => (s2, .error 0x200)
    | (s2, some v) => (s2, .ok (BitVec.ofNat 64 v, .deep pa))
  | (s1, .ok _) => (kvLog s1 slot e.dom 0x10C va, .error 0x10C)

/-- Entry `j` resolved to its block. -/
def kvEntry (s : State) (slot : Nat) (e : JEntry) (j : Nat) : State × Except Nat KvBlock :=
  match kvTable s slot e j .read with
  | (s1, .error c) => (s1, .error c)
  | (s1, .ok (w, _)) =>
    match kvBlock s1 slot e.dom w with
    | (s2, .error c) => (kvLog s2 slot e.dom c (e.va + BitVec.ofNat 64 (8 * j)), .error c)
    | (s2, .ok b) => (s2, .ok b)

/-- The bytes of one position of a block, or 0 where LEN is not allowed. -/
def kvBytes (b : KvBlock) : Nat :=
  let l := kvLen b.entry
  if l % 512 = 0 && decide (512 ≤ l ∧ l ≤ 2 ^ 20) then l / 64 else 0

/-- The position bytes of the command's first block. -/
def kvFirst (s : State) (slot : Nat) (e : JEntry) : Nat :=
  match (kvEntry s slot e (e.vb.toNat / 64)).2 with
  | .ok b => kvBytes b
  | .error _ => 0

/-- Positions of block `j` that the command moves. -/
def kvPositions (e : JEntry) (j : Nat) : List Nat :=
  let x := e.vb.toNat
  (List.range 64).map (fun i => 64 * j + i) |>.filter (fun q => decide (x ≤ q ∧ q < x + e.kvCount))

/-- The block's copy of position `q` moves, unit by unit: to the local side for KVGET, from it for KVPUT. -/
def kvMovePosition (s : State) (slot : Nat) (e : JEntry) (b : KvBlock) (p q : Nat) : State × Nat :=
  let o := p * (q - e.vb.toNat)
  let far (u : Nat) : Place := b.base.plus (p * (q % 64) + u)
  if e.fn = 2 then
    let r := (List.range (p / 8)).foldl
      (fun (acc : State × Except Nat (List Nat)) i =>
        match acc.2 with
        | .error _ => acc
        | .ok l =>
          match performRead acc.1 (far (8 * i)) 8 slot e.dom with
          | (s1, none) => (s1, .error 0x200)
          | (s1, some v) => (s1, .ok (l ++ [v])))
      (s, .ok [])
    match r with
    | (s1, .error c) => (s1, c)
    | (s1, .ok l) => writeUnitsAt s1 slot e o l
  else
    match checkUnits s slot e .read e.dst o (p / 8) (sourceAllowed slot e) with
    | (s1, 0) =>
      match readUnitsAt s1 slot e e.dst o (p / 8) with
      | (s2, .error c) => (s2, c)
      | (s2, .ok l) =>
        ((l.foldl (fun (acc : State × Nat) v => (performWrite acc.1 (far acc.2) 8 v (stampOrdered 0) slot e.dom, acc.2 + 8))
          (s2, 0)).1, 0)
    | (s1, c) => (s1, c)

/-- The entry as it stands in its journal. -/
def entryNow (s : State) (slot : Nat) (e : JEntry) : JEntry :=
  ((s.slot slot).journal.find? (fun x => x.id = e.id)).getD e

/-- One block of KVGET or of KVPUT with MODE 0 (17 R366): the bytes of a position are the first block's; a KVGET that fails behind some
of the block's positions has written those. -/
def kvMoveBlock (s : State) (slot : Nat) (e : JEntry) : State × Nat :=
  let j := e.vb.toNat / 64 + e.chunks
  match kvEntry s slot e j with
  | (s1, .error c) => (s1, c)
  | (s1, .ok b) =>
    let p := kvBytes b
    if p = 0 || (e.first != 0 && p != e.first) then (s1, 0x0A00)
    else
      let s2 := modEntry s1 slot e.id (fun x => { x with first := p })
      let (s3, c) := if e.fn = 2 && e.chunks = 0 then markDestination s2 slot e (p * e.kvCount) else (s2, 0)
      if c ≠ 0 then (s3, c)
      else
        let e1 := entryNow s3 slot e
        let r := (kvPositions e j).foldl
          (fun (acc : (State × Nat) × Nat) q =>
            if acc.1.2 ≠ 0 then acc
            else
              let m := kvMovePosition acc.1.1 slot e1 b p q
              (m, if m.2 = 0 then acc.2 + p else acc.2))
          ((s3, 0), 0)
        if r.1.2 = 0 then r.1 else (modEntry r.1.1 slot e.id (fun x => { x with part := r.2 }), r.1.2)

/-- A second-stage entry as hardware writes it: its reserved bits zero (00 R6, 13 R280). -/
def kvClean (e : BitVec 128) : Nat := (e &&& BitVec.ofNat 128 (2 ^ 119 + (2 ^ 118 - 1))).toNat

/-- REF reached 0: the block is freed and its GBN appended to the owning domain's free ring (17 R369). -/
def kvFree (s : State) (pa slot dom gbn : Nat) (e : BitVec 128) : State :=
  let s1 := performWrites s (.deep pa) 16 (kvClean (e &&& ~~~(1#128 <<< 119))) (stampOrdered 0) slot dom
  let base := (s1.domWord dom 11).toNat
  let len := (s1.domWord dom 12).toNat
  let t := s1.kvTails.get dom 0
  let s2 := if len = 0 then s1 else performWrite s1 (.deep ((base + 64 + 8 * (t % len)) % 2 ^ 34)) 8 gbn (stampOrdered 0) slot dom
  let s3 := performWrite s2 (.deep (base % 2 ^ 34)) 8 ((t + 1) % 2 ^ 64) (stampOrdered 0) slot dom
  { s3 with kvTails := s3.kvTails.put dom (t + 1) 0 }

/-- REF of a resolved block changes by one, or is refused (13 R281). -/
def kvCount1 (s : State) (slot dom gbn : Nat) (b : KvBlock) (up : Bool) : State × Nat :=
  let n := kvRef b.entry
  if (up && n = 65535) || (!up && n = 0) then (s, 0x0900)
  else
    match b.home with
    | none => (s, 0)
    | some pa =>
      let m := if up then n + 1 else n - 1
      let e : BitVec 128 := (b.entry &&& ~~~(0xFFFF#128 <<< 96)) ||| (BitVec.ofNat 128 m <<< 96)
      if m = 0 then (kvFree s pa slot dom gbn e, 0)
      else (performWrites s (.deep pa) 16 (kvClean e) (stampOrdered 0) slot dom, 0)

/-- One entry of KVPUT with MODE 1 or 2 (17 R367): entry s[d] + `chunks`. -/
def kvCountEntry (s : State) (slot : Nat) (e : JEntry) : State × Nat :=
  let j := e.vd.toNat + e.chunks
  let release := e.kvMode = 2
  match kvTable s slot e j (if release then .write else .read) with
  | (s1, .error c) => (s1, c)
  | (s1, .ok (w, p)) =>
    if !w.getLsbD 63 then (s1, 0)
    else
      match kvBlock s1 slot e.dom w with
      | (s2, .error c) => (kvLog s2 slot e.dom c (e.va + BitVec.ofNat 64 (8 * j)), c)
      | (s2, .ok b) =>
        match kvCount1 s2 slot e.dom (bitsOf w 0 34) b (!release) with
        | (s3, 0) =>
          if release then
            -- V clears, the reserved bits are written as zero (13 R279)
            (performWrite s3 p 8 (w &&& 0x03FF0003FFFFFFFF#64).toNat (stampOrdered 0) slot e.dom, 0)
          else (s3, 0)
        | (s3, c) => (s3, c)

/-- The entries a KVPUT with MODE 1 or 2 goes through. -/
def kvEntries (e : JEntry) : Nat := (if e.kvMode = 1 then e.vb.toNat else e.vb.toNat / 64) - e.vd.toNat

/-- The blocks a KVGET or a KVPUT with MODE 0 touches. -/
def kvBlocks (e : JEntry) : Nat := (e.vb.toNat + e.kvCount - 1) / 64 - e.vb.toNat / 64 + 1

/-- The command goes through table entries, not through blocks. -/
def JEntry.counts (e : JEntry) : Bool := e.fn = 3 && e.kvMode != 0

/-- The next part of a KV command has been done, with a code; a stop by CANCEL takes effect behind it (17 R373). -/
def kvAdvance (s : State) (slot id code : Nat) : State :=
  match (s.slot slot).journal.find? (fun e => e.id = id) with
  | none => s
  | some e =>
    let n := e.chunks + (if code = 0 || e.counts then 1 else 0)
    let total := if e.counts then kvEntries e else kvBlocks e
    let s1 := modEntry s slot id (fun x => { x with chunks := n, err := if x.err = 0 then code else x.err })
    if code ≠ 0 && !e.counts then finishCopy s1 slot id code
    else if e.stop then finishCopy s1 slot id 0x0400
    else if total ≤ n then finishCopy s1 slot id 0
    else
      let bytes := if e.counts then 128 else e.first * (kvPositions e (e.vb.toNat / 64 + n)).length
      let due := movedAt s1 (coreOf slot) e.q bytes
      modEntry s1 slot id (fun x => { x with next := due })

/-- The next lookup of the KV command due in an own queue, with all it moves or counts. -/
def kvPart (s : State) (core q : Nat) : State :=
  match (copyFlight s core q).find? (fun x => (x.2.fn = 2 || x.2.fn = 3) && decide (x.2.next ≤ s.cycle)) with
  | none => s
  | some (slot, e) =>
    if e.counts && kvEntries e = 0 then finishCopy s slot e.id 0
    else
      let r := if e.counts then kvCountEntry s slot e else kvMoveBlock s slot e
      kvAdvance r.1 slot e.id r.2

/-- KV_OWNER_LOOKUP: the lookup due in an own queue; or a request of another package, which resolves (0), retains (1)
or releases (2) a block of a domain. -/
def execKvOwnerLookup (src : KvSource) (s : State) : Host.Outcome State Fault Refusal :=
  match src with
  | .own core q => .next (kvPart s core.toNat q.toNat)
  | .peer dom gbn op =>
    match kvResolve s s.me dom.toNat gbn.toNat with
    | (s1, .error c) => .next (kvLog s1 s.me dom.toNat c 0)
    | (s1, .ok b) =>
      if op = 1 || op = 2 then .next (kvCount1 s1 s.me dom.toNat gbn.toNat b (op = 1)).1 else .next s1

/-! ### Messages (11 R215, 17 R370) -/

/-- The cluster of a record's home slice. -/
def homeCluster (pa : Nat) : Nat := 4 * (pa / 2 ^ 32 % 4) + pa / 256 % 64 / 16

/-- The payload's units go to the record's buffer with hardware writes; the buffer's window addresses are those of the
receiving cluster's first core. -/
def putPayload (s : State) (cl dom : Nat) (buf : Word) (l : List Nat) : State × Nat :=
  l.foldl
    (fun (acc : State × Nat) v =>
      let va := buf + BitVec.ofNat 64 acc.2
      match translate acc.1 (4 * cl) dom va.toNat .write true (16 * cl) with
      | (s1, .error r) => (logError s1 cl 4 (16 * cl) dom 0 r 0 0 va 0, acc.2 + 8)
      | (s1, .ok p) =>
        (match p with
         | .window _ => unitStore s1 p 8 v
         | _ => performWrite s1 p 8 v (stampOrdered 0) (16 * cl) dom, acc.2 + 8))
    (s, 0)

/-- Delivery to a record of this package: an error code, or 0, and whether the record has found its place; `msg` names the command
that waits for it. -/
def deliverMessage (s : State) (ref : RecRef) (handler : Word) (l : List Nat) (msg : Option (Nat × Nat)) :
    State × Nat × Bool :=
  let pa := ref.pa
  let len := 8 * l.length
  let (s0, unreadable) := recCheck s pa noSlot ref.dom
  if unreadable then (s0, 0x200, true)
  else if recState s0 pa ≠ stDormant then (s0, 0x0B00, true)
  else if (recReg s0 pa 4).toNat < len then (s0, 0x0C00, true)
  else
    let buf := recReg s0 pa 3
    let cl := homeCluster pa
    let s1 := recStateHw s0 pa stRunning
    let s2 := (putPayload s1 cl ref.dom buf l).1
    let s3 := recPutHw s2 pa 4 4 (handler.toNat % 2 ^ 32)
    let s4 := recPutHw s3 pa 24 8 buf.toNat
    let s5 := recPutHw s4 pa 32 8 len
    -- a record that waits for joins counts nowhere (12 R260)
    let s6 := if recJoinc s5 pa = 0 then countAccepted s5 pa else uncountDormant s5 pa
    let r := admitKept s6 cl ref msg
    (r.1, 0, r.2)

/-- The same at a record of another package: claimed, written and readied there. Its page tables and its event bits are not this
machine's, so where the buffer stands and whether an event condition holds are free values (DESIGN CHOICE, log entry 51). -/
def deliverRemote (s : State) (pkg pa : Nat) (handler : Word) (l : List Nat) : State × Nat :=
  let get (off n : Nat) : Nat := rawRead s (.remote pkg (pa + off)) n
  let put (t : State) (off n v : Nat) : State := rawWrite t (.remote pkg (pa + off)) n v
  let len := 8 * l.length
  if get 15 1 % 16 ≠ stDormant then (s, 0x0B00)
  else if get 48 8 < len then (s, 0x0C00)
  else
    let (at', s1) := takeFree s 31
    let (holds, s2) := takeFree s1 1
    let s3 := (l.foldl
      (fun (acc : State × Nat) v => (rawWrite acc.1 (.remote pkg ((8 * at'.toNat + acc.2) % 2 ^ 34)) 8 v, acc.2 + 8)) (s2, 0)).1
    let s4 := put (put (put s3 4 4 (handler.toNat % 2 ^ 32)) 24 8 (get 40 8)) 32 8 len
    let st :=
      if get 16 2 ≠ 0 then stWaitJoin else if get 18 2 ≠ 0 && holds = 0 then stWaitEv else stRunning
    (put s4 15 1 (get 15 1 / 16 % 8 * 16 + st), 0)

/-- The MSG of a journal entry: its source is read, then its record is claimed; the answer tells whether it is done. -/
def sendMessage (s : State) (slot : Nat) (e : JEntry) : State × Nat × Bool :=
  let n := e.msgLen / 8
  match checkUnits s slot e .read e.src 0 n (sourceAllowed slot e) with
  | (s1, 0) =>
    match readUnitsAt s1 slot e e.src 0 n with
    | (s2, .error c) => (s2, c, true)
    | (s2, .ok l) =>
      match translate s2 (coreOf slot) e.dom e.vb.toNat .write e.sup slot with
      | (s3, .error r) => (logError s3 (clusterOf slot) 4 slot e.dom 0 r 0 0 e.vb 0, 0x100 + r, true)
      | (s3, .ok (.deep pa)) =>
        let sup :=
          match pageEntry s3 (coreOf slot) e.dom e.vb.toNat with
          | some t => t.leaf.getLsbD 7
          | none => false
        deliverMessage s3 ⟨e.vb, e.dom, pa, sup⟩ e.vd l (some (slot, e.id))
      | (s3, .ok (.remote pkg pa)) =>
        if s3.ring.failed.contains pkg then (s3, 0x0E00, true)
        else
          let r := deliverRemote s3 pkg pa e.vd l
          (r.1, r.2, true)
      | (s3, .ok _) => (logError s3 (clusterOf slot) 4 slot e.dom 0 12 0 0 e.vb 0, 0x10C, true)
  | (s1, c) => (s1, c, true)

/-- A message whose record is claimed and kept for want of a place: it settles once the record has one. -/
def JEntry.claimed (e : JEntry) : Bool := e.fn = 4 && e.chunks != 0

/-- The MSG due in a queue is delivered; one that CANCEL stopped before its claim settles as cancelled (17 R373). -/
def messagePart (s : State) (slot : Nat) (e : JEntry) : State :=
  if e.stop then finishCopy s slot e.id 0x0400
  else
    let r := sendMessage s slot e
    let s1 := modEntry r.1 slot e.id (fun x => { x with chunks := 1 })
    if r.2.2 then finishCopy s1 slot e.id r.2.1 else s1

/-- MESSAGE_DELIVERY: the message due in an own queue is delivered; or one of another package arrives for a record of
the context's domain. -/
def execMessageDelivery (src : MsgSource) (s : State) : Host.Outcome State Fault Refusal :=
  match src with
  | .own core q =>
    match (copyFlight s core.toNat q.toNat).find?
        (fun x => x.2.fn = 4 && !x.2.claimed && decide (x.2.next ≤ s.cycle)) with
    | none => .next s
    | some (slot, e) => .next (messagePart s slot e)
  | .peer handler va record sup payload =>
    let units := (List.range (payload.length / 8)).map (fun i =>
      (List.range 8).foldl (fun n b => n + ((payload[8 * i + b]?).getD 0).toNat * 256 ^ b) 0)
    .next (deliverMessage s ⟨va, s.cur.dom.toNat, record.toNat, sup⟩ handler units none).1

/-! ### Code tables (17 R371, 18 R378) -/

/-- The table's code lengths are valid: some symbol is used, no length above 15, the tail zero, the sum at most 1. -/
def tableOk (l : List Nat) : Bool :=
  let h := l.take 256
  decide (256 ≤ l.length) && h.all (fun n => decide (n ≤ 15)) && h.any (fun n => n != 0) &&
    (l.drop 256).all (fun n => n = 0) &&
    decide (h.foldl (fun t n => if n = 0 then t else t + 2 ^ (15 - n)) 0 ≤ 2 ^ 15)

/-- The bytes of a list of 8-byte units. -/
def unitBytes (l : List Nat) : List Nat := l.flatMap (fun v => (List.range 8).map (fun b => v / 256 ^ b % 256))

/-- DTLD reads its table and puts it into force. -/
def loadTable (s : State) (slot : Nat) (e : JEntry) : State × Nat :=
  match readUnitsAt s slot e e.src 0 (e.vb.toNat / 8) with
  | (s1, .error c) => (s1, c)
  | (s1, .ok l) =>
    let bytes := unitBytes l
    if tableOk bytes then ({ s1 with codeTabs := s1.codeTabs.set (e.vd.toNat % 16) (bytes.take 256) }, 0) else (s1, 0x0D00)

/-! ### Starts and chunks (17 R349, R363, R365) -/

/-- A started command sets out: marking, or the time of its first part. -/
def beginCopy (s : State) (slot : Nat) (e : JEntry) : State :=
  let core := coreOf slot
  let first (t : State) (bytes : Nat) : State :=
    let due := movedAt t core e.q bytes
    modEntry t slot e.id (fun x => { x with next := Nat.max due (t.cycle + 1) })
  if e.fn ≤ 1 then
    if e.fn = 1 && !mapOk e.map (e.aux.getLsbD 2) then finishCopy s slot e.id 0x0800
    else
      match markDestination s slot e e.len with
      | (s1, 0) =>
        -- a replay may find every chunk moved (20 R412, R420)
        if e.len ≤ 4096 * e.chunks then finishCopy s1 slot e.id 0
        else first s1 (Nat.min 4096 (e.len - 4096 * e.chunks))
      | (s1, c) => finishCopy s1 slot e.id c
  else if e.fn = 4 then if e.claimed then finishCopy s slot e.id 0 else first s e.msgLen
  else if e.fn = 5 then first s e.vb.toNat
  else if (if e.counts then decide (0 < kvEntries e && kvEntries e ≤ e.chunks) else decide (kvBlocks e ≤ e.chunks)) then
    finishCopy s slot e.id 0
  else if e.counts then first s 128
  else first s ((if e.first = 0 then kvFirst s slot e else e.first) * (kvPositions e (e.vb.toNat / 64 + e.chunks)).length)

/-- A journal entry is read: an error is found, and one of two bits fails its command (20 R427; DESIGN CHOICE, log entry 86). -/
def readJournal (s : State) (slot : Nat) (e : JEntry) : State × Bool :=
  if e.flips = 0 then (s, true)
  else
    let s1 := logFlips s slot e.dom 6 (BitVec.ofNat 64 (96 + journalIndex s slot e.id)) e.flips
    let s2 := modEntry s1 slot e.id (fun x => { x with flips := 0 })
    if popcount e.flips < 2 then (s2, true) else (finishCopy s2 slot e.id 0x200, false)

/-- The command at the head of a queue starts, if it may. -/
def startCopy (s0 : State) (core q : Nat) : State :=
  match firstBy pushedBefore (copyQueue s0 core q) with
  | none => s0
  | some (slot, e) =>
    let (s, ok) := readJournal s0 slot e
    if !ok then s
    else if s.cycle ≤ e.pushed || decide (8 ≤ (copyFlight s core q).length) then s
    else
      let token : Option State :=
        if e.started then some s
        else
          match waitToken e.w1 with
          | none => some s
          | some t => takeToken s slot t
      match token with
      | none => s
      | some s1 =>
        let s2 := s1.modSlot slot (fun x => { x with progress := 0, moved := true })
        beginCopy (modEntry s2 slot e.id (fun x => { x with started := true, running := true })) slot { e with flips := 0 }

/-- COPY_COMMAND_START of the context's core and queue. -/
def execCopyCommandStart (s : State) : Host.Outcome State Fault Refusal := .next (startCopy s (coreOf s.me) s.cur.q.toNat)

/-- One 4 KiB chunk of the packed side: its source units are checked and read, once their translations are there, then written; a failed
chunk writes nothing. -/
def copyChunk (s : State) (slot : Nat) (e : JEntry) : State :=
  let o := 4096 * e.chunks
  let n := Nat.min 4096 (e.len - o) / 8
  match stalledUnit s slot e o n with
  | some p => noteStall s slot p
  | none =>
    match checkUnits s slot e .read e.src o n (sourceAllowed slot e) with
    | (s1, 0) =>
      if unitsWait s1 slot e e.src o n then s1
      else
        match readUnitsAt s1 slot e e.src o n with
        | (s2, .error c) => finishCopy s2 slot e.id c
        | (s2, .ok l) =>
          match writeUnitsAt s2 slot e o l with
          | (s3, 0) =>
            let s4 := modEntry s3 slot e.id (fun x => { x with chunks := x.chunks + 1 })
            if e.stop then finishCopy s4 slot e.id 0x0400
            else if e.len ≤ o + 4096 then finishCopy s4 slot e.id 0
            else
              let due := movedAt s4 (coreOf slot) e.q (Nat.min 4096 (e.len - (o + 4096)))
              modEntry s4 slot e.id (fun x => { x with next := due })
          | (s3, c) => finishCopy s3 slot e.id c
    | (s1, c) => finishCopy s1 slot e.id c

/-- The command in flight whose next part is due does it; a message is a step of its own. -/
def copyPart (s0 : State) (core q : Nat) : State :=
  let ready := (copyFlight s0 core q).filter (fun x => !x.2.claimed && decide (x.2.next ≤ s0.cycle))
  match firstBy (fun a b => decide (a.2.next < b.2.next) || (a.2.next = b.2.next && pushedBefore a b)) ready with
  | none => s0
  | some (slot, e) =>
    let (s, ok) := readJournal s0 slot e
    let c : Context := ⟨BitVec.ofNat 8 slot, .loader, BitVec.ofNat 1 q, BitVec.ofNat 4 e.dom, .up, 0⟩
    if !ok then s
    else if e.fn ≤ 1 then copyChunk s slot e
    else if e.fn = 4 then
      { s with agenda := .event c (.messageDelivery (.own (BitVec.ofNat 6 core) (BitVec.ofNat 1 q))) :: s.agenda }
    else if e.fn = 5 then
      let r := loadTable s slot e
      finishCopy r.1 slot e.id r.2
    else kvPart s core q

end Sys2Proof.Machine
end

