-- ==== Sys2Proof/Machine/CopyInstr.lean ====
section
/-! DEFINITION. The token and barrier instructions (17 R355 to R360) and the pushes of copy-unit commands
(17 R361 to R371). -/

namespace Sys2Proof.Machine

/-! ### Tokens -/

/-- TKSIG (17 R345, R346, R360). -/
def execTksig (st : BitVec 3) (n : BitVec 4) (s : State) : Result :=
  .next (gate (.tksig st n) true anyRole false id
    (fun s =>
      release s (fun s =>
        let coming := ((s.slot s.me).tokPend.filter (fun e => e = (n.toNat, true))).length
        if 255 ≤ tokenCount s s.me n.toNat + coming then .trap s 10 (BitVec.setWidth 64 n)
        else .done (s.modSlot s.me (fun x => { x with tokPend := x.tokPend ++ [(n.toNat, true)] })))) s)

/-- TKWAIT (17 R343, R360). -/
def execTkwait (st : BitVec 3) (n : BitVec 4) (s : State) : Result :=
  .next (gate (.tkwait st n) true anyRole false id
    (fun s =>
      if 0 < tokenNow s s.me n.toNat then
        .done (s.modSlot s.me (fun x => { x with tokPend := x.tokPend ++ [(n.toNat, false)] }))
      else .wait s 5) s)

/-! ### Barriers -/

/-- The barrier at an address: ALIGN, then XLATE, with reason 12 for a level that 17 R352 does not allow. -/
def checkBarrier (s : State) (va : Word) (k : AccKind) (next : State → Place → Did) : Did :=
  if va.toNat % 16 ≠ 0 then .trap s 3 va
  else
    match translate s (coreOf s.me) (s.slot s.me).domain va.toNat k s.myRole.sup s.me with
    | (s1, .error r) => .trap (logXlate s1 s.me r va) 4 va
    | (s1, .ok p) => if p.stamped then next s1 p else .trap (logXlate s1 s.me 12 va) 4 va

/-- An update by an instruction: earlier accesses first, then the barrier is read; ECC traps with its address. -/
def updateBarrier (s : State) (va : Word) (next : State → Place → Bar → Did) : Did :=
  checkBarrier s va .write (fun s p =>
    release s (fun s =>
      if undoStalls s p then .wait (noteStall s s.me p) 10
      else
        match barRead s p s.me (s.slot s.me).domain with
        | (s1, none) => .trap s1 15 va
        | (s1, some b) => next s1 p b))

/-- The timed latency of a barrier instruction: its target's plus 16. -/
def barLatency (s : State) (p : Place) : Nat := accessLatency s.me p + 16

/-- An arrival count outside 1 to 1,048,575. -/
def badCount (n : Word) : Bool := n = 0 || decide (1048575 < n.toNat)

/-- TBINIT (17 R356). -/
def execTbinit (st : BitVec 3) (a b : BitVec 5) (s : State) : Result :=
  .next (gate (.tbinit st a b) true memRole false id
    (operands { srcs := [a, b] }
      (fun v s =>
        let n := v.getD 1 0
        if badCount n then .trap s 1 n
        else
          checkBarrier s (v.getD 0 0) .write (fun s p =>
            release s (fun s =>
              if undoStalls s p then .wait (noteStall s s.me p) 10
              else
                .done (barWrite s p ⟨0, n.toNat, n.toNat, 0, 0, (s.slot s.me).scope % 4096, false, true, false⟩ s.me
                  (s.slot s.me).domain))))) s)

/-- Post an expectation of `n` bytes, or trap EXPOVF (17 R357); a barrier with INIT 0 takes no update. -/
def postExpect (s : State) (va : Word) (p : Place) (b : Bar) (n : Nat) (next : State → Did) : Did :=
  let put (s : State) (c : Bar) : State := barWrite s p c s.me (s.slot s.me).domain
  if !b.init || n = 0 then next s
  else if 2 ^ 48 - 1 < b.pbytes + n then .trap (put s (b.error 0x0500)) 9 va
  else next (put s { b with pbytes := b.pbytes + n })

/-- TBEXP (17 R357). -/
def execTbexp (st : BitVec 3) (a b : BitVec 5) (s : State) : Result :=
  .next (gate (.tbexp st a b) true memRole false id
    (operands { srcs := [a, b] }
      (fun v s =>
        updateBarrier s (v.getD 0 0) (fun s p x => postExpect s (v.getD 0 0) p x (v.getD 1 0).toNat (fun s => .done s)))) s)

/-- TBARV (17 R358). -/
def execTbarv (st : BitVec 3) (d a b : BitVec 5) (s : State) : Result :=
  .next (gate (.tbarv st d a b) true memRole false id
    (operands { srcs := [a, b], dst := some d }
      (fun v s =>
        let n := v.getD 1 0
        if badCount n then .trap s 1 n
        else
          updateBarrier s (v.getD 0 0) (fun s p x =>
            let dom := (s.slot s.me).domain
            let answer (s : State) (w : Word) : Did := .done (writeInterlocked s d (barLatency s p) w)
            if !x.init then answer s (statusWord 2)
            else if x.parv < n.toNat then answer (barWrite s p (x.error 0x0600) s.me dom) (statusWord 1)
            else
              let r := barTest s p { x with parv := x.parv - n.toNat }
              answer (barWrite r.1 p r.2 s.me dom) (BitVec.ofNat 64 x.phase)))) s)

/-- What a TBWAIT returns (17 R359). -/
def barStatus (b : Bar) : Word :=
  BitVec.ofNat 64 (b.err + (if b.multi then 2 ^ 16 else 0) + (if b.init then 2 ^ 17 else 0) + (if b.canc then 2 ^ 18 else 0) +
    b.phase * 2 ^ 20)

/-- The role's TBWAIT is over. -/
def endWait (s : State) : State := s.modMe (fun c => { c with barWait := none })

/-- A TBWAIT whose phase has completed returns. -/
def finishWait (s : State) (d : BitVec 5) (va : Word) (p : Place) : Did :=
  match barRead s p s.me (s.slot s.me).domain with
  | (s1, none) => .trap (endWait s1) 15 va
  | (s1, some b) => .done (writeInterlocked (endWait s1) d (barLatency s1 p) (barStatus b))

/-- A TBWAIT meets the barrier for the first time: it completes, or takes a wait entry, or polls. -/
def startWait (s : State) (d : BitVec 5) (va : Word) (phase : Nat) : Did :=
  checkBarrier s va .read (fun s p =>
    match barRead s p s.me (s.slot s.me).domain with
    | (s1, none) => .trap s1 15 va
    | (s1, some b) =>
      if b.phase ≠ phase then finishWait s1 d va p
      else
        let entry := decide (entriesAt s1 (barHome p) < 16)
        .wait (s1.modMe (fun c =>
          { c with barWait := some ⟨p, va, phase, entry, s1.cycle + 256, false, false⟩ })) 8)

/-- TBWAIT (17 R359). -/
def execTbwait (st : BitVec 3) (d a b : BitVec 5) (s : State) : Result :=
  .next (gate (.tbwait st d a b) true memRole false id
    (operands { srcs := [a, b], dst := some d }
      (fun v s =>
        let sb := v.getD 1 0
        if (s.slot s.me).timed then trapFree s 1
        else if bitsOf sb 4 60 ≠ 0 then .trap s 1 sb
        else
          match s.myRole.barWait with
          | none => startWait s d (v.getD 0 0) (bitsOf sb 0 4)
          | some w =>
            if w.ecc then .trap (endWait s) 15 w.va
            else if w.done then finishWait s d w.va w.place
            else .wait s 8)) s)

/-- TBWAIT_POLL of the context's role: a waiter without an entry tests the barrier again every 256 cycles. -/
def execTbwaitPoll (s : State) : Result :=
  match s.myRole.barWait with
  | none => .next s
  | some w =>
    if w.entry || w.done || s.cycle < w.next then .next s
    else
      match barRead s w.place s.me (s.slot s.me).domain with
      | (s1, none) => .next s1
      | (s1, some b) =>
        .next (s1.modMe (fun c =>
          { c with barWait := some { w with done := b.phase != w.phase, next := s1.cycle + 256 } }))

/-! ### Pushes (17 R347, R348, R361, R362) -/

/-- The role waits for a reply before it goes on. -/
def awaitReply (s : State) (lat : Nat) : State :=
  let (due, s1) := dueIn s lat
  s1.modMe (fun c => { c with blockUntil := Nat.max c.blockUntil due })

/-- What a push captures beside its operands. -/
def newEntry (s : State) (i : Instr) (v : List Word) (map : BitVec 512) (id : Nat) : JEntry :=
  { id := id, w0 := (encode i).1, w1 := (encode i).2, vd := v.getD 0 0, va := v.getD 1 0, vb := v.getD 2 0,
    vc := v.getD 3 0, map := map, dom := (s.slot s.me).domain, sup := s.myRole.sup, dph := (s.slot s.me).dphaser,
    role := s.cur.role, addr := s.myRole.pc,
    scope := match (s.slot s.me).strand with
      | some t => if t.boot then noScope else t.scope
      | none => noScope,
    chunks := 0, next := 0, started := false, running := false, discarded := false, replayed := false, stop := false,
    err := 0, finished := false, pushed := s.cycle, marked := 0 }

/-- The command enters its queue and the slot's journal, and counts in its scope (17 R348, R373). -/
def enterCopy (s : State) (i : Instr) (v : List Word) (map : BitVec 512) : State :=
  let (id, s1) := takeSeq s
  let e := newEntry s1 i v map id
  cmdInc (s1.modSlot s1.me (fun x => { x with journal := x.journal ++ [e] })) e.scope

/-- The queue or the journal is full: the code of the block. -/
def copyFull (s : State) (x : ExOps) : Option Nat :=
  if 32 ≤ (copyQueue s (coreOf s.me) x.q.toNat).length then some 4
  else if 32 ≤ (s.slot s.me).journal.length then some 11
  else none

/-- The check of a command's barrier operand: 0 names none, and then neither EXP nor ARV may stand. -/
def checkOwnBarrier (s : State) (x : ExOps) (exp : Bool) (c : Word) (next : State → Option Place → Did) : Did :=
  if c = 0 then if exp || x.aux.getLsbD 1 then .trap s 1 c else next s none
  else checkBarrier s c .write (fun s p => next s (some p))

/-- The expectation of a copy is posted as TBEXP posts it, with its release, and the push waits for the reply. -/
def postOwn (s : State) (c : Word) (bar : Option Place) (len : Nat) (next : State → Did) : Did :=
  match bar with
  | none => next s
  | some p =>
    release s (fun s =>
      if len = 0 then next s
      else if undoStalls s p then .wait (noteStall s s.me p) 10
      else
        match barRead s p s.me (s.slot s.me).domain with
        | (s1, none) => .trap s1 15 c
        | (s1, some b) => postExpect s1 c p b len (fun s => next (awaitReply s (barLatency s p))))

/-- A push of a copy-unit command, of the supervisor alone where `sup` says so. `own` makes the function's checks and hands on the map and
the length to expect. -/
def pushCopy (i : Instr) (x : ExOps) (copy sup : Bool) (own : State → List Word → (State → BitVec 512 → Nat → Did) → Did)
    (s : State) : State :=
  let exp := copy && x.aux.getLsbD 0
  gate i true anyRole sup id
    (fun s =>
      match copyFull s x with
      | some why => .wait s why
      | none =>
        operands { srcs := [x.d, x.a, x.b, x.c], early := true }
          (fun v s =>
            checkOwnBarrier s x exp (v.getD 3 0) (fun s bar =>
              own s v (fun s map len =>
                if exp then postOwn s (v.getD 3 0) bar len (fun s => .done (enterCopy s i v map))
                else .done (enterCopy s i v map)))) s) s

/-- A multiple of `n`, or ALIGN with the operand. -/
def multipleOf (n : Nat) (w : Word) (s : State) (next : Did) : Did := if w.toNat % n ≠ 0 then .trap s 3 w else next

/-- CPY (17 R363). -/
def execCpy (st : BitVec 3) (x : ExOps) (s : State) : Result :=
  .next (pushCopy (.cpy st x) x true false
    (fun s v next =>
      let len := v.getD 2 0
      multipleOf 8 (v.getD 0 0) s (multipleOf 8 (v.getD 1 0) s (multipleOf 8 len s
        (if len = 0 || decide (2 ^ 32 < len.toNat) then .trap s 1 len else next s 0 len.toNat)))) s)

/-- The tensor map is read as a relaxed ordered load that the role waits for, behind the role's accesses to its units (17 R364,
14 R288). -/
def readMap (s : State) (va : Word) (next : State → BitVec 512 → Did) : Did :=
  checkAddress s va 64 .read (fun s p =>
    match performedLine s p with
    | (s1, false) => .wait s1 10
    | (s1, true) =>
      match (if p.stamped then readUnits s1 p 64 s1.me (s1.slot s1.me).domain else (s1, some (rawRead s1 p 64))) with
      | (s2, none) => .trap s2 15 va
      | (s2, some m) => next (awaitReply s2 (accessTime s2 p va)) (BitVec.ofNat 512 m))

/-- CPYT (17 R364, R365): an invalid map posts nothing and does not trap. -/
def execCpyt (st : BitVec 3) (x : ExOps) (s : State) : Result :=
  .next (pushCopy (.cpyt st x) x true false
    (fun s v next =>
      multipleOf 8 (v.getD 0 0) s (multipleOf 8 (v.getD 1 0) s (multipleOf 64 (v.getD 2 0) s
        (readMap s (v.getD 2 0) (fun s m => next s m (if mapOk m (x.aux.getLsbD 2) then mapLength m else 0)))))) s)

/-- KVGET (17 R366). -/
def execKvget (st : BitVec 3) (x : ExOps) (s : State) : Result :=
  .next (pushCopy (.kvget st x) x false false (fun s _ next => next s 0 0) s)

/-- KVPUT with MODE 0, a store (17 R366, R367). -/
def execKvputStore (st : BitVec 3) (x : ExOps) (s : State) : Result :=
  .next (pushCopy (.kvputStore st x) x false false (fun s _ next => next s 0 0) s)

/-- KVPUT with MODE 1, a retain (17 R367). -/
def execKvputRetain (st : BitVec 3) (x : ExOps) (s : State) : Result :=
  .next (pushCopy (.kvputRetain st x) x false false (fun s _ next => next s 0 0) s)

/-- KVPUT with MODE 2, a release (17 R367, R368). -/
def execKvputRelease (st : BitVec 3) (x : ExOps) (s : State) : Result :=
  .next (pushCopy (.kvputRelease st x) x false false (fun s _ next => next s 0 0) s)

/-- MSG (17 R370). -/
def execMsg (st : BitVec 3) (x : ExOps) (s : State) : Result :=
  .next (pushCopy (.msg st x) x false false
    (fun s v next =>
      if badTarget (v.getD 0 0) then .trap s 1 (v.getD 0 0)
      else multipleOf 8 (v.getD 1 0) s (multipleOf 64 (v.getD 2 0) s (next s 0 0))) s)

/-- DTLD (17 R371): supervisor, its table in the local deep store. -/
def execDtld (st : BitVec 3) (x : ExOps) (s : State) : Result :=
  .next (pushCopy (.dtld st x) x false true
    (fun s v next =>
      let id := v.getD 0 0
      let tab := v.getD 1 0
      let len := v.getD 2 0
      if bitsOf id 4 60 ≠ 0 then .trap s 1 id
      else
        multipleOf 64 tab s (multipleOf 64 len s
          (if len = 0 || decide (65536 < len.toNat) then .trap s 1 len
           else
             match translate s (coreOf s.me) (s.slot s.me).domain tab.toNat .read true s.me with
             | (s1, .ok (.deep _)) => next s1 0 0
             | (s1, .ok _) => .trap s1 1 tab
             | (s1, .error _) => next s1 0 0))) s)

end Sys2Proof.Machine
end

