-- ==== Sys2Proof/Machine/Image.lean ====
section
/-! DEFINITION. The context of a slot as words: the layout of a context image (20 R417, R418), which JRNL stores and
loads and diagnostic space 4 reaches (20 R426); rows, tiles and the key register with their stale parts (11 R220). -/

namespace Sys2Proof.Machine

/-! ### Rows, tiles, masks, predicates (08 R148, 09 R180, 10 R195, R196) -/

def Slot.rowTagOf (x : Slot) (n : Nat) : Nat := x.rowTag.get n 0
def Slot.tileTagOf (x : Slot) (n : Nat) : Nat := x.tileTag.get n 0
def Slot.maskOf (x : Slot) (n : Nat) : BitVec 1024 := x.masks.get n 0
def Slot.opOf (x : Slot) (n : Nat) : BitVec 2048 := x.opRegs.get n 0

/-- The bits of a predicate of kind 0 pm, 1 pk, 2 pn. -/
def predWidth (kind : Nat) : Nat :=
  match kind with
  | 0 => 160
  | 1 => 768
  | _ => 256

def predOnes (kind : Nat) : BitVec 768 := BitVec.ofNat 768 (2 ^ predWidth kind - 1)
def Slot.predOf (x : Slot) (kind n : Nat) : BitVec 768 := x.preds.get (4 * kind + n) (predOnes kind)
def Slot.setPred (x : Slot) (kind n : Nat) (v : BitVec 768) : Slot :=
  { x with preds := x.preds.put (4 * kind + n) (v &&& predOnes kind) (predOnes kind) }

/-- The bits of every 64-byte sector that `b` names. -/
def sectorMask (b : BitVec 16) : Row :=
  (List.range 16).foldl (fun (m : Row) i => if b.getLsbD i then m ||| (BitVec.ofNat 8192 (2 ^ 512 - 1) <<< (512 * i)) else m) 0

/-- The bits of every tile row that `b` names. -/
def tileRowMask (b : BitVec 256) : Tile :=
  (List.range 256).foldl (fun (m : Tile) i => if b.getLsbD i then m ||| (BitVec.ofNat 65536 (2 ^ 256 - 1) <<< (256 * i)) else m) 0

/-- A row as instructions and commands read it: a stale sector reads zero. -/
def Slot.rowRead (x : Slot) (n : Nat) : Row :=
  let st := x.rowStale.get n 0
  let r := x.rows.get n 0
  if st = 0 then r else r &&& ~~~sectorMask st

/-- A tile as instructions and commands read it. -/
def Slot.tileRead (x : Slot) (n : Nat) : Tile :=
  let st := x.tileStale.get n 0
  let r := x.tiles.get n 0
  if st = 0 then r else r &&& ~~~tileRowMask st

/-- The key register as commands read it. -/
def Slot.keyRead (x : Slot) : Row := if x.keyStale then 0 else x.key

/-- The words of object `k`, of `per` words each, that `touched` names hold fresh check bits (20 R427). -/
def freshWords (l : Sp Flips) (per k : Nat) (touched : Nat → Bool) : Sp Flips :=
  l.filter (fun e => !(e.1 / per = k && touched (e.1 % per)))

/-- Write sectors of a row: the bytes of a stale sector that the write does not cover become zero. -/
def Slot.rowWrite (x : Slot) (n : Nat) (v : Row) (sectors : BitVec 16) : Slot :=
  let m := sectorMask sectors
  let st := x.rowStale.get n 0
  let kept := (x.rows.get n 0) &&& ~~~m
  let new := (if sectors = 0xFFFF then v else (v &&& m) ||| kept)
  { x with rows := x.rows.put n new 0, rowStale := x.rowStale.put n (st &&& ~~~sectors) 0,
           rowErr := freshWords x.rowErr 128 n (fun w => sectors.getLsbD (w / 8)) }

/-- Write rows of a tile. -/
def Slot.tileWrite (x : Slot) (n : Nat) (v : Tile) (rows : BitVec 256) : Slot :=
  let st := x.tileStale.get n 0
  let m := tileRowMask rows
  let new := if rows = BitVec.allOnes 256 then v else (v &&& m) ||| (x.tiles.get n 0 &&& ~~~m)
  { x with tiles := x.tiles.put n new 0, tileStale := x.tileStale.put n (st &&& ~~~rows) 0,
           tileErr := freshWords x.tileErr 1024 n (fun w => rows.getLsbD (w / 4)) }

/-- An object's number: rows from 0, tiles from 160, the key register 164; masks and operator registers carry no tag. -/
def Obj.index (o : Obj) : Option Nat :=
  match o with
  | .row n => some n
  | .tile n => some (160 + n)
  | .key => some 164
  | _ => none

/-- A tag is set; what an earlier failure left no longer counts for it (07 R142, R143). -/
def Slot.setRowTag (x : Slot) (n t : Nat) : Slot := { x with rowTag := x.rowTag.put n t 0, unfailed := x.unfailed.del n }
def Slot.setTileTag (x : Slot) (n t : Nat) : Slot :=
  { x with tileTag := x.tileTag.put n t 0, unfailed := x.unfailed.del (160 + n) }
def Slot.setKeyTag (x : Slot) (t part : Nat) : Slot :=
  { x with keyTag := t, keyPart := part, unfailed := x.unfailed.del 164 }

/-- The words of object `k` in error. -/
def wordErrs (l : Sp Flips) (per k : Nat) : List (Nat × Flips) :=
  (l.filter (fun e => e.1 / per = k)).map (fun e => (e.1 % per, e.2))

/-- The words of a row in error; a stale sector reads zero, and what stands in it has no error (DESIGN CHOICE, log entry 88). -/
def Slot.rowErrs (x : Slot) (n : Nat) : List (Nat × Flips) :=
  (wordErrs x.rowErr 128 n).filter (fun e => !(x.rowStale.get n 0).getLsbD (e.1 / 8))

/-- The words of a tile in error; so for a stale tile row. -/
def Slot.tileErrs (x : Slot) (n : Nat) : List (Nat × Flips) :=
  (wordErrs x.tileErr 1024 n).filter (fun e => !(x.tileStale.get n 0).getLsbD (e.1 / 4))

/-- Some word has more than one bit in error. -/
def uncorrectable (l : List (Nat × Flips)) : Bool := l.any (fun e => decide (2 ≤ popcount e.2))

/-- The value with the bits in error flipped back. -/
def flipBack {w : Nat} (v : BitVec w) (l : List (Nat × Flips)) : BitVec w :=
  l.foldl (fun (a : BitVec w) e => a ^^^ (BitVec.setWidth w e.2.data <<< (64 * e.1))) v

/-- A command reads a row: single-bit errors are corrected, and others tag the row POISON (20 R427). -/
def checkRow (s : State) (slot n : Nat) : State :=
  let l := (s.slot slot).rowErrs n
  if l.isEmpty then s
  else
    let s1 := l.foldl (fun acc e => logWordErr acc slot (s.slot slot).domain arrayRows (1024 * n + 8 * e.1) e.2) s
    s1.modSlot slot (fun x =>
      if uncorrectable l then x.setRowTag n 15
      else
        { x with rows := x.rows.put n (flipBack (x.rows.get n 0) l) 0,
                 rowErr := freshWords x.rowErr 128 n (fun w => l.any (fun e => e.1 = w)) })

/-- A command reads a tile. -/
def checkTile (s : State) (slot n : Nat) : State :=
  let l := (s.slot slot).tileErrs n
  if l.isEmpty then s
  else
    let s1 := l.foldl (fun acc e => logWordErr acc slot (s.slot slot).domain arrayTiles (8192 * n + 8 * e.1) e.2) s
    s1.modSlot slot (fun x =>
      if uncorrectable l then x.setTileTag n 15
      else
        { x with tiles := x.tiles.put n (flipBack (x.tiles.get n 0) l) 0,
                 tileErr := freshWords x.tileErr 1024 n (fun w => l.any (fun e => e.1 = w)) })

/-! ### Words of wide values -/

/-- Word `i` of a wide value. -/
def wordAt {w : Nat} (v : BitVec w) (i : Nat) : Word := v.extractLsb' (64 * i) 64

/-- The value with word `i` replaced. -/
def setWordAt {w : Nat} (v : BitVec w) (i : Nat) (x : Word) : BitVec w :=
  (v &&& ~~~((BitVec.ofNat w (2 ^ 64 - 1)) <<< (64 * i))) ||| ((BitVec.setWidth w x) <<< (64 * i))

/-- Word `i` of a row is written, with fresh check bits: a stale sector becomes current (02 R43). -/
def Slot.rowPoke (x : Slot) (n i : Nat) (v : Word) : Slot :=
  let y := x.rowWrite n (setWordAt (x.rowRead n) i v) (1#16 <<< (i / 8))
  if (x.rowStale.get n 0).getLsbD (i / 8) then y else { y with rowErr := freshWords x.rowErr 128 n (fun w => w = i) }

/-- Word `i` of a tile is written, with fresh check bits: a stale tile row becomes current. -/
def Slot.tilePoke (x : Slot) (n i : Nat) (v : Word) : Slot :=
  let y := x.tileWrite n (setWordAt (x.tileRead n) i v) (1#256 <<< (i / 4))
  if (x.tileStale.get n 0).getLsbD (i / 4) then y else { y with tileErr := freshWords x.tileErr 1024 n (fun w => w = i) }

/-! ### Journal and lift entries (20 R418) -/

/-- Word `k` of a journal entry. -/
def JEntry.word (e : JEntry) (k : Nat) : Word :=
  if k < 8 then wordAt e.map k
  else
    match k with
    | 8 => e.w1 ++ e.w0
    | 9 => e.vd
    | 10 => e.va
    | 11 => e.vb
    | 12 => e.vc
    | 13 => BitVec.ofNat 64 (e.chunks % 2 ^ 32 + ((if e.started then 1 else 0) + (if e.discarded then 2 else 0)) * 2 ^ 32 +
        e.dom * 2 ^ 40)
    | 14 => e.dph
    | _ => 0

/-- The fields of a data-phaser register (14 R294). -/
def dphFields : Word := 0x1FFFFFF

/-- The command a journal entry's words hold; `role`, `addr` and `sup`, which the layout does not hold, are given by the
load (DESIGN CHOICE, log entry 18). -/
def journalOf (w : Nat → Word) (id : Nat) (role : Role) (sup : Bool) (scope pushed : Nat) : JEntry :=
  let f := w 13
  let map : BitVec 512 := (List.range 8).foldl (fun (m : BitVec 512) k => setWordAt m k (w k)) 0
  let e : JEntry :=
    { id := id, w0 := (w 8).extractLsb' 0 32, w1 := (w 8).extractLsb' 32 32, vd := w 9, va := w 10, vb := w 11, vc := w 12,
      map := map, dom := bitsOf f 40 4, sup := sup, dph := w 14 &&& dphFields, role := role, addr := 0, scope := scope,
      chunks := bitsOf f 0 32, next := 0, started := f.getLsbD 32, running := false, discarded := true, replayed := true,
      stop := false, err := 0, finished := false, pushed := pushed, marked := 0 }
  { e with marked := if e.started && decide (e.fn ≤ 1) then e.len else 0 }

/-- Word `k` of a lift entry. -/
def liftWord (m : Cmd) (k : Nat) : Word :=
  match k with
  | 0 => m.w1 ++ m.w0
  | 1 => m.scal
  | 2 => m.dph
  | _ => BitVec.ofNat 64 (m.rm + (if m.fin then 8 else 0) + (if m.fout then 16 else 0) + m.dom * 256 + m.engine * 65536)

/-- The command a lift entry's words hold; its reads and writes are found again when it is reissued. The layout has no place for its
code address, which is then 0 (DESIGN CHOICE, log entry 74). -/
def liftOf (w : Nat → Word) (slot seq : Nat) (sup timed : Bool) (scope pushed : Nat) : Cmd :=
  let f := w 3
  { engine := bitsOf f 16 8, slot := slot, w0 := (w 0).extractLsb' 0 32, w1 := (w 0).extractLsb' 32 32, nullified := false,
    scal := w 1, rm := bitsOf f 0 3, fin := f.getLsbD 3, fout := f.getLsbD 4, dom := bitsOf f 8 4, sup := sup, dph := w 2 &&& dphFields,
    addr := 0, seq := seq, pushed := pushed, timed := timed, scope := scope, reads := [], writes := [] }

/-! ### The words of a context (20 R417) -/

/-- The role whose part of the image is number `k`. -/
def roleOfNum (k : Nat) : Role :=
  match k with
  | 0 => .loader
  | 1 => .computer
  | _ => .storer

/-- sys.status of a role (02 R39). -/
def statusOf (r : Role) (sup psup : Bool) : Word :=
  BitVec.ofNat 64 (roleNum r * 4 + (if psup then 2 else 0) + (if sup then 1 else 0))

/-- Word `w` of a role's part. -/
def roleWord (r : Role) (im : RoleImage) (w : Nat) : Word :=
  if w < 32 then (if w = 0 then 0 else im.regs.get w 0)
  else
    match w with
    | 32 => BitVec.setWidth 64 im.flags
    | 33 => im.epc
    | 34 => im.fpctl
    | 35 => statusOf r im.sup im.psup
    | 36 => im.cause
    | 37 => im.tval
    | _ => 0

/-- The bytes `f 0` to `f 7` as a word. -/
def bytesWord (f : Nat → Nat) : Word := BitVec.ofNat 64 ((List.range 8).foldl (fun n b => n + f b % 256 * 256 ^ b) 0)

/-- Word `n` of a slot's context. With `jrnl`, the registers are those at trap entry and stale parts read zero; without,
the registers and the arrays are read as they stand (11 R220, 20 R419, R426). -/
def ctxWord (x : Slot) (jrnl : Bool) (n : Nat) : Word :=
  let o := 8 * n
  if o < 0x40 then
    match n with
    | 0 => BitVec.ofNat 64 x.journal.length
    | 1 => BitVec.ofNat 64 x.lift.length
    | _ => 0
  else if o < 0x1040 then
    match x.journal[(o - 0x40) / 128]? with
    | some e => e.word ((o - 0x40) % 128 / 8)
    | none => 0
  else if o < 0x1440 then
    match x.lift[(o - 0x1040) / 32]? with
    | some m => liftWord m ((o - 0x1040) % 32 / 8)
    | none => 0
  else if o < 0x1A40 then
    let r := roleOfNum ((o - 0x1440) / 512)
    let c := x.role r
    roleWord r (if jrnl then c.images.headD (imageOf c) else imageOf c) ((o - 0x1440) % 512 / 8)
  else if o < 0x2040 then
    let q := (o - 0x1A40) / 256
    let w := (o - 0x1A40) % 256 / 8
    let l := x.queues.get q []
    if w < 16 then
      match l[w]? with
      | some e => e.val
      | none => if jrnl then 0 else x.qraw.get (16 * q + w) 0
    else if w = 16 then BitVec.ofNat 64 l.length
    else 0
  else if o < 0x2080 then
    match (o - 0x2040) / 8 with
    | 0 => bytesWord (fun b => x.tokens.get b 0)
    | 1 => bytesWord (fun b => x.tokens.get (8 + b) 0)
    | 2 => x.dphaser
    | _ => 0
  else if o < 0x2480 then wordAt (x.maskOf ((o - 0x2080) / 128)) ((o - 0x2080) % 128 / 8)
  else if o < 0x2700 then
    let p := (o - 0x2480) / 160
    let w := (o - 0x2480) % 160 / 8
    if w < 4 then wordAt (x.predOf 0 p) w
    else if w < 16 then wordAt (x.predOf 1 p) (w - 4)
    else wordAt (x.predOf 2 p) (w - 16)
  else if o < 0x2B00 then wordAt (x.opOf ((o - 0x2700) / 256)) ((o - 0x2700) % 256 / 8)
  else if o < 0x2F40 then
    let w := (o - 0x2B00) / 8
    if w < 128 then wordAt (if jrnl then x.keyRead else x.key) w
    else if w = 128 then BitVec.ofNat 64 (x.keyTag + 256 * x.keyPart)
    else 0
  else if o < 0x3000 then
    let b0 := o - 0x2F40
    bytesWord (fun b => if b0 + b < 160 then x.rowTagOf (b0 + b) else if b0 + b < 164 then x.tileTagOf (b0 + b - 160) else 0)
  else if o < 0x2B000 then
    let r := (o - 0x3000) / 1024
    wordAt (if jrnl then x.rowRead r else x.rows.get r 0) ((o - 0x3000) % 1024 / 8)
  else
    let t := (o - 0x2B000) / 8192
    wordAt (if jrnl then x.tileRead t else x.tiles.get t 0) ((o - 0x2B000) % 8192 / 8)

/-- The fields of sys.fpctl and of sys.cause, sys.epc that a write reaches (07 R133, 20 R405, R406). -/
def fpctlFields : Word := 0x3F1F
def causeFields : Word := 0x80000000000003FF
def epcFields : Word := 0xFFFFFFFF

/-- A word of a role's part is written; sys.fpctl takes any RM, and 5, 6 and 7 round as 4 does (DESIGN CHOICE, log entry 73). -/
def roleSet (c : RoleCtx) (w : Nat) (v : Word) : RoleCtx :=
  if w < 32 then
    { (c.finalRegs) with regs := if w = 0 then c.finalRegs.regs else c.finalRegs.regs.put w v 0 }
  else
    match w with
    | 32 => { (c.finalRegs) with flags := v.extractLsb' 0 8 }
    | 33 => { c with epc := v &&& epcFields }
    | 34 => { c with fpctl := v &&& fpctlFields }
    | 35 => { c with sup := v.getLsbD 0, psup := v.getLsbD 1 }
    | 36 => { c with cause := v &&& causeFields }
    | 37 => { c with tval := v }
    | _ => c

/-- Set a byte-wise table from a word. -/
def setBytes (m : Sp Nat) (first count : Nat) (v : Word) : Sp Nat :=
  (List.range count).foldl (fun (t : Sp Nat) b => t.put (first + b) (bitsOf v (8 * b) 8) 0) m

/-- A word of a queue's part is written: an entry, or the count, entries standing from the head. -/
def queueSet (x : Slot) (q w : Nat) (v : Word) : Slot :=
  let l := x.queues.get q []
  if w < 16 then
    if w < l.length then { x with queues := x.queues.put q (l.set w { val := v, due := 0 }) [] }
    else { x with qraw := x.qraw.put (16 * q + w) v 0 }
  else if w = 16 then
    let n := Nat.min 16 (v.toNat % 256)
    let l' := (List.range n).map (fun i => (l[i]?).getD { val := x.qraw.get (16 * q + i) 0, due := 0 })
    { x with queues := x.queues.put q l' [] }
  else x

/-- Word `n` of a slot's context, of a class from 17 on, is written (20 R419, R426). -/
def ctxSet (x : Slot) (n : Nat) (v : Word) : Slot :=
  let o := 8 * n
  if o < 0x1440 then x
  else if o < 0x1A40 then x.modRole (roleOfNum ((o - 0x1440) / 512)) (fun c => roleSet c ((o - 0x1440) % 512 / 8) v)
  else if o < 0x2040 then queueSet x ((o - 0x1A40) / 256) ((o - 0x1A40) % 256 / 8) v
  else if o < 0x2080 then
    match (o - 0x2040) / 8 with
    | 0 => { x with tokens := setBytes x.tokens 0 8 v }
    | 1 => { x with tokens := setBytes x.tokens 8 8 v }
    | 2 => { x with dphaser := v &&& dphFields }
    | _ => x
  else if o < 0x2480 then
    let m := (o - 0x2080) / 128
    { x with masks := x.masks.put m (setWordAt (x.maskOf m) ((o - 0x2080) % 128 / 8) v) 0 }
  else if o < 0x2700 then
    let p := (o - 0x2480) / 160
    let w := (o - 0x2480) % 160 / 8
    if w < 4 then x.setPred 0 p (setWordAt (x.predOf 0 p) w v)
    else if w < 16 then x.setPred 1 p (setWordAt (x.predOf 1 p) (w - 4) v)
    else x.setPred 2 p (setWordAt (x.predOf 2 p) (w - 16) v)
  else if o < 0x2B00 then
    let m := (o - 0x2700) / 256
    { x with opRegs := x.opRegs.put m (setWordAt (x.opOf m) ((o - 0x2700) % 256 / 8) v) 0 }
  else if o < 0x2F40 then
    let w := (o - 0x2B00) / 8
    if w < 128 then { x with key := setWordAt x.keyRead w v, keyStale := false }
    else if w = 128 then x.setKeyTag (bitsOf v 0 4) (bitsOf v 8 2)
    else x
  else if o < 0x3000 then
    let b0 := o - 0x2F40
    (List.range 8).foldl
      (fun (y : Slot) b =>
        let t := bitsOf v (8 * b) 4
        if b0 + b < 160 then y.setRowTag (b0 + b) t
        else if b0 + b < 164 then y.setTileTag (b0 + b - 160) t
        else y)
      x
  else if o < 0x2B000 then x.rowPoke ((o - 0x3000) / 1024) ((o - 0x3000) % 1024 / 8) v
  else if o < 0x33000 then x.tilePoke ((o - 0x2B000) / 8192) ((o - 0x2B000) % 8192 / 8) v
  else x

/-- The words of a context image. -/
def imageWords : Nat := 0x6600

/-- The class of word `n`; the tags share a word range, rows before tiles. -/
def classOf (n : Nat) : Nat :=
  let o := 8 * n
  if o < 0x1440 then 16
  else if o < 0x1A40 then 17
  else if o < 0x2080 then 18
  else if o < 0x2F40 then 19
  else if o < 0x2FE0 then 20
  else if o < 0x3000 then 21
  else if o < 0x2B000 then 20
  else 21

end Sys2Proof.Machine
end

