-- ==== Sys2Proof/Machine/Cancel.lean ====
section
/-! DEFINITION. Cancelling a scope and its subtree (12 R262, R263, 17 R373, 18 R391, 20 R416): the scope unit's one step
and what it does to records, commands and copies, all in that step (R262 allows 64 cycles). -/

namespace Sys2Proof.Machine

/-- `x` lies in the subtree of `c`. -/
def inSubtree (s : State) (c x fuel : Nat) : Bool :=
  match fuel with
  | 0 => x = c
  | n + 1 => x = c || ((s.scope x).parent != x && inSubtree s c (s.scope x).parent n)

/-- The scope and its live descendants, deepest first. -/
def subtree (s : State) (c : Nat) : List Nat :=
  let l := (s.scopes.filter (fun e => e.2.state = scLive && inSubtree s c e.1 33)).map (·.1)
  (List.range 33).flatMap (fun d => l.filter (fun x => (s.scope x).depth = 32 - d))

/-- A scope of the cancelled set with nothing left completes at once. -/
def completeEmpty (s : State) (c : Nat) : State :=
  let x := s.scope c
  if x.state = scCancelling && x.live = 0 then scopeDec (s.setScope c { x with live := 1 }) c else s

/-! ### Records -/

/-- Word `i` of an image at a deep-store address. -/
def imagePlace (base i : Nat) : Place := .deep ((base + 8 * i) % 2 ^ 34)

/-- Word `i` of an image is read: the word as it stands, and whether it could be read (20 R427). -/
def imageRead (s : State) (base i slot dom : Nat) : State × Nat × Bool :=
  let r := eccUnit s (imagePlace base i) slot dom
  (r.1, rawRead r.1 (imagePlace base i) 8, r.2)

/-- The words of entry `k` of an image's journal are read; the answer tells whether they can be. -/
def checkEntry (s : State) (base k slot dom : Nat) : State × Bool :=
  (List.range 15).foldl
    (fun acc i =>
      let r := imageRead acc.1 base (8 + 16 * k + i) slot dom
      (r.1, acc.2 && r.2.2))
    (s, true)

/-- Entry `k` of the journal of an image. -/
def imageEntry (s : State) (base k : Nat) (sup : Bool) (scope : Nat) : JEntry :=
  journalOf (fun i => BitVec.ofNat 64 (rawRead s (imagePlace base (8 + 16 * k + i)) 8)) k .loader sup scope 0

/-- DISCARDED of entry `k` of an image's journal (20 R418). -/
def imageDiscarded (s : State) (base k : Nat) : Bool := rawRead s (imagePlace base (8 + 16 * k + 13)) 8 / 2 ^ 33 % 2 = 1

/-- An entry of the image of a removed record settles with CANCELLED and no signal, where it is DISCARDED; one that cannot be read is
passed over (DESIGN CHOICE, log entry 86). -/
def dropHeld (s : State) (base k slot : Nat) (sup : Bool) (pa : Nat) : State :=
  match checkEntry s base k slot 0 with
  | (s1, false) => s1
  | (s1, true) =>
    let e := imageEntry s1 base k sup (recScope s1 pa)
    if !imageDiscarded s1 base k then s1
    else
      let e1 := { e with marked := if e.started && e.fn = 2 then kvFirst s1 slot e * e.kvCount else e.marked, err := 0x0400 }
      cmdDec (settleEffects s1 slot e1 k) e1.scope

/-- A preempted record is removed: its discarded commands settle with CANCELLED and no signal, its save area returns
(20 R416). -/
def dropImage (s : State) (cl : Nat) (core : Option Nat) (sup : Bool) (pa : Nat) : State :=
  let save := recGet s pa 56 8
  let slot := 4 * core.getD (4 * cl)
  let (s0, n, _) := imageRead s save 0 slot 0
  let s1 := (List.range (Nat.min 32 n)).foldl (fun acc k => dropHeld acc save k slot sup pa) s0
  let (s2, lifted, _) := imageRead s1 save 1 slot 0
  let s3 := (List.range (Nat.min 32 lifted)).foldl (fun acc _ => cmdDec acc (recScope acc pa)) s2
  let s4 := { s3 with preemptedOn := s3.preemptedOn.del pa }
  listAppend (s4.modCluster cl (fun c => { c with saves := c.saves ++ [BitVec.ofNat 64 save] })) cl 8 (BitVec.ofNat 64 save)

/-- A record outside any slot is removed and written STATE FREE. -/
def removeRecord (s : State) (cl : Nat) (core : Option Nat) (ref : RecRef) : State :=
  let pa := ref.pa
  let s1 := if recFlags s pa / flagPreempted % 2 = 1 then dropImage s cl core ref.sup pa else s
  let s2 := phDropAll (recSetState s1 pa stFree) pa none
  launchExit (scopeDec s2 (recScope s2 pa)) pa true

/-- The records of a cluster's queues, lists and tables that belong to the cancelled set; a record whose suspension is
still pending belongs to its slot. -/
def recordsOf (s : State) (dead : List Nat) (cl : Nat) : List (Option Nat × RecRef) :=
  let c := s.cluster cl
  let hit (r : RecRef) : Bool := dead.contains (recScope s r.pa) && (suspendingSlot s r).isNone
  let q := (c.ready ++ c.spill ++ c.resume ++ c.kept.map (·.entry)).map (fun e => (e.core, e.ref))
  let w := (c.wait ++ c.overflow).map (fun e => ((none : Option Nat), e.ref))
  let m := (c.monitors.map (·.1) ++ c.poll.map (·.1) ++ c.frameWait.map (·.1)).map (fun r => ((none : Option Nat), r))
  (q ++ w ++ m).filter (fun e => hit e.2)

/-- The queues, lists and tables of a cluster without the given records; the resume list fills the places that fall free (11 R217), and
a message that waited for one of them settles. -/
def dropRecords (s : State) (cl : Nat) (l : List RecRef) : State :=
  let gone (r : RecRef) : Bool := l.any (fun x => x.pa = r.pa)
  let late := ((s.cluster cl).kept.filter (fun e => gone e.entry.ref)).map (·.msg)
  let s1 := s.modCluster cl (fun c =>
    { c with
      ready := c.ready.filter (fun e => !gone e.ref), spill := c.spill.filter (fun e => !gone e.ref),
      resume := c.resume.filter (fun e => !gone e.ref), kept := c.kept.filter (fun e => !gone e.entry.ref),
      wait := c.wait.filter (fun e => !gone e.ref), overflow := c.overflow.filter (fun e => !gone e.ref),
      monitors := c.monitors.filter (fun e => !gone e.1), poll := c.poll.filter (fun e => !gone e.1),
      frameWait := c.frameWait.filter (fun e => !gone e.1) })
  refillResume (late.foldl settleMsg s1) cl

/-- Every record of the cancelled set in a cluster leaves. -/
def cancelCluster (s : State) (dead : List Nat) (cl : Nat) : State :=
  let l := recordsOf s dead cl
  let s1 := dropRecords s cl (l.map (·.2))
  l.foldl (fun acc e => removeRecord acc cl e.1 e.2) s1

/-- Records that wait on a phaser, or are dormant, of the cancelled set leave. -/
def cancelWaiting (s : State) (dead : List Nat) : State :=
  let ph := s.phWait.filter (fun w => dead.contains (recScope s w.1.pa) && (suspendingSlot s w.1).isNone)
  let dm := s.dormant.filter (fun w => dead.contains w.2)
  let s1 := { s with phWait := s.phWait.filter (fun w => !ph.contains w), dormant := s.dormant.filter (fun w => !dm.contains w) }
  let s2 := ph.foldl (fun acc w => removeRecord acc w.2.1 none w.1) s1
  dm.foldl (fun acc w => removeRecord acc 0 none w.1) s2

/-! ### Commands -/

/-- A vector or matrix command that has not started is discarded: its signal is given, no flag (17 R373). -/
def discardCmd (s : State) (m : Cmd) (r : Role) : State :=
  let s1 := if m.nullified then s else laterSignal s m.slot r m.addr m.w1
  cmdDec s1 m.scope

/-- The unstarted and the lifted commands of a core's slots that belong to the cancelled set. -/
def cancelQueues (s : State) (dead : List Nat) (core : Nat) : State :=
  let c := s.core core
  let go := (c.vq ++ c.mq).filter (fun m => dead.contains m.scope)
  let s1 := s.modCore core (fun x =>
    { x with vq := x.vq.filter (fun m => !dead.contains m.scope), mq := x.mq.filter (fun m => !dead.contains m.scope) })
  let s2 := go.foldl (fun acc m => discardCmd acc m .computer) s1
  (List.range 4).foldl
    (fun acc j =>
      let k := 4 * core + j
      let l := (acc.slot k).lift.filter (fun m => dead.contains m.scope)
      let a1 := acc.modSlot k (fun x => { x with lift := x.lift.filter (fun m => !dead.contains m.scope) })
      l.foldl (fun a m => discardCmd a m .computer) a1)
    s2

/-- The copy-unit commands of a slot that belong to the cancelled set: one that is not running settles with CANCELLED,
one that runs stops behind its current part; a message and a table load complete. -/
def cancelCopies (s : State) (dead : List Nat) (slot : Nat) : State :=
  let l := (s.slot slot).journal.filter (fun e => dead.contains e.scope && !e.finished)
  l.foldl
    (fun acc e =>
      if e.running then modEntry acc slot e.id (fun x => { x with stop := true })
      else modEntry acc slot e.id cancelEntry)
    s

/-- The running strands of the cancelled set stop at their next kill point. -/
def cancelStrand (s : State) (dead : List Nat) (slot : Nat) : State :=
  match (s.slot slot).strand with
  | some t => if !t.boot && dead.contains t.scope then s.modSlot slot (fun x => { x with kill := true }) else s
  | none => s

/-- Cancel a live scope (12 R262, R263). -/
def cancelScope (s : State) (c : Nat) : State :=
  let dead := subtree s c
  let s1 := dead.foldl (fun acc d => acc.setScope d { acc.scope d with state := scCancelling }) s
  let s2 := { s1 with parks := s1.parks.filter (fun p => !dead.contains p.scope) }
  let slots := s2.slots.map (·.1)
  let s3 := slots.foldl (fun acc k => cancelStrand acc dead k) s2
  let s4 := (s3.cores.map (·.1)).foldl (fun acc k => cancelQueues acc dead k) s3
  let s5 := slots.foldl (fun acc k => cancelCopies acc dead k) s4
  let s6 := (List.range 16).foldl (fun acc k => cancelCluster acc dead k) s5
  let s7 := cancelWaiting s6 dead
  dead.foldl completeEmpty s7

/-- KILL_POINT_STOP of the context's slot: a cancelled strand at its kill point leaves as a removed record, one that is still to be
restored with its image (20 R416); a timed strand's record is not written (12 R262). -/
def execKillPointStop (s : State) : Host.Outcome State Fault Refusal :=
  let k := s.me
  let x := s.slot k
  let landed := x.lo.vpend.isEmpty && x.st.vpend.isEmpty
  match x.strand with
  | none => .next s
  | some t =>
    if x.kill && windowsClosed s k none && landed then
      let s0 := dropSuspension s k
      let s1 := if t.preempted then dropImage s0 (clusterOf k) (some (coreOf k)) t.ref.sup t.ref.pa else s0
      let s2 := if t.timed || t.boot then s1 else recPut s1 t.ref.pa 15 1 0
      .next (vacate (strandGone s2 k true) k)
    else .next s

/-- CANCEL (12 R262). -/
def execCancel (st : BitVec 3) (a : BitVec 5) (s : State) : Host.Outcome State Fault Refusal :=
  .next (gate (.cancel st a) true anyRole false id
    (operands { srcs := [a] }
      (fun v s =>
        let sa := v.getD 0 0
        let c := bitsOf sa 0 14
        let x := s.scope c
        if bitsOf sa 14 50 ≠ 0 then .trap s 1 sa
        else if x.state = scFree then .trap s 1 (BitVec.ofNat 64 c)
        else if x.dom ≠ (s.slot s.me).domain || (c < 16 && !s.myRole.sup) then .trap s 2 sa
        else release s (fun s => if (s.scope c).state = scLive then .done (cancelScope s c) else .done s))) s)

end Sys2Proof.Machine
end

