-- ==== Sys2Proof/Machine/Lanes.lean ====
section
/-! DEFINITION. Lanes of a row (07 R141) and the value each operation gives one lane (07 R129 to R138, 08 R158 to R170,
10 R199). -/

namespace Sys2Proof.Machine

/-- A result code with the sticky flags it raises. -/
abbrev Coded := Nat × BitVec 6

/-- The bits of a lane of a format code; RAW is taken bytewise. -/
def laneBits (ty : Nat) : Nat :=
  match ty with
  | 1 | 2 => 32
  | 3 | 4 => 16
  | 10 | 11 => 4
  | 12 => 1
  | 13 => 64
  | _ => 8

/-- Lane `i` of `w` bits of a row's value. -/
def laneOf (r w i : Nat) : Nat := (r >>> (w * i)) % 2 ^ w

/-- The `n` lanes `f 0` to `f (n - 1)` of `w` bits side by side, with all their flags. -/
def fillLanes (w n : Nat) (f : Nat → Coded) : Coded :=
  match n with
  | 0 => (0, 0)
  | k + 1 =>
    let r := fillLanes w k f
    let x := f k
    (r.1 + (x.1 % 2 ^ w) <<< (w * k), r.2 ||| x.2)

/-- The sectors of a row that hold a chosen lane. -/
def lanesSectors (w n : Nat) (sel : Nat → Bool) : BitVec 16 :=
  (List.range n).foldl (fun (b : BitVec 16) i => if sel i then b ||| (1#16 <<< (w * i / 512)) else b) 0

/-! ### Integers (07 R126, 08 R158) -/

/-- The value of an integer lane. -/
def intOf (ty code : Nat) : Int :=
  if ty = 8 then (code % 2 ^ 8 : Nat) else signedOf (laneBits ty) code

def intLow (ty : Nat) : Int := if ty = 8 then 0 else -(2 ^ (laneBits ty - 1) : Nat)
def intHigh (ty : Nat) : Int := if ty = 8 then 255 else (2 ^ (laneBits ty - 1) : Nat) - 1

/-- The code of an integer in `w` bits, wrapped. -/
def wrapInt (w : Nat) (v : Int) : Nat := (BitVec.ofInt w v).toNat

/-- An exact integer in a lane: saturated with `flag`, or wrapped. -/
def intCode (ty : Nat) (sat : Bool) (flag : BitVec 6) (v : Int) : Coded :=
  let w := laneBits ty
  if sat && decide (v < intLow ty) then (wrapInt w (intLow ty), flag)
  else if sat && decide (intHigh ty < v) then (wrapInt w (intHigh ty), flag)
  else (wrapInt w v, 0)

/-! ### How a command rounds (07 R135) -/

/-- The rounding control that a command captured. -/
structure Rounding where
  rm : Nat
  fin : Bool
  fout : Bool
deriving DecidableEq, Repr

def Cmd.rounding (c : Cmd) : Rounding := ⟨c.rm, c.fin, c.fout⟩

/-- The value of a floating-point lane. -/
def floatOf (ty : Nat) (m : Rounding) (code : Nat) : Ex := decodeF (fmtOf ty) m.fin code

/-- A result rounded once (07 R138). -/
def floatCode (ty : Nat) (m : Rounding) (x : Ex) : Coded := encodeF (fmtOf ty) m.rm m.fout false x

/-- A result with flags of its own. -/
def floatCodeWith (ty : Nat) (m : Rounding) (r : Ex × BitVec 6) : Coded :=
  let c := floatCode ty m r.1
  (c.1, c.2 ||| r.2)

/-! ### Elementwise arithmetic (08 R158) -/

/-- The operations of three operands. -/
inductive Arith where
  | add | sub | mul | fma | fms | min | max | abs | neg
deriving DecidableEq, Repr

/-- The lesser or the greater of two values: −0 is below +0, one NaN gives the other operand. -/
def exExtreme (big : Bool) (x y : Ex) : Ex × BitVec 6 :=
  let nv : BitVec 6 := if x.signals || y.signals then flNV else 0
  if x.isNan && y.isNan then (.nan false, nv)
  else if x.isNan then (y, nv)
  else if y.isNan then (x, nv)
  else
    let yLess : Bool :=
      match exCmp x y with
      | .lt => false
      | .gt => true
      | .eq => exSign y && !exSign x
    (if big then (if yLess then x else y) else (if yLess then y else x), nv)

/-- The floating-point operation, exact. -/
def Arith.onFloat (op : Arith) (rdn : Bool) (x y z : Ex) : Ex × BitVec 6 :=
  match op with
  | .add => (exSum [x, y] rdn, 0)
  | .sub => (exSum [x, exNeg y] rdn, 0)
  | .mul => (exMul x y, 0)
  | .fma => (exSum [exMul x y, z] rdn, 0)
  | .fms => (exSum [exMul x y, exNeg z] rdn, 0)
  | .min => exExtreme false x y
  | .max => exExtreme true x y
  | .abs => (if x.isNan then .nan false else if exSign x then exNeg x else x, 0)
  | .neg => (if x.isNan then .nan false else exNeg x, 0)

/-- The integer operation, exact. -/
def Arith.onInt (op : Arith) (x y z : Int) : Int :=
  match op with
  | .add => x + y
  | .sub => x - y
  | .mul => x * y
  | .fma => x * y + z
  | .fms => x * y - z
  | .min => if x ≤ y then x else y
  | .max => if x ≤ y then y else x
  | .abs => x.natAbs
  | .neg => -x

/-- One lane of an elementwise operation. -/
def arithLane (op : Arith) (ty : Nat) (sat : Bool) (m : Rounding) (a b d : Nat) : Coded :=
  if isFloatTy ty then
    floatCodeWith ty m (op.onFloat (m.rm = 2) (floatOf ty m a) (floatOf ty m b) (floatOf ty m d))
  else intCode ty sat flIS (op.onInt (intOf ty a) (intOf ty b) (intOf ty d))

/-! ### Division and roots (08 R159) -/

def divLane (ty : Nat) (m : Rounding) (a b : Nat) : Coded := floatCodeWith ty m (exDiv (floatOf ty m a) (floatOf ty m b))
def sqrtLane (ty : Nat) (m : Rounding) (a : Nat) : Coded := floatCode ty m (exSqrt (floatOf ty m a))
def rcpLane (ty : Nat) (m : Rounding) (a : Nat) : Coded :=
  floatCodeWith ty m (exDiv (.num false 1 0 false) (floatOf ty m a))

/-- 1/√x, with 100 or more bits. -/
def exRsq (x : Ex) : Ex × BitVec 6 :=
  match x with
  | .nan s => (.nan s, 0)
  | .inf n => (if n then .nan true else .num false 0 0 false, 0)
  | .num n m e _ =>
    if m = 0 then (.inf n, flDZ)
    else if n then (.nan true, 0)
    else
      let m1 := if e % 2 != 0 then 2 * m else m
      let e1 := if e % 2 != 0 then e - 1 else e
      let k := 100 + bitLen m1
      let r := isqrt (2 ^ (2 * k) / m1)
      (.num false r (-(k : Int) - e1 / 2) (r * r * m1 != 2 ^ (2 * k)), 0)

def rsqLane (ty : Nat) (m : Rounding) (a : Nat) : Coded := floatCodeWith ty m (exRsq (floatOf ty m a))

/-! ### Powers and logarithms of two (08 R159)

The exact real result is irrational but for the cases named, so it never stands on a rounding boundary; a fixed-point value
of 320 fraction bits, taken as a little below it, rounds as it does (DEDUCED, log entry 19). -/

def fixBits : Nat := 320
def fixOne : Nat := 2 ^ fixBits

/-- 2 atanh z for z in fixed point below 1/2: 2 Σ z^(2k+1) / (2k+1); `p` is z^(2k+1). -/
def atanhSum (z2 p k fuel : Nat) : Nat :=
  match fuel with
  | 0 => 0
  | n + 1 => 2 * p / (2 * k + 1) + atanhSum z2 (p * z2 / fixOne) (k + 1) n

def atanh2 (z : Nat) : Nat := atanhSum (z * z / fixOne) z 0 120

/-- The natural logarithm of 2 in fixed point: 2 atanh (1/3). -/
def fixLn2 : Nat := atanh2 (fixOne / 3)

/-- e^y for y in fixed point below 1; `t` is y^k / k!. -/
def expSum (y t k fuel : Nat) : Nat :=
  match fuel with
  | 0 => t
  | n + 1 => t + expSum y (t * y / fixOne / (k + 1)) (k + 1) n

/-- 2^x. -/
def exExp2 (x : Ex) : Ex :=
  match x with
  | .nan s => .nan s
  | .inf n => if n then .num false 0 0 false else .inf false
  | .num n m e _ =>
    if m = 0 then .num false 1 0 false
    else if 12 ≤ e + bitLen m then (if n then .num false 1 (-4096) true else .num false 1 4096 true)
    else
      -- x = whole + frac 2^e, whole the floor
      let v : Int := if n then -(m : Int) else m
      let whole : Int := if 0 ≤ e then v * pow2 e else v / pow2 (-e)
      let frac : Nat := if 0 ≤ e then 0 else (v % pow2 (-e)).toNat
      if frac = 0 then .num false 1 whole false
      else
        let f := (frac * fixOne) / pow2 (-e)
        .num false (expSum (f * fixLn2 / fixOne) fixOne 0 100) (whole - fixBits) true

/-- log2 x. -/
def exLog2 (x : Ex) : Ex × BitVec 6 :=
  match x with
  | .nan s => (.nan s, 0)
  | .inf n => (if n then .nan true else .inf false, 0)
  | .num n m e _ =>
    if m = 0 then (.inf true, flDZ)
    else if n then (.nan true, 0)
    else
      let top := bitLen m - 1
      let whole : Int := e + top
      if m = 2 ^ top then (.num (decide (whole < 0)) whole.natAbs 0 false, 0)
      else
        let z := (m - 2 ^ top) * fixOne / (m + 2 ^ top)
        let v : Int := whole * (fixOne : Int) + (atanh2 z * fixOne / fixLn2 : Nat)
        (.num (decide (v < 0)) v.natAbs (-(fixBits : Int)) true, 0)

def exp2Lane (ty : Nat) (m : Rounding) (a : Nat) : Coded := floatCode ty m (exExp2 (floatOf ty m a))
def log2Lane (ty : Nat) (m : Rounding) (a : Nat) : Coded := floatCodeWith ty m (exLog2 (floatOf ty m a))

/-! ### Logic, shifts, compares (08 R161, R162) -/

/-- The operations of FLOG on whole words (04 R79). -/
def logicNat (op ones a b : Nat) : Nat :=
  match op with
  | 0 => a &&& b
  | 1 => a ||| b
  | 2 => a ^^^ b
  | 3 => a &&& (ones ^^^ b)
  | 4 => ones ^^^ a
  | 5 => a
  | 6 => 0
  | _ => ones

/-- A shifted lane: kind 0 left, 1 right, 2 right with the sign. -/
def shiftLane (kind ty n a : Nat) : Nat :=
  let w := laneBits ty
  match kind with
  | 0 => if n < w then a * 2 ^ n % 2 ^ w else 0
  | 1 => if n < w then a / 2 ^ n else 0
  | _ => if ty = 8 then (if n < w then a / 2 ^ n else 0) else wrapInt w (signedOf w a / 2 ^ (Nat.min n w))

/-- Whether a condition of VCMP holds for an ordering of values that are no NaN. -/
def condHolds (cond : Nat) (o : Ordering) : Bool :=
  match cond with
  | 0 => o = .eq
  | 1 => o != .eq
  | 2 => o = .lt
  | 3 => o != .gt
  | 4 => o = .gt
  | 5 => o != .lt
  | _ => false

/-- A comparison of two floating-point values by IEEE order (08 R162, 10 R199). -/
def compareFloats (cond : Nat) (x y : Ex) : Bool × BitVec 6 :=
  if x.isNan || y.isNan then
    (cond = 1 || cond = 6, if (2 ≤ cond && cond ≤ 5) || x.signals || y.signals then flNV else 0)
  else (condHolds cond (exCmp x y), 0)

/-- A comparison of two lanes. -/
def compareLane (cond ty : Nat) (m : Rounding) (a b : Nat) : Bool × BitVec 6 :=
  if isFloatTy ty then compareFloats cond (floatOf ty m a) (floatOf ty m b)
  else (condHolds cond (compare (intOf ty a) (intOf ty b)), 0)

/-- The place of a code in total order: NaNs of a sign at the ends, zeros by sign (10 R199). -/
def totalPlace (ty code : Nat) : Int :=
  if isFloatTy ty then
    let f := fmtOf ty
    let neg := code / 2 ^ (f.width - 1) % 2 = 1
    let mag := code % 2 ^ (f.width - 1)
    let top := 2 ^ f.width
    let nan := (decodeF f false code).isNan
    let v : Int := if nan then top else mag
    if neg then -v - 1 else v
  else intOf ty code

/-- The predicates of OCMP on two keys with their indices (10 R199). -/
def outerPred (pred ty : Nat) (m : Rounding) (x k ix iy : Nat) : Bool × BitVec 6 :=
  if pred ≤ 6 then compareLane pred ty m x k
  else
    let o := compare (totalPlace ty x) (totalPlace ty k)
    (match pred with
     | 8 => o = .lt
     | 9 => o != .gt
     | 10 => o = .eq
     | 11 => o = .lt || (o = .eq && decide (ix < iy))
     | _ => o = .gt || (o = .eq && decide (iy < ix)), 0)

/-! ### Reduction (08 R165, R166) -/

/-- The identity of a reduction for a lane that is masked out. -/
def redIdentity (op ty : Nat) : Nat :=
  let f := fmtOf ty
  let w := laneBits ty
  if isFloatTy ty then
    match op with
    | 0 => 2 ^ (f.width - 1)
    | 1 => f.infCode
    | _ => signed f true f.infCode
  else
    match op with
    | 1 => wrapInt w (intHigh ty)
    | 2 => wrapInt w (intLow ty)
    | 3 => 2 ^ w - 1
    | _ => 0

/-- One step of a reduction: 0 ADD, 1 MIN, 2 MAX, 3 AND, 4 OR, 5 XOR. -/
def redLane (op ty : Nat) (sat : Bool) (m : Rounding) (a b : Nat) : Coded :=
  match op with
  | 0 => arithLane .add ty sat m a b 0
  | 1 => arithLane .min ty false m a b 0
  | 2 => arithLane .max ty false m a b 0
  | _ => (logicNat (op - 3) 0 a b, 0)

/-- One level of the tree. -/
def redLevel (f : Nat → Nat → Coded) (l : List Nat) : List Nat × BitVec 6 :=
  match l with
  | a :: b :: r =>
    let x := f a b
    let y := redLevel f r
    (x.1 :: y.1, x.2 ||| y.2)
  | l => (l, 0)

/-- The fixed pairwise tree of `levels` levels. -/
def redTree (f : Nat → Nat → Coded) (levels : Nat) (l : List Nat) : Coded :=
  match levels with
  | 0 => (l.headD 0, 0)
  | k + 1 =>
    let x := redLevel f l
    let y := redTree f k x.1
    (y.1, x.2 ||| y.2)

/-- The scan in lane order: the lanes written, last first. -/
def scanLanes (f : Nat → Nat → Coded) (excl : Bool) (l : List Nat) (acc : Nat) : List Nat × BitVec 6 :=
  match l with
  | [] => ([], 0)
  | x :: r =>
    let y := f acc x
    let z := scanLanes f excl r y.1
    ((if excl then acc else y.1) :: z.1, y.2 ||| z.2)

/-! ### Conversion (07 R137, 08 R167) -/

/-- The destination cannot hold every value of the source, both floating-point. -/
def floatNarrows (src dst : Nat) : Bool := src != dst && !([(3, 2), (5, 2), (6, 2), (5, 3), (6, 3)].contains (src, dst))

/-- A floating-point value as an integer of a lane: rounded, then saturated with NV; inexact otherwise sets NX. -/
def floatToInt (ty rm : Nat) (x : Ex) : Coded :=
  match x with
  | .nan _ => (0, flNV)
  | .inf n => (wrapInt (laneBits ty) (if n then intLow ty else intHigh ty), flNV)
  | .num n m e s =>
    let r := roundAt rm n m e 0 s
    let v : Int := if n then -(r.1 : Int) else r.1
    let c := intCode ty true flNV v
    (c.1, if c.2 = 0 && r.2 then flNX else c.2)

/-- One lane of VCVT; widening is exact, so that FOUT does not touch it (07 R137). -/
def convertLane (src dst : Nat) (m : Rounding) (code : Nat) : Coded :=
  if isFloatTy src then
    if isFloatTy dst then encodeF (fmtOf dst) m.rm (m.fout && floatNarrows src dst) (floatNarrows src dst) (floatOf src m code)
    else floatToInt dst m.rm (floatOf src m code)
  else if isFloatTy dst then
    let v := intOf src code
    encodeF (fmtOf dst) m.rm m.fout true (.num (decide (v < 0)) v.natAbs 0 false)
  else intCode dst true flIS (intOf src code)

/-! ### The block format E2M1B (07 R129, R130) -/

/-- Twice the value of a code other than 8. -/
def e2m1Twice (code : Nat) : Nat :=
  match code % 8 with
  | 0 => 0
  | 1 => 1
  | 2 => 2
  | 3 => 3
  | 4 => 4
  | 5 => 6
  | 6 => 8
  | _ => 12

/-- The exact value times 2^k. -/
def exScale (x : Ex) (k : Int) : Ex :=
  match x with
  | .num n m e s => .num n m (e + k) s
  | y => y

/-- The value of code `c` in a block of scale `scale` and special `p`. -/
def blockValue (scale p c : Nat) : Ex :=
  if scale = 255 then .nan false
  else if c = 8 then exScale (decodeF e4m3 false p) ((scale : Int) - 127)
  else .num (decide (8 < c)) (e2m1Twice c) ((scale : Int) - 127 - 1) false

/-- Element `k` (below 24) and byte `j` of block `b` of a row's value. -/
def blockByte (r b j : Nat) : Nat := laneOf r 8 (14 * b + j)
def blockCode (r b k : Nat) : Nat := laneOf (blockByte r b (k / 2)) 4 (k % 2)

/-- The value of element `i` of an E2M1B row. -/
def e2m1bValue (r i : Nat) : Ex := blockValue (blockByte r (i / 24) 12) (blockByte r (i / 24) 13) (blockCode r (i / 24) (i % 24))

/-- A value as an integer multiple of 2^e0. -/
def exAt (x : Ex) (e0 : Int) : Int :=
  match x with
  | .num n m e _ => (if n then -1 else 1) * ((m * pow2 (e - e0) : Nat) : Int)
  | _ => 0

/-- The better of two candidates (code, value) by a strict order of their values; the first stays on a tie. -/
def better (lt : Nat × Int → Nat × Int → Bool) (l : List (Nat × Int)) (first : Nat × Int) : Nat × Int :=
  l.foldl (fun best c => if lt c best then c else best) first

/-- The code chosen for q among the candidates (07 R130). Regular values come first: they win ties of the nearest, as the rule says, and
in every other mode and step a special equal to a regular value too, which the rule leaves open (DESIGN CHOICE, log entry 90). -/
def e2m1Choose (rm p : Nat) (x : Ex) : Coded :=
  let special := decodeF e4m3 false p
  let e (y : Ex) : Int :=
    match y with
    | .num _ _ e _ => e
    | _ => 0
  let e0 : Int := if e x < -12 then e x else -12
  let regular := ([0, 1, 2, 3, 4, 5, 6, 7, 9, 10, 11, 12, 13, 14, 15] : List Nat).map
    (fun c => (c, exAt (blockValue 127 0 c) e0))
  let cands := if special.isNan then regular else regular ++ [(8, exAt special e0)]
  let zero : Nat × Int := (0, 0)
  let largest := better (fun a b => decide (b.2 < a.2)) cands zero
  let smallest := better (fun a b => decide (a.2 < b.2)) cands zero
  match x with
  | .inf n => ((if n then smallest else largest).1, flOF ||| flNX)
  | _ =>
    let q := exAt x e0
    if largest.2 < q then (largest.1, flOF ||| flNX)
    else if q < smallest.2 then (smallest.1, flOF ||| flNX)
    else
      let down := better (fun a b => decide (b.2 < a.2)) (cands.filter (fun c => decide (c.2 ≤ q))) smallest
      let up := better (fun a b => decide (a.2 < b.2)) (cands.filter (fun c => decide (q ≤ c.2))) largest
      let near (a b : Nat × Int) : Bool :=
        let da := (a.2 - q).natAbs
        let db := (b.2 - q).natAbs
        decide (da < db) || (da = db && a.1 != 8 && b.1 != 8 &&
          (if rm = 0 then a.1 % 2 = 0 && b.1 % 2 = 1 else decide (b.2.natAbs < a.2.natAbs)))
      let inward (c : Nat × Int) : Bool := if 0 ≤ q then decide (0 < c.2 ∧ c.2 ≤ q) else decide (q ≤ c.2 ∧ c.2 < 0)
      let pick :=
        match rm with
        | 1 => better (fun a b => decide (b.2.natAbs < a.2.natAbs)) (cands.filter inward) zero
        | 2 => down
        | 3 => up
        | _ => better near cands zero
      (pick.1, if pick.2 = q then 0 else flNX)

/-- The magnitude of a finite value. -/
def exAbs (x : Ex) : Ex :=
  match x with
  | .num _ m e s => .num false m e s
  | y => y

/-- The largest finite magnitude of a list; zero for none. -/
def amaxOf (l : List Ex) : Ex :=
  l.foldl
    (fun a x =>
      match x with
      | .num _ _ _ _ => if exCmp a (exAbs x) = .lt then exAbs x else a
      | _ => a)
    (.num false 0 0 false)

/-- The scale and the special of a block (08 R168). -/
def blockScale (l : List Ex) : Nat × Nat :=
  let amax := amaxOf l
  match amax with
  | .num _ m e _ =>
    if m = 0 then (127, 0)
    else
      let c0 : Int := e + bitLen m - 1 - 2 + 127
      let c : Nat := if c0 < 0 then 0 else if 254 < c0 then 254 else c0.toNat
      let first := (l.find? (fun x => (match x with | .num _ _ _ _ => true | _ => false) && exCmp (exAbs x) amax = .eq)).getD amax
      (c, (encodeF e4m3 0 false true (exScale first (127 - (c : Int)))).1)
  | _ => (127, 0)

/-- The 14 bytes of the block that codes 24 values. -/
def codeBlock (rm : Nat) (l : List Ex) : Coded :=
  if l.any Ex.isNan then (255 * 2 ^ 96, 0)
  else
    let sp := blockScale l
    let r := fillLanes 4 24 (fun k => e2m1Choose rm sp.2 (exScale (l.getD k (.num false 0 0 false)) (127 - (sp.1 : Int))))
    (r.1 + sp.1 * 2 ^ 96 + sp.2 * 2 ^ 104, r.2)

/-! ### INT4 and KV4 (07 R131, R132, 08 R168) -/

/-- The quotient x ÷ s rounded to an integer and saturated to [lo, hi] with IS; a NaN gives 0 and NV. -/
def quantLane (rm : Nat) (lo hi : Int) (x s : Ex) : Coded :=
  let q := (exDiv x s).1
  match q with
  | .nan _ => (0, flNV)
  | .inf n => (wrapInt 4 (if n then lo else hi), flIS)
  | .num n m e st =>
    let r := roundAt rm n m e 0 st
    let v : Int := if n then -(r.1 : Int) else r.1
    if v < lo then (wrapInt 4 lo, flIS)
    else if hi < v then (wrapInt 4 hi, flIS)
    else (wrapInt 4 v, if r.2 then flNX else 0)

/-- The scale of a head vector: amax ÷ 7 rounded up to BF16. -/
def headScale (l : List Ex) : Nat := (encodeF bf16 3 false true (exDiv (amaxOf l) (.num false 7 0 false)).1).1

end Sys2Proof.Machine
end

