-- ==== Sys2Proof/Machine/VecFns.lean ====
section
/-! DEFINITION. What each vector and bit-tile function computes from its slot as it stands at the command's start: its
writes and its flags (08 R156 to R172, 10 R203 to R211). -/

namespace Sys2Proof.Machine

/-- What a command has computed at its start. -/
structure Work where
  effs : List Eff
  flags : BitVec 6 := 0
deriving DecidableEq, Repr

/-- The operand fields of a vector command. -/
def Cmd.vx (c : Cmd) : VxOps := vxOps c.w0 c.w1
def Cmd.ty (c : Cmd) : Nat := c.vx.ty.toNat
def Cmd.aux (c : Cmd) : Nat := c.vx.aux.toNat
def Cmd.vfn (c : Cmd) : Nat := (c.w0.extractLsb' 0 6).toNat

/-- The tag that the command found for an object it reads: its projected tag at push (07 R143). -/
def Cmd.tagOf (c : Cmd) (o : Obj) : Nat := ((c.reads.find? (fun e => e.1 = o)).map (·.2)).getD 0

/-- A row's value, and a tile's. -/
def rowVal (x : Slot) (f : BitVec 8) : Nat := (x.rowRead f.toNat).toNat
def tileVal (x : Slot) (f : BitVec 8) : Nat := (x.tileRead f.toNat).toNat

/-- Lane `i` is chosen by a mask field (08 R148). -/
def chosen (x : Slot) (m : BitVec 4) (i : Nat) : Bool := m = 15 || (x.maskOf m.toNat).getLsbD i

def allSectors : BitVec 16 := 0xFFFF

/-- Every lane of a row is written. -/
def wholeRow (vd ty w n : Nat) (f : Nat → Coded) : Work :=
  let r := fillLanes w n f
  ⟨[.row vd (BitVec.ofNat 8192 r.1) allSectors ty], r.2⟩

/-- The tag of a write that reads its destination, of some lanes or under a mask: it leaves POISON standing (07 R142). -/
def inPart (tag : Nat) : Nat := 16 + tag

/-- The chosen lanes of row vd are written; the others keep their value and raise no flag. -/
def someLanes (x : Slot) (vd ty w n : Nat) (sel : Nat → Bool) (f : Nat → Coded) : Work :=
  let d := (x.rowRead vd).toNat
  let r := fillLanes w n (fun i => if sel i then f i else (laneOf d w i, 0))
  ⟨[.row vd (BitVec.ofNat 8192 r.1) (lanesSectors w n sel) (inPart ty)], r.2⟩

/-- Lanes written under the command's mask field (08 R148). -/
def maskedRow (x : Slot) (c : Cmd) (w n : Nat) (f : Nat → Coded) : Work :=
  if c.vx.mask = 15 then wholeRow c.vx.vd.toNat c.ty w n f
  else someLanes x c.vx.vd.toNat c.ty w n (chosen x c.vx.mask) f

/-- Lanes of a row of which the others are kept, or read zero where the row projected RAW (08 R167). -/
def keptRow (x : Slot) (c : Cmd) (vd ty w n : Nat) (sel : Nat → Bool) (f : Nat → Coded) : Work :=
  if c.tagOf (.row vd) = 0 then wholeRow vd ty w n (fun i => if sel i then f i else (0, 0))
  else someLanes x vd ty w n sel f

/-- A function of the lanes of va, vb and the old vd. -/
def elementwise (x : Slot) (c : Cmd) (f : Nat → Nat → Nat → Coded) : Work :=
  let w := laneBits c.ty
  let a := rowVal x c.vx.va
  let b := rowVal x c.vx.vb
  let d := rowVal x c.vx.vd
  maskedRow x c w (8192 / w) (fun i => f (laneOf a w i) (laneOf b w i) (laneOf d w i))

/-- VADD to VNEG (08 R158). -/
def runArith (op : Arith) (x : Slot) (c : Cmd) : Work := elementwise x c (arithLane op c.ty (c.aux % 2 = 1) c.rounding)

/-- VDIV to VLOG2 (08 R159). -/
def runDiv (x : Slot) (c : Cmd) : Work := elementwise x c (fun a b _ => divLane c.ty c.rounding a b)
def runUnary (f : Nat → Rounding → Nat → Coded) (x : Slot) (c : Cmd) : Work :=
  elementwise x c (fun a _ _ => f c.ty c.rounding a)

/-! ### Row moves (08 R156, R157) -/

/-- VLD: the 1,024 bytes read, under the mask. -/
def runVld (x : Slot) (c : Cmd) (data : Nat) : Work :=
  let w := laneBits c.ty
  maskedRow x c w (8192 / w) (fun i => (laneOf data w i, 0))

/-- VST: the bytes of the chosen lanes. -/
def runVst (x : Slot) (c : Cmd) : Work :=
  let w := laneBits c.ty
  let bytes := fillLanes 1 1024 (fun i => (if chosen x c.vx.mask (8 * i / w) then 1 else 0, 0))
  ⟨[.store c.scal.toNat 1024 (BitVec.ofNat 65536 (rowVal x c.vx.vb)) (BitVec.ofNat 8192 bytes.1)], 0⟩

/-- VMOV: type 0 copies the row and its tag. -/
def runVmov (x : Slot) (c : Cmd) : Work :=
  if c.ty = 0 then
    ⟨[.row c.vx.vd.toNat (x.rowRead c.vx.va.toNat) allSectors (c.tagOf (.row c.vx.va.toNat))], 0⟩
  else elementwise x c (fun a _ _ => (a, 0))

def runVbcst (x : Slot) (c : Cmd) : Work :=
  let w := laneBits c.ty
  maskedRow x c w (8192 / w) (fun _ => (c.scal.toNat, 0))

def runViota (x : Slot) (c : Cmd) : Work :=
  let w := laneBits c.ty
  maskedRow x c w (8192 / w) (fun i => (if c.ty = 2 then (encodeF fp32 0 false false (.num false i 0 false)).1 else i, 0))

def runVtag (x : Slot) (c : Cmd) : Work := ⟨[.row c.vx.vd.toNat (x.rowRead c.vx.va.toNat) allSectors c.ty], 0⟩

/-! ### Logic, shifts, compares (08 R161 to R163) -/

def runLogic (op : Nat) (x : Slot) (c : Cmd) : Work :=
  let w := laneBits c.ty
  elementwise x c (fun a b _ => (logicNat op (2 ^ w - 1) a b, 0))

def runShift (kind : Nat) (x : Slot) (c : Cmd) : Work :=
  elementwise x c (fun a b _ => (shiftLane kind c.ty (if c.aux = 0 then b else c.aux) a, 0))

/-- VCMP: a mask of the lanes that satisfy the condition. -/
def runVcmp (x : Slot) (c : Cmd) : Work :=
  let w := laneBits c.ty
  let a := rowVal x c.vx.va
  let b := rowVal x c.vx.vb
  let r := fillLanes 1 (8192 / w) (fun i =>
    if chosen x c.vx.mask i then
      let h := compareLane c.aux c.ty c.rounding (laneOf a w i) (laneOf b w i)
      (if h.1 then 1 else 0, h.2)
    else (0, 0))
  ⟨[.mask c.vx.vd.toNat (BitVec.ofNat 1024 r.1)], r.2⟩

def runVsel (x : Slot) (c : Cmd) : Work :=
  let w := laneBits c.ty
  let a := rowVal x c.vx.va
  let b := rowVal x c.vx.vb
  wholeRow c.vx.vd.toNat c.ty w (8192 / w) (fun i => (laneOf (if chosen x c.vx.mask i then a else b) w i, 0))

/-- The one bits of a wide value's lowest `n`. -/
def onesOf (v n : Nat) : Nat := (List.range n).foldl (fun k i => k + (v >>> i) % 2) 0

def runVpop (x : Slot) (c : Cmd) : Work :=
  let m := (x.maskOf c.vx.va.toNat).toNat &&& (if c.vx.mask = 15 then 2 ^ 1024 - 1 else (x.maskOf c.vx.mask.toNat).toNat)
  wholeRow c.vx.vd.toNat 1 32 256 (fun i => (if i = 0 then onesOf m 1024 else 0, 0))

def runVmlog (x : Slot) (c : Cmd) : Work :=
  ⟨[.mask c.vx.vd.toNat (BitVec.ofNat 1024
    (logicNat c.aux (2 ^ 1024 - 1) (x.maskOf c.vx.va.toNat).toNat (x.maskOf c.vx.vb.toNat).toNat))], 0⟩

/-! ### Lane movement (08 R164) -/

def runVshuf (x : Slot) (c : Cmd) : Work :=
  let w := laneBits c.ty
  let n := 8192 / w
  let a := rowVal x c.vx.va
  let b := rowVal x c.vx.vb
  let lane (i : Nat) : Coded := (laneOf a w (laneOf b 16 (i - 512 * (c.aux % 2)) % n), 0)
  if n = 1024 then
    keptRow x c c.vx.vd.toNat c.ty w n (fun i => decide (512 * (c.aux % 2) ≤ i ∧ i < 512 * (c.aux % 2) + 512)) lane
  else wholeRow c.vx.vd.toNat c.ty w n lane

def runVrot (x : Slot) (c : Cmd) : Work :=
  let w := laneBits c.ty
  let n := 8192 / w
  let a := rowVal x c.vx.va
  let k := if c.aux = 0 then laneOf (rowVal x c.vx.vb) 32 0 else c.aux
  wholeRow c.vx.vd.toNat c.ty w n (fun i => (laneOf a w ((i + k) % n), 0))

def runVext (x : Slot) (c : Cmd) : Work :=
  let w := laneBits c.ty
  let n := 8192 / w
  let a := rowVal x c.vx.va
  let b := rowVal x c.vx.vb
  wholeRow c.vx.vd.toNat c.ty w n
    (fun i => (if i + c.aux < n then laneOf a w (i + c.aux) else laneOf b w (i + c.aux - n), 0))

def runVins (x : Slot) (c : Cmd) : Work :=
  let w := laneBits c.ty
  let n := 8192 / w
  let j := laneOf (rowVal x c.vx.vb) 32 0 % n
  someLanes x c.vx.vd.toNat c.ty w n (fun i => i = j) (fun _ => (laneOf (rowVal x c.vx.va) w 0, 0))

/-! ### Reduction and scan (08 R165, R166) -/

/-- The lanes that enter a reduction, the identity where masked out. -/
def redLanes (x : Slot) (c : Cmd) (op : Nat) : List Nat :=
  let w := laneBits c.ty
  let a := rowVal x c.vx.va
  (List.range (8192 / w)).map (fun i => if chosen x c.vx.mask i then laneOf a w i else redIdentity op c.ty)

def runVred (x : Slot) (c : Cmd) : Work :=
  let op := c.aux % 8
  let w := laneBits c.ty
  let r := redTree (redLane op c.ty (c.aux / 8 % 2 = 1) c.rounding) (Nat.log2 (8192 / w)) (redLanes x c op)
  ⟨[.row c.vx.vd.toNat (BitVec.ofNat 8192 (r.1 % 2 ^ w)) allSectors c.ty], r.2⟩

def runVscan (x : Slot) (c : Cmd) : Work :=
  let op := c.aux % 4
  let w := laneBits c.ty
  let r := scanLanes (redLane op c.ty (c.aux / 8 % 2 = 1) c.rounding) (c.aux / 4 % 2 = 1) (redLanes x c op)
    (redIdentity op c.ty)
  let out := r.1.toArray
  let row := fillLanes w (8192 / w) (fun i => (out.getD i 0, 0))
  ⟨[.row c.vx.vd.toNat (BitVec.ofNat 8192 row.1) allSectors c.ty], r.2⟩

/-! ### Conversion and quantisation (08 R167 to R169) -/

def runVcvt (x : Slot) (c : Cmd) : Work :=
  let src := c.tagOf (.row c.vx.va.toNat)
  let ws := laneBits src
  let wd := laneBits c.ty
  let ls := 8192 / ws
  let ld := 8192 / wd
  let h := c.aux % 4
  let a := rowVal x c.vx.va
  if ld ≤ ls then wholeRow c.vx.vd.toNat c.ty wd ld (fun i => convertLane src c.ty c.rounding (laneOf a ws (ld * h + i)))
  else
    keptRow x c c.vx.vd.toNat c.ty wd ld (fun i => decide (ls * h ≤ i ∧ i < ls * h + ls))
      (fun i => convertLane src c.ty c.rounding (laneOf a ws (i - ls * h)))

/-- The values of `n` source lanes of VQNT from lane `i`. -/
def quantSource (x : Slot) (c : Cmd) (i n : Nat) : List Ex :=
  let src := c.tagOf (.row c.vx.va.toNat)
  let a := rowVal x c.vx.va
  (List.range n).map (fun k => floatOf src c.rounding (laneOf a (laneBits src) (i + k)))

/-- VQNT (08 R168). Where a KV4's value row is its scale row too, the scales stand (DESIGN CHOICE, log entry 91). -/
def runVqnt (x : Slot) (c : Cmd) : Work :=
  let src := c.tagOf (.row c.vx.va.toNat)
  let ls := lanesOf src
  let vd := c.vx.vd.toNat
  let h := c.aux
  if c.ty = 9 then
    let n := ls / 24
    let raw := c.tagOf (.row vd) = 0
    let d := if raw then 0 else rowVal x c.vx.vd
    let r := fillLanes 112 64 (fun b =>
      if h ≤ b && b < h + n then codeBlock c.rm (quantSource x c (24 * (b - h)) 24) else (laneOf d 112 b, 0))
    let top := Nat.min 64 (h + n)
    let sectors : BitVec 16 := (List.range 16).foldl
      (fun m j => if 14 * h < 64 * (j + 1) && 64 * j < 14 * top then m ||| (1#16 <<< j) else m) 0
    ⟨[.row vd (BitVec.ofNat 8192 r.1) (if raw then allSectors else sectors) (if raw then 9 else inPart 9)], r.2⟩
  else if c.ty = 10 then
    let s := floatOf 2 c.rounding (laneOf (rowVal x c.vx.vb) 32 0)
    let bad := s.isNan || exIsZero s
    let src := (quantSource x c 0 ls).toArray
    let w := keptRow x c vd 10 4 2048 (fun i => decide (ls * h ≤ i ∧ i < ls * h + ls))
      (fun i => if bad then (0, flNV) else quantLane c.rm (-8) 7 (src.getD (i - ls * h) (.nan false)) s)
    w
  else
    let per := ls / 128
    let first := per * h
    let groups := ((List.range per).map (fun k => quantSource x c (128 * k) 128)).toArray
    let scale (k : Nat) : Nat := if exIsZero (amaxOf (groups.getD k [])) then 0 else headScale (groups.getD k [])
    let scales := ((List.range per).map scale).toArray
    let vals := (groups.map (fun l => l.toArray))
    let inside (i : Nat) : Bool := decide (first ≤ i / 128 ∧ i / 128 < first + per)
    let codes := keptRow x c vd 11 4 2048 inside (fun i =>
      let k := i / 128 - first
      let s := scales.getD k 0
      if s = 0 then (0, 0)
      else quantLane c.rm (-7) 7 ((vals.getD k #[]).getD (i % 128) (.nan false)) (decodeF bf16 false s))
    let srow := keptRow x c c.vx.vb.toNat 3 16 512 (fun i => decide (first ≤ i ∧ i < first + per))
      (fun i => (scales.getD (i - first) 0, 0))
    ⟨codes.effs ++ srow.effs, codes.flags⟩

/-- The value of element `i` of a quantised row. -/
def dequantValue (x : Slot) (c : Cmd) (src a i : Nat) : Ex :=
  let n : Ex :=
    let v := intOf 10 (laneOf a 4 i)
    .num (decide (v < 0)) v.natAbs 0 false
  match src with
  | 9 => e2m1bValue a i
  | 10 => n
  | _ => exMul n (decodeF bf16 false (laneOf (rowVal x c.vx.vb) 16 (i / 128)))

def runVdeq (x : Slot) (c : Cmd) : Work :=
  let src := c.tagOf (.row c.vx.va.toNat)
  let a := rowVal x c.vx.va
  let w := laneBits c.ty
  let n := 8192 / w
  wholeRow c.vx.vd.toNat c.ty w n (fun i => floatCode c.ty c.rounding (dequantValue x c src a (n * c.aux + i)))

/-! ### The Hadamard transform (08 R170) -/

/-- One butterfly stage of distance `d`. -/
def hadStage (ty : Nat) (m : Rounding) (y : Array Nat) (n d : Nat) : Array Nat × BitVec 6 :=
  let f (i : Nat) : Coded :=
    if i / d % 2 = 0 then arithLane .add ty false m (y.getD i 0) (y.getD (i + d) 0) 0
    else arithLane .sub ty false m (y.getD (i - d) 0) (y.getD i 0) 0
  let l := (List.range n).map f
  ((l.map (·.1)).toArray, l.foldl (fun b r => b ||| r.2) 0)

def runVhad (x : Slot) (c : Cmd) : Work :=
  let w := laneBits c.ty
  let n := 8192 / w
  let a := rowVal x c.vx.va
  let y0 := ((List.range n).map (laneOf a w)).toArray
  let r := (List.range (if c.aux % 2 = 1 then 8 else 7)).foldl
    (fun (acc : Array Nat × BitVec 6) k =>
      let t := hadStage c.ty c.rounding acc.1 n (2 ^ k)
      (t.1, acc.2 ||| t.2)) (y0, 0)
  let row := fillLanes w n (fun i => (r.1.getD i 0, 0))
  ⟨[.row c.vx.vd.toNat (BitVec.ofNat 8192 row.1) allSectors c.ty], r.2⟩

/-! ### Element contraction (08 R171, R172) -/

def runVopld (x : Slot) (c : Cmd) : Work :=
  ⟨[.opReg c.vx.vd.toNat (BitVec.ofNat 2048 (rowVal x c.vx.va % 2 ^ 2048))], 0⟩

/-- Eight multiply-adds in ascending b, each rounded once. -/
def contract (m : Rounding) (w u : Nat → Nat) (acc b fuel : Nat) : Coded :=
  match fuel with
  | 0 => (acc, 0)
  | k + 1 =>
    let r := arithLane .fma 2 false m (w b) (u b) acc
    let t := contract m w u r.1 (b + 1) k
    (t.1, r.2 ||| t.2)

def runVcon (x : Slot) (c : Cmd) : Work :=
  let stride := 8 ^ (c.aux % 4)
  let op := (x.opOf (c.aux / 4 % 4)).toNat
  let base := c.vx.va.toNat
  let dst := c.vx.vd.toNat
  let pairLane (lo hi n : Nat) : Nat := if n < 256 then laneOf lo 32 n else laneOf hi 32 (n - 256)
  let ulo := (x.rowRead base).toNat
  let uhi := (x.rowRead (base + 1)).toNat
  let dlo := (x.rowRead dst).toNat
  let dhi := (x.rowRead (dst + 1)).toNat
  let node (n : Nat) : Coded :=
    let a := n / stride % 8
    let first := n - a * stride
    contract c.rounding
      (fun b => laneOf op 32 (if c.aux / 32 % 2 = 1 then 8 * b + a else 8 * a + b))
      (fun b => pairLane ulo uhi (first + b * stride))
      (if c.aux / 16 % 2 = 1 then pairLane dlo dhi n else 0) 0 8
  let r0 := fillLanes 32 256 node
  let r1 := fillLanes 32 256 (fun i => node (256 + i))
  ⟨[.row dst (BitVec.ofNat 8192 r0.1) allSectors 2, .row (dst + 1) (BitVec.ofNat 8192 r1.1) allSectors 2], r0.2 ||| r1.2⟩

/-! ### Bit tiles (10 R203 to R211) -/

/-- The 256 rows of a tile's value. -/
def tileRowsOf (t : Nat) : Array Nat := ((List.range 256).map (laneOf t 256)).toArray

def allTileRows : BitVec 256 := BitVec.allOnes 256

/-- A tile written whole. -/
def wholeTile (n : Nat) (f : Nat → Nat) : Work :=
  ⟨[.tile n (BitVec.ofNat 65536 (fillLanes 256 256 (fun i => (f i, 0))).1) allTileRows 12], 0⟩

def runBld (c : Cmd) (data : Nat) : Work := ⟨[.tile c.vx.vd.toNat (BitVec.ofNat 65536 data) allTileRows 12], 0⟩

def runBst (x : Slot) (c : Cmd) : Work :=
  ⟨[.store c.scal.toNat 8192 (x.tileRead c.vx.vb.toNat) (BitVec.allOnes 8192)], 0⟩

def runBrow (x : Slot) (c : Cmd) : Work :=
  let g := c.aux % 8
  if c.aux / 8 % 2 = 0 then
    ⟨[.row c.vx.vd.toNat (BitVec.ofNat 8192 (tileVal x c.vx.va >>> (8192 * g))) allSectors 12], 0⟩
  else
    let n := c.vx.vd.toNat
    let v : Tile := BitVec.ofNat 65536 (rowVal x c.vx.va <<< (8192 * g))
    let rows : BitVec 256 := BitVec.ofNat 256 ((2 ^ 32 - 1) <<< (32 * g))
    if c.tagOf (.tile n) = 0 then ⟨[.tile n v allTileRows 12], 0⟩ else ⟨[.tile n v rows (inPart 12)], 0⟩

def runBfill (x : Slot) (c : Cmd) : Work :=
  let m := (x.maskOf c.vx.vb.toNat).toNat % 2 ^ 256
  wholeTile c.vx.vd.toNat (fun i =>
    match c.aux with
    | 0 => 0
    | 1 => 2 ^ 256 - 1
    | 2 => 2 ^ i
    | 3 => 2 ^ i - 1
    | 4 => 2 ^ (i + 1) - 1
    | 5 => m
    | _ => if (m >>> i) % 2 = 1 then 2 ^ 256 - 1 else 0)

/-- The transposed tile. -/
def transposed (t : Nat) : Array Nat :=
  let rows := tileRowsOf t
  ((List.range 256).map (fun i => (fillLanes 1 256 (fun n => ((rows.getD n 0 >>> i) % 2, 0))).1)).toArray

def runBpop (columns : Bool) (x : Slot) (c : Cmd) : Work :=
  let t := tileVal x c.vx.va
  let rows := if columns then transposed t else tileRowsOf t
  wholeRow c.vx.vd.toNat 1 32 256 (fun i => (onesOf (rows.getD i 0) 256, 0))

def runBtrn (x : Slot) (c : Cmd) : Work :=
  let rows := transposed (tileVal x c.vx.va)
  wholeTile c.vx.vd.toNat (fun i => rows.getD i 0)

def runBcomp (x : Slot) (c : Cmd) : Work :=
  let a := tileRowsOf (tileVal x c.vx.va)
  let b := tileRowsOf (tileVal x c.vx.vb)
  let old := tileRowsOf (tileVal x c.vx.vd)
  wholeTile c.vx.vd.toNat (fun i =>
    let r := a.getD i 0
    let v := (List.range 256).foldl (fun m k => if (r >>> k) % 2 = 1 then m ||| b.getD k 0 else m) 0
    if c.aux % 2 = 1 then v ||| old.getD i 0 else v)

def runBclos (x : Slot) (c : Cmd) : Work :=
  let t := (List.range 256).foldl
    (fun (t : Array Nat) k =>
      let rk := t.getD k 0
      t.map (fun r => if (r >>> k) % 2 = 1 then r ||| rk else r))
    (tileRowsOf (tileVal x c.vx.va))
  wholeTile c.vx.vd.toNat (fun i => if c.aux % 2 = 1 then t.getD i 0 ||| 2 ^ i else t.getD i 0)

def runBlog (x : Slot) (c : Cmd) : Work :=
  ⟨[.tile c.vx.vd.toNat
    (BitVec.ofNat 65536 (logicNat c.aux (2 ^ 65536 - 1) (tileVal x c.vx.va) (tileVal x c.vx.vb))) allTileRows 12], 0⟩

def runVselb (x : Slot) (c : Cmd) : Work :=
  let w := laneBits c.ty
  let n := 8192 / w
  let rows := tileRowsOf (x.tileRead (c.aux % 4)).toNat
  let r := c.scal.toNat % 256
  let sel (i : Nat) : Bool := ((rows.getD ((r + i / 256) % 256) 0 >>> (i % 256)) % 2 = 1) != (c.aux / 4 % 2 = 1)
  let a := rowVal x c.vx.va
  someLanes x c.vx.vd.toNat c.ty w n sel (fun i => (laneOf a w i, 0))

/-! ### All functions -/

/-- What a function of major 0x60 computes. -/
def runVector (x : Slot) (c : Cmd) (data : Nat) : Work :=
  match c.vfn with
  | 0x00 => runVld x c data
  | 0x01 => runVst x c
  | 0x02 => runVmov x c
  | 0x03 => runVbcst x c
  | 0x04 => runViota x c
  | 0x08 => runArith .add x c
  | 0x09 => runArith .sub x c
  | 0x0A => runArith .mul x c
  | 0x0B => runArith .fma x c
  | 0x0C => runArith .fms x c
  | 0x0D => runArith .min x c
  | 0x0E => runArith .max x c
  | 0x0F => runArith .abs x c
  | 0x10 => runArith .neg x c
  | 0x11 => runDiv x c
  | 0x12 => runUnary sqrtLane x c
  | 0x13 => runUnary rsqLane x c
  | 0x14 => runUnary rcpLane x c
  | 0x15 => runUnary exp2Lane x c
  | 0x16 => runUnary log2Lane x c
  | 0x18 => runLogic 0 x c
  | 0x19 => runLogic 1 x c
  | 0x1A => runLogic 2 x c
  | 0x1B => runShift 0 x c
  | 0x1C => runShift 1 x c
  | 0x1D => runShift 2 x c
  | 0x20 => runVcmp x c
  | 0x21 => runVsel x c
  | 0x22 => runVpop x c
  | 0x23 => runVmlog x c
  | 0x28 => runVshuf x c
  | 0x29 => runVrot x c
  | 0x2A => runVext x c
  | 0x2B => runVins x c
  | 0x30 => runVred x c
  | 0x31 => runVscan x c
  | 0x34 => runVcvt x c
  | 0x35 => runVqnt x c
  | 0x36 => runVdeq x c
  | 0x37 => runVtag x c
  | 0x38 => runVhad x c
  | 0x3C => runVcon x c
  | 0x3D => runVopld x c
  | _ => ⟨[], 0⟩

/-- What a function of major 0x61 computes. -/
def runBits (x : Slot) (c : Cmd) (data : Nat) : Work :=
  match c.vfn with
  | 0x00 => runBld c data
  | 0x01 => runBst x c
  | 0x02 => runBrow x c
  | 0x03 => runBfill x c
  | 0x08 => runBpop false x c
  | 0x09 => runBpop true x c
  | 0x0A => runBtrn x c
  | 0x0B => runBcomp x c
  | 0x0C => runBclos x c
  | 0x0D => runBlog x c
  | 0x10 => runVselb x c
  | _ => ⟨[], 0⟩

end Sys2Proof.Machine
end

