-- ==== Sys2Proof/Machine/Engine.lean ====
section
/-! DEFINITION. What the vector and the matrix engine share: the objects a vector command reads and writes with the tags
they must carry (07 R142, R143), projected tags, pushes (08 R145, 09 R185), and how effects land (08 R150, R154). -/

namespace Sys2Proof.Machine

/-! ### The function rows (08 R160, 10 R202) -/

/-- The table row of a vector command's function. -/
def vecRow (c : Cmd) : VRow :=
  if majorOf c.w0 = 0x60 then
    match c.vfn with
    | 0x00 => vldRow | 0x01 => vstRow | 0x02 => vmovRow | 0x03 => vbcstRow | 0x04 => viotaRow | 0x08 => vaddRow
    | 0x09 => vsubRow | 0x0A => vmulRow | 0x0B => vfmaRow | 0x0C => vfmsRow | 0x0D => vminRow | 0x0E => vmaxRow
    | 0x0F => vabsRow | 0x10 => vnegRow | 0x11 => vdivRow | 0x12 => vsqrtRow | 0x13 => vrsqRow | 0x14 => vrcpRow
    | 0x15 => vexp2Row | 0x16 => vlog2Row | 0x18 => vandRow | 0x19 => vorRow | 0x1A => vxorRow | 0x1B => vshlRow
    | 0x1C => vshrRow | 0x1D => vsarRow | 0x20 => vcmpRow | 0x21 => vselRow | 0x22 => vpopRow | 0x23 => vmlogRow
    | 0x28 => vshufRow | 0x29 => vrotRow | 0x2A => vextRow | 0x2B => vinsRow | 0x30 => vredRow | 0x31 => vscanRow
    | 0x34 => vcvtRow | 0x35 => vqntRow | 0x36 => vdeqRow | 0x37 => vtagRow | 0x38 => vhadRow | 0x3C => vconRow
    | _ => vopldRow
  else
    match c.vfn with
    | 0x00 => bldRow | 0x01 => bstRow | 0x02 => browRow | 0x03 => bfillRow | 0x08 => bpoprRow | 0x09 => bpopcRow
    | 0x0A => btrnRow | 0x0B => bcompRow | 0x0C => bclosRow | 0x0D => blogRow | _ => vselbRow

/-- The cycles a command holds its pipes, and its latency; where the row gives neither they follow log2 of the lanes, or
of the group. -/
def vecHold (c : Cmd) : Nat :=
  let r := vecRow c
  if r.hold != 0 then r.hold
  else if r.fn = 0x38 then (if c.aux % 2 = 1 then 8 else 7)
  else Nat.log2 (lanesOf c.ty)

def vecLat (c : Cmd) : Nat := if (vecRow c).lat != 0 then (vecRow c).lat else vecHold c + 4

/-! ### What a command reads and writes -/

/-- An object read, the tags it may carry (none for masks and operator registers, which carry no tag), and the tag that
a refusal names as expected. -/
structure Need where
  obj : Obj
  accept : List Nat
  want : Nat
deriving DecidableEq, Repr

/-- Any tag but POISON; a refusal names 0, for no single tag is expected (DEDUCED from 10 R198, log entry 20). -/
def anyTag (o : Obj) : Need := ⟨o, List.range 15, 0⟩
def exactly (o : Obj) (t : Nat) : Need := ⟨o, [t], t⟩
/-- The tag, or RAW where the object is written in part or as it comes (07 R142); a refusal names the tag (DESIGN CHOICE, log entry 20). -/
def orRaw (o : Obj) (t : Nat) : Need := ⟨o, [0, t], t⟩
def untagged (o : Obj) : Need := ⟨o, [], 0⟩

/-- Type 0 takes any tag but POISON. -/
def typed (o : Obj) (t : Nat) : Need := if t = 0 then anyTag o else exactly o t

/-- A function of major 0x60 whose mask field guards its destination (08 R148). -/
def guardsDest (fn : Nat) : Bool := fn ≤ 0x1D && fn != 1

/-- What a function of major 0x60 reads; `proj` gives projected tags. A VQNT takes a RAW destination for all its three types (DESIGN
CHOICE, log entry 91). -/
def vectorNeeds (fn : Nat) (v : VxOps) (proj : Obj → Nat) : List Need :=
  let t := v.ty.toNat
  let x := v.aux.toNat
  let a : Obj := .row v.va.toNat
  let b : Obj := .row v.vb.toNat
  let d : Obj := .row v.vd.toNat
  let own : List Need :=
    match fn with
    | 0x00 | 0x03 | 0x04 => []
    | 0x01 => [typed b t]
    | 0x02 => [typed a t]
    | 0x0B | 0x0C => [exactly a t, exactly b t, exactly d t]
    | 0x0F | 0x10 | 0x12 | 0x13 | 0x14 | 0x15 | 0x16 => [exactly a t]
    | 0x18 | 0x19 | 0x1A => [typed a t, typed b t]
    | 0x1B | 0x1C | 0x1D => if x = 0 then [exactly a t, exactly b t] else [exactly a t]
    | 0x22 => [untagged (.mask v.va.toNat)]
    | 0x23 =>
      if x ≤ 3 then [untagged (.mask v.va.toNat), untagged (.mask v.vb.toNat)]
      else if x ≤ 5 then [untagged (.mask v.va.toNat)] else []
    | 0x28 => [exactly a t, exactly b 4] ++ (if lanesOf t = 1024 then [orRaw d t] else [])
    | 0x29 => if x = 0 then [exactly a t, exactly b 1] else [exactly a t]
    | 0x2B => [exactly a t, exactly b 1, exactly d t]
    | 0x30 | 0x31 | 0x38 => [exactly a t]
    | 0x34 => ⟨a, [1, 2, 3, 4, 5, 6, 7, 8, 13], 0⟩ :: (if lanesOf (proj a) < lanesOf t then [orRaw d t] else [])
    | 0x35 =>
      ⟨a, [2, 3], 0⟩ ::
        ((if t = 10 then [exactly b 2] else if t = 11 then [orRaw b 3] else []) ++ [orRaw d t])
    | 0x36 => ⟨a, [9, 10, 11], 0⟩ :: (if proj a = 11 then [exactly b 3] else [])
    | 0x37 => [anyTag a]
    | 0x3C =>
      [exactly a 2, exactly (.row (v.va.toNat + 1)) 2, untagged (.opReg (x / 4 % 4))] ++
        (if x / 16 % 2 = 1 then [exactly d 2, exactly (.row (v.vd.toNat + 1)) 2] else [])
    | 0x3D => [exactly a 2]
    | _ => [exactly a t, exactly b t]
  let mask : List Need := if v.mask = 15 then [] else [untagged (.mask v.mask.toNat)]
  let dest : List Need := if v.mask != 15 && guardsDest fn && fn != 0x0B && fn != 0x0C then [exactly d t] else []
  own ++ dest ++ mask

/-- What a function of major 0x61 reads. -/
def bitNeeds (fn : Nat) (v : VxOps) : List Need :=
  let x := v.aux.toNat
  let t (f : BitVec 8) : Need := exactly (.tile f.toNat) 12
  match fn with
  | 0x00 => []
  | 0x01 => [t v.vb]
  | 0x02 => if x / 8 % 2 = 0 then [t v.va] else [exactly (.row v.va.toNat) 12, orRaw (.tile v.vd.toNat) 12]
  | 0x03 => if x = 5 || x = 6 then [untagged (.mask v.vb.toNat)] else []
  | 0x08 | 0x09 | 0x0A | 0x0C => [t v.va]
  | 0x0B => [t v.va, t v.vb] ++ (if x % 2 = 1 then [t v.vd] else [])
  | 0x0D => if x ≤ 3 then [t v.va, t v.vb] else if x ≤ 5 then [t v.va] else []
  | _ =>
    [exactly (.row v.va.toNat) v.ty.toNat, exactly (.row v.vd.toNat) v.ty.toNat, exactly (.tile (x % 4)) 12]

/-- What a vector command writes, with the tag it gives. -/
def vecWrites (major fn : Nat) (v : VxOps) (proj : Obj → Nat) : List (Obj × Nat) :=
  let t := v.ty.toNat
  let d : Obj := .row v.vd.toNat
  if major = 0x60 then
    match fn with
    | 0x01 => []
    | 0x02 => [(d, if t = 0 then proj (.row v.va.toNat) else t)]
    | 0x20 | 0x23 => [(.mask v.vd.toNat, 0)]
    | 0x22 => [(d, 1)]
    | 0x35 => if t = 11 then (if v.vd = v.vb then [(d, 3)] else [(d, t), (.row v.vb.toNat, 3)]) else [(d, t)]
    | 0x3C => [(d, 2), (.row (v.vd.toNat + 1), 2)]
    | 0x3D => [(.opReg v.vd.toNat, 0)]
    | _ => [(d, t)]
  else
    match fn with
    | 0x01 => []
    | 0x02 => if v.aux.toNat / 8 % 2 = 0 then [(d, 12)] else [(.tile v.vd.toNat, 12)]
    | 0x08 | 0x09 => [(d, 1)]
    | 0x10 => [(d, t)]
    | _ => [(.tile v.vd.toNat, 12)]

def vecNeeds (major fn : Nat) (v : VxOps) (proj : Obj → Nat) : List Need :=
  if major = 0x60 then vectorNeeds fn v proj else bitNeeds fn v

/-! ### Projected tags (07 R143) -/

/-- The tag an object carries now; masks and operator registers carry none. -/
def Slot.tagNow (x : Slot) (o : Obj) : Nat :=
  match o with
  | .row n => x.rowTagOf n
  | .tile n => x.tileTagOf n
  | .key => x.keyTag
  | _ => 0

/-- The tag an object would carry had no completed command failed (07 R143). -/
def Slot.tagClean (x : Slot) (o : Obj) : Nat := (o.index.bind (fun k => x.unfailed.find? (fun e => e.1 = k))).elim (x.tagNow o) (·.2)

/-- The tags of what a failed command was to write, as projected tags count them. -/
def Slot.noteFailed (x : Slot) (writes : List (Obj × Nat)) : Slot :=
  writes.foldl
    (fun (y : Slot) e =>
      match e.1.index with
      | some k => { y with unfailed := y.unfailed.set k e.2 }
      | none => y)
    x

/-- The commands of a slot that are pushed and neither completed nor discarded. -/
def slotCmds (s : State) (slot : Nat) : List Cmd :=
  let c := s.core (coreOf slot)
  (c.vq ++ c.mq ++ (c.vrun.filter (fun r => r.landedAt = 0)).map (·.cmd) ++
    (c.mrun.filter (fun r => r.landedAt = 0)).map (·.cmd)).filter (fun m => m.slot = slot && !m.nullified)

/-- The tag an object will carry once every pushed command of the slot has completed without failure: the last one pushed
that writes it decides. -/
def projTag (s : State) (slot : Nat) (o : Obj) : Nat :=
  ((slotCmds s slot).foldl
    (fun (best : Nat × Nat) m =>
      match m.writes.find? (fun e => e.1 = o) with
      | some e => if best.1 ≤ m.seq then (m.seq, e.2) else best
      | none => best)
    (0, (s.slot slot).tagClean o)).2

/-- The number an object has in sys.tval. -/
def Obj.num (o : Obj) : Nat :=
  match o with
  | .row n => n
  | .tile n => n
  | .mask n => n
  | .opReg n => n
  | .key => 0xF1

/-- sys.tval of FMT (07 R143). -/
def fmtVal (num want found : Nat) : Word := BitVec.ofNat 64 (num % 256 + want % 16 * 256 + found % 16 * 4096)

/-- A read whose projected tag is refused. -/
def badNeed (s : State) (slot : Nat) (l : List Need) : Option Need :=
  l.find? (fun n => !n.accept.isEmpty && !n.accept.contains (projTag s slot n.obj))

/-- The reads with the tags found. -/
def readsOf (s : State) (slot : Nat) (l : List Need) : List (Obj × Nat) := l.map (fun n => (n.obj, projTag s slot n.obj))

/-! ### Pushes -/

/-- A command with what its push captures (07 R135, 08 R145). -/
def newCmd (s : State) (i : Instr) (engine : Nat) (nullified : Bool) (scal : Word) (seq : Nat) : Cmd :=
  let c := s.myRole
  { engine := engine, slot := s.me, w0 := (encode i).1, w1 := (encode i).2, nullified := nullified, scal := scal,
    rm := bitsOf c.fpctl 0 3, fin := c.fpctl.getLsbD 3, fout := c.fpctl.getLsbD 4, dom := (s.slot s.me).domain, sup := c.sup,
    dph := (s.slot s.me).dphaser, addr := c.pc, seq := seq, pushed := s.cycle, timed := (s.slot s.me).timed,
    scope :=
      if nullified then noScope
      else
        match (s.slot s.me).strand with
        | some t => if t.boot then noScope else t.scope
        | none => noScope,
    reads := [], writes := [] }

/-- Core push order (09 R185): by cycle, then by slot, then as pushed. -/
def cmdBefore (a b : Cmd) : Bool :=
  decide (a.pushed < b.pushed) ||
    (a.pushed = b.pushed && (decide (a.slot < b.slot) || (a.slot = b.slot && decide (a.seq < b.seq))))

/-- A command enters a queue at its place. -/
def enqueue (l : List Cmd) (m : Cmd) : List Cmd := l.takeWhile (fun x => cmdBefore x m) ++ m :: l.dropWhile (fun x => cmdBefore x m)

/-- The command enters its engine's queue and counts in its scope. -/
def pushCmd (s : State) (m : Cmd) : State :=
  let s1 := s.modCore (coreOf m.slot) (fun c =>
    if m.engine = 0 then { c with vq := enqueue c.vq m } else { c with mq := enqueue c.mq m })
  cmdInc s1 m.scope

/-- The queue of an engine holds 16 commands; of two pushes in one cycle for its last place, the position served first has it
(DESIGN CHOICE, log entry 76). -/
def queueFull (s : State) (engine : Nat) : Bool :=
  let c := s.core (coreOf s.me)
  16 ≤ (if engine = 0 then c.vq.length else c.mq.length)

/-- A scratchpad offset of `n` bytes: ALIGN, then XLATE with reason 1 for the range or 10 for the ownership (08 R156,
13 R270). -/
def checkOffset (s : State) (o : Word) (n : Nat) (next : State → Did) : Did :=
  let bad (r : Nat) : Did := .trap (logXlate s s.me r o) 4 o
  if o.toNat % 64 ≠ 0 then .trap s 3 o
  else if 4194304 < o.toNat + n then bad 1
  else if !ownsBytes s (coreOf s.me) o.toNat n (s.slot s.me).domain s.myRole.sup then bad 10
  else next s

/-- A nullified push: the command keeps its place and does nothing else (08 R153, 09 R193). -/
def pushNullified (i : Instr) (engine : Nat) (uses : State → Cmd → Cmd) (s : State) : State :=
  let (seq, s1) := takeSeq s
  pushCmd s1 (uses s1 (newCmd s1 i engine true 0 seq))

/-- A push: the queue has room, the scalar is read; then the check `pre` that comes before the tags, the tags, and the
function's own checks `post`. -/
def pushEngine (i : Instr) (engine : Nat) (ok : Bool) (srcs : List (BitVec 5)) (uses : State → Cmd → Cmd)
    (needs : State → Cmd → List Need) (pre : Cmd → Option (Nat × Word)) (post : State → Cmd → (State → Did) → Did)
    (s : State) : State :=
  gate i true (fun r => r = .computer && ok) false (pushNullified i engine uses)
    (fun s =>
      if queueFull s engine then .wait s 4
      else
        operands { srcs := srcs, early := true }
          (fun v s =>
            let (seq, s1) := takeSeq s
            let m := uses s (newCmd s i engine false (v.getD 0 0) seq)
            match pre m with
            | some (cause, tval) => .trap s cause tval
            | none =>
              match badNeed s s.me (needs s m) with
              | some n => .trap s 6 (fmtVal n.obj.num n.want (projTag s s.me n.obj))
              | none => post s1 m (fun s2 => .done (pushCmd s2 m))) s) s

/-! ### Effects (08 R150) -/

/-- The sectors of a row's tail that E2M1B leaves unused: bytes 896 to 1,023, written as zero (07 R141). -/
def tailSectors : BitVec 16 := 0xC000

/-- A row is written with a tag; a write in part leaves POISON standing (07 R142). -/
def Slot.landRowEff (x : Slot) (n : Nat) (v : Row) (sectors : BitVec 16) (tag : Nat) : Slot :=
  let y :=
    if tag % 16 = 9 then x.rowWrite n (v &&& BitVec.ofNat 8192 (2 ^ 7168 - 1)) (sectors ||| tailSectors)
    else x.rowWrite n v sectors
  if 16 ≤ tag && x.rowTagOf n = 15 then y else y.setRowTag n (tag % 16)

/-- So for a tile. -/
def Slot.landTileEff (x : Slot) (n : Nat) (v : Tile) (rows : BitVec 256) (tag : Nat) : Slot :=
  let y := x.tileWrite n v rows
  if 16 ≤ tag && x.tileTagOf n = 15 then y else y.setTileTag n (tag % 16)

/-- A write to a slot's rows, tiles, masks and registers lands. -/
def Slot.applyEff (x : Slot) (e : Eff) : Slot :=
  match e with
  | .row n v sectors tag => x.landRowEff n v sectors tag
  | .tile n v rows tag => x.landTileEff n v rows tag
  | .mask n v => { x with masks := x.masks.put n v 0 }
  | .opReg n v => { x with opRegs := x.opRegs.put n v 0 }
  | .key v tag part => { x.setKeyTag tag part with key := v, keyStale := false }
  | .pred kind n v => x.setPred kind n v
  | .store _ _ _ _ => x

/-- A chosen byte of a unit. -/
def chosenBytes (bytes : Row) (u : Nat) : Nat := (bytes.toNat >>> (8 * u)) % 256

/-- The metadata of the lines that a command touches is read: single-bit errors are corrected (20 R427). -/
def mendLines (s : State) (m : Cmd) (off len : Nat) (touched : Nat → Bool) : State :=
  (List.range (len / 64)).foldl
    (fun acc j =>
      let p : Place := .spad (coreOf m.slot) (off + 64 * j)
      if touched j && !lineBad acc p then eccMeta acc p m.slot m.dom else acc)
    s

/-- Every line of the scratchpad that a plain access of the command touches is allowed, or the first that is refused
(14 R296); a line whose metadata cannot be relied on refuses nothing. -/
def refusedLine (s : State) (m : Cmd) (off len : Nat) (touched : Nat → Bool) : Option Place :=
  let p (j : Nat) : Place := .spad (coreOf m.slot) (off + 64 * j)
  ((List.range (len / 64)).find? (fun j =>
    touched j && !lineBad s (p j) && !stampAllows (metaAt s (p j)) m.slot m.dph)).map p

/-- The bytes of a store are performed as plain writes by the slot. -/
def performStore (s : State) (m : Cmd) (off len : Nat) (v : Tile) (bytes : Row) : State :=
  let stamp := stampPlain m.slot m.dph
  (List.range (len / 8)).foldl
    (fun acc u =>
      let sel := chosenBytes bytes u
      let p : Place := .spad (coreOf m.slot) (off + 8 * u)
      let w := (v.toNat >>> (64 * u)) % 2 ^ 64
      if sel = 255 then performWrite acc p 8 w stamp m.slot m.dom
      else
        (List.range 8).foldl
          (fun a b => if sel / 2 ^ b % 2 = 1 then performWrite a (p.plus b) 1 (w / 2 ^ (8 * b) % 256) stamp m.slot m.dom else a)
          acc)
    s

/-- Flags reach the pushing role's sys.fpctl (07 R136). -/
def orFlags (s : State) (slot : Nat) (f : BitVec 6) : State :=
  s.modRole slot .computer (fun c => { c with fpctl := c.fpctl ||| (BitVec.setWidth 64 f <<< 8) })

/-- A command's error goes to the cluster error log; its ADDR is the offset of a command that has one, else open, as is
the journal index (17 R372, log entry 6). -/
def logCommand (s : State) (m : Cmd) (code : Nat) (off : Option Word) : State :=
  let (j, s1) := takeFree s 5
  let (a, s2) := takeFree s1 64
  logError s2 (clusterOf m.slot) 5 m.slot m.dom 0 code 0 j.toNat (off.getD a) 0

/-- The slot has made progress in this cycle: a command has started or completed (20 R431). -/
def State.noteMoved (s : State) (slot : Nat) : State := s.modSlot slot (fun x => { x with moved := true })

/-- The signal is given and the command counts no more. -/
def finishCmd (s : State) (m : Cmd) : State :=
  let s1 := if m.nullified then s else commandSignal s m.slot .computer m.addr m.w1
  (cmdDec s1 m.scope).noteMoved m.slot

/-- An effect without the sectors of a row, or the rows of a tile, that the write of another engine keeps (09 R191, 10 R201). -/
def Eff.cut (o : Obj) (w : BitVec 256) (e : Eff) : Eff :=
  match e with
  | .row n v sectors tag => if o = .row n then .row n v (sectors &&& ~~~BitVec.setWidth 16 w) tag else e
  | .tile n v rows tag => if o = .tile n then .tile n v (rows &&& ~~~w) tag else e
  | e => e

/-- The run is under way, without a fault, for a slot. -/
def Run.unlanded (r : Run) (slot : Nat) : Bool := r.landedAt = 0 && r.fault = 0 && r.cmd.slot = slot

/-- Old or new, for each unit of `k` bits by a free value (08 R152, 09 R191, 10 R201). -/
def mixUnits {w : Nat} (s : State) (k : Nat) (old new : BitVec w) : State × BitVec w :=
  let (f, s1) := takeFree s (w / k)
  let m := (List.range (w / k)).foldl
    (fun (m : BitVec w) i => if f.getLsbD i then m ||| (BitVec.ofNat w (2 ^ k - 1) <<< (k * i)) else m) 0
  (s1, (new &&& m) ||| (old &&& ~~~m))

/-- A value where runs of another engine are still to write others over it: each unit is one of them. -/
def mixAll {w : Nat} (s : State) (k : Nat) (old : BitVec w) (news : List (BitVec w)) : State × BitVec w :=
  news.foldl (fun a v => mixUnits a.1 k a.2 v) (s, old)

/-- The values of a mask that the runs of a list are still to write. -/
def maskNews (l : List Run) (slot n : Nat) : List (BitVec 1024) :=
  (l.filter (fun r => r.unlanded slot)).flatMap (fun r => r.effs.filterMap (fun e =>
    match e with
    | .mask k v => if k = n then some v else none
    | _ => none))

/-- The code address of the pushing instruction over 32 bits. -/
def withAddr (m : Cmd) (lo : Nat) : Word := m.addr ++ BitVec.ofNat 32 lo

/-- The slot takes an engine's trap (20 R405). -/
def engineTrap (s : State) (m : Cmd) (cause : Nat) (tval : Word) : State :=
  addPending s m.slot ⟨.computer, cause, tval, true, .computer⟩

/-- sys.tval of FMT found by an engine, on POISON where nothing else is said. -/
def engineFmt (m : Cmd) (num want : Nat) (found : Nat := 15) : Word :=
  withAddr m (num % 256 + want % 16 * 256 + found * 4096 + 65536)

/-! ### Times (08 R149, 12 R241) -/

/-- The write of a started command counts for command `m`: it has landed, in the ticks of a timed strand too. -/
def Run.doneFor (r : Run) (s : State) (m : Cmd) : Bool :=
  r.landedAt != 0 && (!m.timed || !r.cmd.timed || decide (r.tick0 + r.lat ≤ s.vcc))

/-- The command still holds its pipes or path against `m`. -/
def Run.holds (r : Run) (s : State) (m : Cmd) : Bool :=
  decide (s.cycle < r.start + r.hold) ||
    (m.timed && r.cmd.timed && r.cmd.slot = m.slot && decide (s.vcc < r.tick0 + r.hold))

/-- A command may start in this cycle as far as its push goes: the cycle after it at the earliest, and in a paused cycle
none of a timed strand. -/
def ripe (s : State) (m : Cmd) : Bool := decide (m.pushed < s.cycle) && !(m.timed && s.vccPaused)

/-- A landed command that nothing looks at any more: flags of its cycle are settled and its ticks have passed. -/
def Run.over (r : Run) (s : State) : Bool :=
  r.landedAt != 0 && decide (r.landedAt < s.cycle) &&
    (!r.cmd.timed || !(s.slot r.cmd.slot).timed || decide (r.tick0 + Nat.max r.lat r.hold ≤ s.vcc))

/-- A started command with nothing to write yet. -/
def emptyRun (s : State) (m : Cmd) (hold lat pipes : Nat) : Run :=
  { cmd := m, start := s.cycle, tick0 := s.vcc, hold := hold, lat := lat, land := s.cycle + lat, lastPass := s.cycle,
    pipes := pipes, effs := [], flags := 0, fault := 0, tval := 0, rows := [], preds := [], plane := ⟨0, 0, 0⟩ }

/-- The first read whose object is found POISON at the start (07 R143). -/
def poisonedNeed (x : Slot) (l : List Need) : Option Need := l.find? (fun n => !n.accept.isEmpty && x.tagNow n.obj = 15)

/-- The port takes a command's request for each line of a range (20 R430). -/
def notePorts (s : State) (core off len : Nat) : State :=
  (List.range ((len + 63) / 64)).foldl (fun acc j => notePort acc (.spad core (off + 64 * j))) s

/-- Read scratchpad bytes for a command: a refused line gives MMX (5), an uncorrectable error ECC (15). -/
def readSpad (s : State) (m : Cmd) (off len : Nat) : State × Except Nat Nat :=
  let s0 := mendLines s m off len (fun _ => true)
  match refusedLine s0 m off len (fun _ => true) with
  | some p => (logMmx s0 m.slot m.dom p p.addr, .error 5)
  | none =>
    match readUnits (notePorts s0 (coreOf m.slot) off len) (.spad (coreOf m.slot) off) len m.slot m.dom with
    | (s1, some v) => (s1, .ok v)
    | (s1, none) => (s1, .error 15)

/-- The error code of a cause (17 R372). -/
def errorCode (fault : Nat) : Nat :=
  match fault with
  | 5 => 0x0300
  | 6 => 0x0F00
  | _ => 0x0200

/-- A command's entry of its queue is read as it starts, at its position: whether it can be relied on (20 R427; DESIGN CHOICE, log entry
86). -/
def readCmd (s : State) (m : Cmd) : State × Bool :=
  let c := s.core (coreOf m.slot)
  let l := if m.engine = 0 then c.vq else c.mq
  let at' := 128 + 16 * m.engine + (l.takeWhile (fun x => x.seq != m.seq)).length
  (logFlips s m.slot m.dom 6 (BitVec.ofNat 64 at') m.flips, m.nullified || decide (popcount m.flips < 2))

/-- The token a command waits on is there, or it waits on none. -/
def tokenReady (s : State) (m : Cmd) : Bool :=
  match waitToken m.w1 with
  | some t => m.nullified || decide (0 < tokenNow s m.slot t)
  | none => true

/-- The wait takes its token. -/
def consumeToken (s : State) (m : Cmd) : State :=
  match waitToken m.w1 with
  | some t => if m.nullified then s else (takeToken s m.slot t).getD s
  | none => s

end Sys2Proof.Machine
end

