-- ==== Sys2Proof/Machine/Vector.lean ====
section
/-! DEFINITION. The vector instructions (08 R145 to R172) and the bit-tile instructions (10 R201 to R211). -/

namespace Sys2Proof.Machine

/-! ### Pushes -/

/-- The reads and writes of a vector command, by the tags projected at its push. -/
def vecUses (s : State) (m : Cmd) : Cmd :=
  let proj := projTag s m.slot
  let major := majorOf m.w0
  { m with reads := readsOf s m.slot (vecNeeds major m.vfn m.vx proj), writes := vecWrites major m.vfn m.vx proj }

/-- The tags a vector command needs. -/
def vecNeedsOf (s : State) (m : Cmd) : List Need := vecNeeds (majorOf m.w0) m.vfn m.vx (projTag s m.slot)

/-- A push of the vector engine. -/
def pushVec (i : Instr) (ok : Bool) (srcs : List (BitVec 5)) (post : State → Cmd → (State → Did) → Did) (s : State) :
    Host.Outcome State Fault Refusal :=
  .next (pushEngine i 0 ok srcs vecUses vecNeedsOf (fun _ => none) post s)

/-- Nothing more to check. -/
def noCheck (s : State) (_ : Cmd) (next : State → Did) : Did := next s

/-- A function without a scalar. -/
def pushPlain (i : Instr) (s : State) : Host.Outcome State Fault Refusal := pushVec i true [] noCheck s

/-- A function whose field names a load queue that brings its offset (08 R156, 10 R203). -/
def pushOffset (i : Instr) (field : BitVec 8) (n : Nat) (s : State) : Host.Outcome State Fault Refusal :=
  pushVec i (decide (28 ≤ field.toNat ∧ field.toNat ≤ 31)) [field.extractLsb' 0 5]
    (fun s m next => checkOffset s m.scal n next) s

/-- A part number beyond its limit, which depends on a projected tag, is ILL at check 6; the spec names no value for
sys.tval there. -/
def checkPart (limit : Cmd → Nat) (s : State) (m : Cmd) (next : State → Did) : Did :=
  if m.aux < limit m then next s else trapFree s 1

/-- VLD (08 R156). -/
def execVld (st : BitVec 3) (v : VxOps) (s : State) : Host.Outcome State Fault Refusal := pushOffset (.vld st v) v.va 1024 s

/-- VST (08 R156). -/
def execVst (st : BitVec 3) (v : VxOps) (s : State) : Host.Outcome State Fault Refusal := pushOffset (.vst st v) v.va 1024 s

/-- VBCST (08 R157). -/
def execVbcst (st : BitVec 3) (v : VxOps) (s : State) : Host.Outcome State Fault Refusal :=
  pushVec (.vbcst st v) true [v.va.extractLsb' 0 5] noCheck s

/-- The parts a VCVT may name: the larger lane count over the smaller (08 R167). -/
def cvtParts (m : Cmd) : Nat :=
  let ls := lanesOf (m.tagOf (.row m.vx.va.toNat))
  let ld := lanesOf m.ty
  Nat.max ls ld / Nat.min ls ld

/-- VCVT (08 R167). -/
def execVcvt (st : BitVec 3) (v : VxOps) (s : State) : Host.Outcome State Fault Refusal :=
  pushVec (.vcvt st v) true [] (checkPart cvtParts) s

/-- The parts a VQNT may name (08 R168). -/
def qntParts (m : Cmd) : Nat := if m.ty = 9 then 64 else 2048 / lanesOf (m.tagOf (.row m.vx.va.toNat))

/-- VQNT (08 R168). -/
def execVqnt (st : BitVec 3) (v : VxOps) (s : State) : Host.Outcome State Fault Refusal :=
  pushVec (.vqnt st v) true [] (checkPart qntParts) s

/-- VDEQ (08 R169): the part's limit, and a vb that only KV4 uses. -/
def deqCheck (s : State) (m : Cmd) (next : State → Did) : Did :=
  let src := m.tagOf (.row m.vx.va.toNat)
  if m.aux < lanesOf src / lanesOf m.ty && (src = 11 || m.vx.vb = 0) then next s else trapFree s 1

/-- VDEQ (08 R169). -/
def execVdeq (st : BitVec 3) (v : VxOps) (s : State) : Host.Outcome State Fault Refusal :=
  pushVec (.vdeq st v) true [] deqCheck s

/-- BLD (10 R203). -/
def execBld (st : BitVec 3) (v : VxOps) (s : State) : Host.Outcome State Fault Refusal := pushOffset (.bld st v) v.va 8192 s

/-- BST (10 R203). -/
def execBst (st : BitVec 3) (v : VxOps) (s : State) : Host.Outcome State Fault Refusal := pushOffset (.bst st v) v.va 8192 s

/-- VSELB (10 R211). -/
def execVselb (st : BitVec 3) (v : VxOps) (s : State) : Host.Outcome State Fault Refusal :=
  pushVec (.vselb st v) true [v.vb.extractLsb' 0 5] noCheck s

/-- VMOV (08 R157). -/
def execVmov (st : BitVec 3) (v : VxOps) (s : State) : Host.Outcome State Fault Refusal := pushPlain (.vmov st v) s

/-- VIOTA (08 R157). -/
def execViota (st : BitVec 3) (v : VxOps) (s : State) : Host.Outcome State Fault Refusal := pushPlain (.viota st v) s

/-- VADD (08 R158). -/
def execVadd (st : BitVec 3) (v : VxOps) (s : State) : Host.Outcome State Fault Refusal := pushPlain (.vadd st v) s

/-- VSUB (08 R158). -/
def execVsub (st : BitVec 3) (v : VxOps) (s : State) : Host.Outcome State Fault Refusal := pushPlain (.vsub st v) s

/-- VMUL (08 R158). -/
def execVmul (st : BitVec 3) (v : VxOps) (s : State) : Host.Outcome State Fault Refusal := pushPlain (.vmul st v) s

/-- VFMA (08 R158). -/
def execVfma (st : BitVec 3) (v : VxOps) (s : State) : Host.Outcome State Fault Refusal := pushPlain (.vfma st v) s

/-- VFMS (08 R158). -/
def execVfms (st : BitVec 3) (v : VxOps) (s : State) : Host.Outcome State Fault Refusal := pushPlain (.vfms st v) s

/-- VMIN (08 R158). -/
def execVmin (st : BitVec 3) (v : VxOps) (s : State) : Host.Outcome State Fault Refusal := pushPlain (.vmin st v) s

/-- VMAX (08 R158). -/
def execVmax (st : BitVec 3) (v : VxOps) (s : State) : Host.Outcome State Fault Refusal := pushPlain (.vmax st v) s

/-- VABS (08 R158). -/
def execVabs (st : BitVec 3) (v : VxOps) (s : State) : Host.Outcome State Fault Refusal := pushPlain (.vabs st v) s

/-- VNEG (08 R158). -/
def execVneg (st : BitVec 3) (v : VxOps) (s : State) : Host.Outcome State Fault Refusal := pushPlain (.vneg st v) s

/-- VDIV (08 R159). -/
def execVdiv (st : BitVec 3) (v : VxOps) (s : State) : Host.Outcome State Fault Refusal := pushPlain (.vdiv st v) s

/-- VSQRT (08 R159). -/
def execVsqrt (st : BitVec 3) (v : VxOps) (s : State) : Host.Outcome State Fault Refusal := pushPlain (.vsqrt st v) s

/-- VRSQ (08 R159). -/
def execVrsq (st : BitVec 3) (v : VxOps) (s : State) : Host.Outcome State Fault Refusal := pushPlain (.vrsq st v) s

/-- VRCP (08 R159). -/
def execVrcp (st : BitVec 3) (v : VxOps) (s : State) : Host.Outcome State Fault Refusal := pushPlain (.vrcp st v) s

/-- VEXP2 (08 R159). -/
def execVexp2 (st : BitVec 3) (v : VxOps) (s : State) : Host.Outcome State Fault Refusal := pushPlain (.vexp2 st v) s

/-- VLOG2 (08 R159). -/
def execVlog2 (st : BitVec 3) (v : VxOps) (s : State) : Host.Outcome State Fault Refusal := pushPlain (.vlog2 st v) s

/-- VAND (08 R161). -/
def execVand (st : BitVec 3) (v : VxOps) (s : State) : Host.Outcome State Fault Refusal := pushPlain (.vand st v) s

/-- VOR (08 R161). -/
def execVor (st : BitVec 3) (v : VxOps) (s : State) : Host.Outcome State Fault Refusal := pushPlain (.vor st v) s

/-- VXOR (08 R161). -/
def execVxor (st : BitVec 3) (v : VxOps) (s : State) : Host.Outcome State Fault Refusal := pushPlain (.vxor st v) s

/-- VSHL (08 R161). -/
def execVshl (st : BitVec 3) (v : VxOps) (s : State) : Host.Outcome State Fault Refusal := pushPlain (.vshl st v) s

/-- VSHR (08 R161). -/
def execVshr (st : BitVec 3) (v : VxOps) (s : State) : Host.Outcome State Fault Refusal := pushPlain (.vshr st v) s

/-- VSAR (08 R161). -/
def execVsar (st : BitVec 3) (v : VxOps) (s : State) : Host.Outcome State Fault Refusal := pushPlain (.vsar st v) s

/-- VCMP (08 R162). -/
def execVcmp (st : BitVec 3) (v : VxOps) (s : State) : Host.Outcome State Fault Refusal := pushPlain (.vcmp st v) s

/-- VSEL (08 R163). -/
def execVsel (st : BitVec 3) (v : VxOps) (s : State) : Host.Outcome State Fault Refusal := pushPlain (.vsel st v) s

/-- VPOP (08 R163). -/
def execVpop (st : BitVec 3) (v : VxOps) (s : State) : Host.Outcome State Fault Refusal := pushPlain (.vpop st v) s

/-- VMLOG (08 R163). -/
def execVmlog (st : BitVec 3) (v : VxOps) (s : State) : Host.Outcome State Fault Refusal := pushPlain (.vmlog st v) s

/-- VSHUF (08 R164). -/
def execVshuf (st : BitVec 3) (v : VxOps) (s : State) : Host.Outcome State Fault Refusal := pushPlain (.vshuf st v) s

/-- VROT (08 R164). -/
def execVrot (st : BitVec 3) (v : VxOps) (s : State) : Host.Outcome State Fault Refusal := pushPlain (.vrot st v) s

/-- VEXT (08 R164). -/
def execVext (st : BitVec 3) (v : VxOps) (s : State) : Host.Outcome State Fault Refusal := pushPlain (.vext st v) s

/-- VINS (08 R164). -/
def execVins (st : BitVec 3) (v : VxOps) (s : State) : Host.Outcome State Fault Refusal := pushPlain (.vins st v) s

/-- VRED (08 R165). -/
def execVred (st : BitVec 3) (v : VxOps) (s : State) : Host.Outcome State Fault Refusal := pushPlain (.vred st v) s

/-- VSCAN (08 R166). -/
def execVscan (st : BitVec 3) (v : VxOps) (s : State) : Host.Outcome State Fault Refusal := pushPlain (.vscan st v) s

/-- VTAG (08 R157). -/
def execVtag (st : BitVec 3) (v : VxOps) (s : State) : Host.Outcome State Fault Refusal := pushPlain (.vtag st v) s

/-- VHAD (08 R170). -/
def execVhad (st : BitVec 3) (v : VxOps) (s : State) : Host.Outcome State Fault Refusal := pushPlain (.vhad st v) s

/-- VCON (08 R172). -/
def execVcon (st : BitVec 3) (v : VxOps) (s : State) : Host.Outcome State Fault Refusal := pushPlain (.vcon st v) s

/-- VOPLD (08 R171). -/
def execVopld (st : BitVec 3) (v : VxOps) (s : State) : Host.Outcome State Fault Refusal := pushPlain (.vopld st v) s

/-- BROW (10 R204). -/
def execBrow (st : BitVec 3) (v : VxOps) (s : State) : Host.Outcome State Fault Refusal := pushPlain (.brow st v) s

/-- BFILL (10 R205). -/
def execBfill (st : BitVec 3) (v : VxOps) (s : State) : Host.Outcome State Fault Refusal := pushPlain (.bfill st v) s

/-- BPOPR (10 R206). -/
def execBpopr (st : BitVec 3) (v : VxOps) (s : State) : Host.Outcome State Fault Refusal := pushPlain (.bpopr st v) s

/-- BPOPC (10 R206). -/
def execBpopc (st : BitVec 3) (v : VxOps) (s : State) : Host.Outcome State Fault Refusal := pushPlain (.bpopc st v) s

/-- BTRN (10 R207). -/
def execBtrn (st : BitVec 3) (v : VxOps) (s : State) : Host.Outcome State Fault Refusal := pushPlain (.btrn st v) s

/-- BCOMP (10 R208). -/
def execBcomp (st : BitVec 3) (v : VxOps) (s : State) : Host.Outcome State Fault Refusal := pushPlain (.bcomp st v) s

/-- BCLOS (10 R209). -/
def execBclos (st : BitVec 3) (v : VxOps) (s : State) : Host.Outcome State Fault Refusal := pushPlain (.bclos st v) s

/-- BLOG (10 R210). -/
def execBlog (st : BitVec 3) (v : VxOps) (s : State) : Host.Outcome State Fault Refusal := pushPlain (.blog st v) s

end Sys2Proof.Machine
end

