-- ==== Sys2Proof/Machine/Matrix.lean ====
section
/-! DEFINITION. The matrix engine (09 R173 to R194, 07 R139, R140) and the outer comparison (10 R196 to R200). -/

namespace Sys2Proof.Machine

/-- The operand fields of a matrix command, and its function. -/
def Cmd.mx (c : Cmd) : MxOps := mxOps c.w0 c.w1
def Cmd.mfn (c : Cmd) : Nat := (c.w0.extractLsb' 0 7).toNat

/-! ### Formats (09 R176 to R178) -/

/-- A weight format: tile depth, column stride in bytes, load-path cycles. -/
structure TileFmt where
  depth : Nat
  stride : Nat
  cycles : Nat
deriving DecidableEq, Repr

def tileFmt (wf : Nat) : TileFmt :=
  match wf with
  | 3 => ⟨192, 384, 96⟩
  | 5 => ⟨384, 384, 96⟩
  | 6 => ⟨384, 384, 96⟩
  | 7 => ⟨384, 384, 96⟩
  | 9 => ⟨768, 448, 112⟩
  | _ => ⟨768, 384, 96⟩

def tileBytes (wf : Nat) : Nat := 256 * (tileFmt wf).stride

/-- An implemented combination: accumulator tag, passes, activation stride in bytes, group. -/
structure Combo where
  tag : Nat
  passes : Nat
  stride : Nat
  group : Nat
deriving DecidableEq, Repr

def comboOf (wf af : Nat) : Option Combo :=
  match wf, af with
  | 3, 3 => some ⟨2, 1, 384, 8⟩
  | 5, 5 => some ⟨2, 1, 384, 16⟩
  | 5, 6 => some ⟨2, 1, 384, 16⟩
  | 6, 5 => some ⟨2, 1, 384, 16⟩
  | 6, 6 => some ⟨2, 1, 384, 16⟩
  | 9, 9 => some ⟨2, 1, 448, 24⟩
  | 9, 5 => some ⟨2, 2, 768, 24⟩
  | 7, 7 => some ⟨1, 1, 384, 16⟩
  | 10, 10 => some ⟨1, 1, 384, 16⟩
  | 10, 7 => some ⟨1, 2, 768, 16⟩
  | _, _ => none

def Cmd.wf (c : Cmd) : Nat := c.mx.wf.toNat
def Cmd.af (c : Cmd) : Nat := c.mx.af.toNat
def Cmd.first (c : Cmd) : Nat := c.mx.row.toNat
def Cmd.cnt (c : Cmd) : Nat := c.mx.cnt.toNat

/-- The combination of a command that passed its push; the format of an unimplemented one is never asked for. -/
def Cmd.combo (c : Cmd) : Combo := (comboOf c.wf c.af).getD ⟨2, 1, 384, 8⟩

/-- The kind and the number of a predicate selector (09 R183). -/
def Cmd.selKind (c : Cmd) : Nat := c.cnt % 4
def Cmd.selNum (c : Cmd) : Nat := c.cnt / 4 % 4

/-! ### The function table (09 R182, 10 R197, R198) -/

/-- The path a command holds: 0 none, 1 load, 2 stream. -/
def mxPath (c : Cmd) : Nat :=
  match c.mfn with
  | 0x00 => 1
  | 0x02 | 0x03 | 0x11 => 2
  | _ => 0

/-- The cycles it holds its path. -/
def mxHold (c : Cmd) : Nat :=
  match c.mfn with
  | 0x00 => (tileFmt c.wf).cycles
  | 0x02 => c.combo.passes * c.cnt
  | 0x03 => c.cnt
  | 0x11 => 2
  | _ => 0

/-- From its start to its completion. -/
def mxLat (c : Cmd) : Nat :=
  match c.mfn with
  | 0x00 => (tileFmt c.wf).cycles + 4
  | 0x01 => 1
  | 0x02 => c.combo.passes * c.cnt + 11
  | 0x03 => c.cnt
  | 0x06 => 0
  | 0x11 => 6
  | _ => 2

/-! ### What a matrix command reads and writes -/

/-- The rows of a command with a count. -/
def mxRows (c : Cmd) : List Nat := (List.range c.cnt).map (fun r => c.first + r)

/-- The reads that are checked, in the order of their checks (09 R186, 10 R197, R198). -/
def mxNeeds (c : Cmd) (proj : Obj → Nat) : List Need :=
  match c.mfn with
  | 0x02 => (mxRows c).map (fun n => exactly (.row n) c.combo.tag)
  | 0x04 => [untagged (.mask (c.first % 8))]
  | 0x10 => [exactly (.row c.first) (c.cnt % 16)]
  | 0x11 => [⟨.key, [1, 2, 3, 4, 5, 6, 7, 8], 0⟩, exactly (.row c.first) (proj .key)]
  | _ => []

def mxWrites (c : Cmd) : List (Obj × Nat) :=
  match c.mfn with
  | 0x02 | 0x03 => (mxRows c).map (fun n => (.row n, c.combo.tag))
  | 0x05 => [(.mask (c.first % 8), 0)]
  | 0x10 => [(.key, c.cnt % 16)]
  | 0x11 => [(.tile (c.cnt / 64), 12)]
  | _ => []

def mxUses (s : State) (m : Cmd) : Cmd :=
  { m with reads := readsOf s m.slot (mxNeeds m (projTag s m.slot)), writes := mxWrites m }

/-! ### Planes (09 R173, R175) -/

/-- The tag and domain of the active and the shadow plane once the given commands, and those before them, have completed
without failure; a started MFLIP has exchanged them already. -/
def projPlanes (c : Core) (l : List Cmd) : (Nat × Nat) × (Nat × Nat) :=
  l.foldl
    (fun p m =>
      if m.nullified then p
      else if m.mfn = 0x00 then (p.1, (m.wf, m.dom))
      else if m.mfn = 0x01 then (p.2, p.1)
      else p)
    (if c.active.tag = 15 then c.activeClean else (c.active.tag, c.active.dom),
      if c.shadow.tag = 15 then c.shadowClean else (c.shadow.tag, c.shadow.dom))

/-- The tag a slot's command will see on the active plane behind every earlier command: RAW when another domain loaded
it. -/
def projActive (s : State) (m : Cmd) : Nat :=
  let c := s.core (coreOf m.slot)
  let started := (c.mrun.filter (fun r => r.landedAt = 0 && r.cmd.mfn = 0x00)).map (·.cmd)
  let p := (projPlanes c (started ++ c.mq.filter (fun x => cmdBefore x m))).1
  if p.2 = m.dom then p.1 else 0

/-! ### Pushes (09 R185, R186) -/

/-- A push of the matrix engine. -/
def pushMx (i : Instr) (ok : Bool) (srcs : List (BitVec 5)) (pre : Cmd → Option (Nat × Word))
    (post : State → Cmd → (State → Did) → Did) (s : State) : Host.Outcome State Fault Refusal :=
  .next (pushEngine i 1 ok srcs mxUses (fun s m => mxNeeds m (projTag s m.slot)) pre post s)

/-- No check before the tags. -/
def noPre (_ : Cmd) : Option (Nat × Word) := none

/-- COMBO for a pair of formats that 09 R178 lacks. -/
def comboCheck (m : Cmd) : Option (Nat × Word) :=
  match comboOf m.wf m.af with
  | some _ => none
  | none => some (7, BitVec.ofNat 64 (m.wf + 16 * m.af))

/-- SREG names a load queue (check 4, 09 R183). -/
def sregOk (m : MxOps) : Bool := decide (28 ≤ m.sreg.toNat)

/-- MLDS (09 R188). -/
def execMlds (st : BitVec 3) (m : MxOps) (s : State) : Host.Outcome State Fault Refusal :=
  pushMx (.mlds st m) (sregOk m) [m.sreg] noPre (fun s c next => checkOffset s c.scal (tileBytes c.wf) next) s

/-- MFLIP (09 R188). -/
def execMflip (st : BitVec 3) (m : MxOps) (s : State) : Host.Outcome State Fault Refusal :=
  pushMx (.mflip st m) true [] noPre noCheck s

/-- The active plane must project to WF in the slot's own domain, then the offset. -/
def mstrCheck (s : State) (c : Cmd) (next : State → Did) : Did :=
  let found := projActive s c
  if found ≠ c.wf then .trap s 6 (fmtVal 0xF0 c.wf found) else checkOffset s c.scal (c.combo.stride * c.cnt) next

/-- MSTR (09 R189). -/
def execMstr (st : BitVec 3) (m : MxOps) (s : State) : Host.Outcome State Fault Refusal :=
  pushMx (.mstr st m) (sregOk m) [m.sreg] comboCheck mstrCheck s

/-- MZERO (09 R188). -/
def execMzero (st : BitVec 3) (m : MxOps) (s : State) : Host.Outcome State Fault Refusal :=
  pushMx (.mzero st m) true [] comboCheck noCheck s

/-- MPSET (09 R188). -/
def execMpset (st : BitVec 3) (m : MxOps) (s : State) : Host.Outcome State Fault Refusal :=
  pushMx (.mpset st m) true [] noPre noCheck s

/-- MPGET (09 R188). -/
def execMpget (st : BitVec 3) (m : MxOps) (s : State) : Host.Outcome State Fault Refusal :=
  pushMx (.mpget st m) true [] noPre noCheck s

/-- MDRAIN (09 R188). -/
def execMdrain (st : BitVec 3) (m : MxOps) (s : State) : Host.Outcome State Fault Refusal :=
  pushMx (.mdrain st m) true [] noPre noCheck s

/-- OCLD (10 R197). -/
def execOcld (st : BitVec 3) (m : MxOps) (s : State) : Host.Outcome State Fault Refusal :=
  pushMx (.ocld st m) true [] noPre noCheck s

/-- The checks of an OCMP behind its tags: UN needs floating-point keys, then the part (10 R198). -/
def ocmpCheck (s : State) (c : Cmd) (next : State → Did) : Did :=
  let t := c.tagOf .key
  if c.cnt % 16 = 6 && !isFloatTy t then trapFree s 1
  else if lanesOf t / 256 ≤ c.cnt / 16 % 4 then .trap s 1 (c.w1 ++ c.w0)
  else next s

/-- OCMP (10 R198). -/
def execOcmp (st : BitVec 3) (m : MxOps) (s : State) : Host.Outcome State Fault Refusal :=
  pushMx (.ocmp st m) true [] noPre ocmpCheck s

/-! ### Sums (07 R139, R140) -/

/-- Element `k` of a tile column or an activation row, as an exact value. -/
def elemFloat (fmt : Nat) (fin : Bool) (col k : Nat) : Ex :=
  match fmt with
  | 3 => decodeF bf16 fin (laneOf col 16 k)
  | 9 =>
    let b := 14 * (k / 24)
    let j := k % 24
    blockValue (laneOf col 8 (b + 12)) (laneOf col 8 (b + 13)) (laneOf (laneOf col 8 (b + j / 2)) 4 (j % 2))
  | _ => decodeF (fmtOf fmt) false (laneOf col 8 k)

/-- The same as an integer. -/
def elemInt (fmt : Nat) (col k : Nat) : Int := if fmt = 7 then intOf 7 (laneOf col 8 k) else intOf 10 (laneOf col 4 k)

/-- The depths of group `g` that the predicate leaves. -/
def groupDepths (size : Nat) (pk : Nat → Bool) (g : Nat) : List Nat :=
  ((List.range size).map (fun j => size * g + j)).filter pk

/-- A floating-point group joins an accumulator lane. -/
def joinFloat (fout : Bool) (terms : List Ex) (acc : Nat) : Coded :=
  if terms.isEmpty then (acc, 0)
  else
    let g := encodeF fp32 0 false false (exSum terms false)
    let r := encodeF fp32 0 fout false (exSum [decodeF fp32 false acc, decodeF fp32 false g.1] false)
    (r.1, g.2 ||| r.2)

/-- An integer group joins an accumulator lane. -/
def joinInt (sat : Bool) (terms : List Int) (acc : Nat) : Coded :=
  if terms.isEmpty then (acc, 0) else intCode 1 sat flIS (intOf 1 acc + terms.foldl (· + ·) 0)

/-- The lane of column `n` after every group of an activation row has joined it. -/
def sumLane (m : Cmd) (plane acts : Nat) (pk : Nat → Bool) (n acc : Nat) : Coded :=
  let f := tileFmt m.wf
  let c := m.combo
  let col := (plane >>> (8 * f.stride * n)) % 2 ^ (8 * f.stride)
  (List.range (f.depth / c.group)).foldl
    (fun (a : Coded) g =>
      let ks := groupDepths c.group pk g
      let r :=
        if c.tag = 2 then
          joinFloat m.fout (ks.map (fun k => exMul (elemFloat m.wf m.fin col k) (elemFloat m.af m.fin acts k))) a.1
        else joinInt (m.mx.sat = 1) (ks.map (fun k => elemInt m.wf col k * elemInt m.af acts k)) a.1
      (r.1, a.2 ||| r.2))
    (acc, 0)

/-- The bit of a captured predicate; with none captured, all are 1. -/
def predBit (l : List (BitVec 768)) (kind n : Nat) : Bool :=
  match l[kind]? with
  | some p => p.getLsbD n
  | none => true

/-- A row of a started command lands on the row's value: new value, flags, the sectors written. -/
def landRow (r : Run) (n : Nat) (acts : BitVec 6144) (old : Row) : Row × BitVec 6 × BitVec 16 :=
  if r.cmd.mfn = 0x03 then (0, 0, allSectors)
  else if !predBit r.preds 0 n then (old, 0, 0)
  else
    let o := old.toNat
    let p := r.plane.bytes.toNat
    let x := fillLanes 32 256 (fun j =>
      if predBit r.preds 2 j then sumLane r.cmd p acts.toNat (predBit r.preds 1) j (laneOf o 32 j) else (laneOf o 32 j, 0))
    (BitVec.ofNat 8192 x.1, x.2, lanesSectors 32 256 (predBit r.preds 2))

/-! ### Starts (09 R187) -/

/-- The path a command needs is free. -/
def pathFree (s : State) (m : Cmd) : Bool :=
  mxPath m = 0 || (s.core (coreOf m.slot)).mrun.all (fun r => mxPath r.cmd != mxPath m || !r.holds s m)

/-- An earlier MSTR has made its last pass, in the ticks of a timed strand too (12 R241). -/
def Run.passed (r : Run) (s : State) (m : Cmd) : Bool :=
  r.landedAt != 0 ||
    (decide (r.lastPass < s.cycle) && (!m.timed || !r.cmd.timed || decide (r.tick0 + r.hold ≤ s.vcc)))

/-- The conditions of particular commands; nothing waits for a nullified one, and a nullified one waits for none of them (DESIGN CHOICE,
log entry 75). -/
def mxReady (s : State) (m : Cmd) : Bool :=
  let l := (s.core (coreOf m.slot)).mrun.filter (fun r => !r.cmd.nullified)
  match m.mfn with
  | 0x01 =>
    m.nullified || l.all (fun r =>
      (r.cmd.mfn != 0x00 || r.doneFor s m) && (r.cmd.mfn != 0x02 || r.passed s m))
  | 0x06 => m.nullified || l.all (fun r => r.cmd.slot != m.slot || r.doneFor s m)
  | 0x02 =>
    m.nullified || m.mx.pe = 0 || l.all (fun r => r.cmd.mfn != 0x04 || r.cmd.slot != m.slot || r.doneFor s m ||
      !((r.cmd.selKind = 0 && r.cmd.selNum = m.mx.pm.toNat) || (r.cmd.selKind = 1 && r.cmd.selNum = m.mx.pk.toNat) ||
        (r.cmd.selKind = 2 && r.cmd.selNum = m.mx.pn.toNat)))
  | 0x05 =>
    m.nullified || l.all (fun r => r.cmd.mfn != 0x04 || r.cmd.slot != m.slot || r.doneFor s m || r.cmd.cnt != m.cnt)
  | _ => true

/-- The bytes that a started MLDS or MSTR reads in one cycle: 1,024 of the tile, or the depths of one pass (09 R188, R189). -/
def partBytes (m : Cmd) : Nat := if m.mfn = 0x00 then 1024 else m.combo.stride / m.combo.passes

/-- The activation row of a started MSTR: what it has still to read of it as it now stands (DEDUCED, log entry 62). -/
def Run.actsOf (s : State) (r : Run) (e : Nat × BitVec 6144) : BitVec 6144 :=
  let m := r.cmd
  let k := e.1 - m.first
  if m.mfn = 0x03 || decide (m.combo.passes * (k + 1) ≤ r.got) then e.2
  else
    let p : Place := .spad (coreOf m.slot) (m.scal.toNat + m.combo.stride * k)
    BitVec.ofNat 6144 ((readUnits s p m.combo.stride m.slot m.dom).2.getD 0)

/-- The value a row will have once every started matrix command has landed on it (09 R190). -/
def futureRow (s : State) (slot n : Nat) : Row :=
  ((s.core (coreOf slot)).mrun.filter (fun r => r.unlanded slot)).foldl
    (fun v r =>
      match r.rows.find? (fun e => e.1 = n) with
      | some e => (landRow r n (r.actsOf s e) v).1
      | none => v)
    ((s.slot slot).rowRead n)

/-- The tag a row will carry once every started matrix command has landed on it (09 R190). -/
def futureTag (s : State) (slot n : Nat) : Nat :=
  ((s.core (coreOf slot)).mrun.filter (fun r => r.landedAt = 0 && r.cmd.slot = slot && r.rows.any (fun e => e.1 = n))).foldl
    (fun t r => if r.fault ≠ 0 then 15 else if r.cmd.mfn = 0x03 then r.cmd.combo.tag else t)
    ((s.slot slot).rowTagOf n)

/-- A row as an outer comparison reads it: behind every started matrix command, and old or new for each 64-byte sector where a vector
command is about to write it (10 R200). -/
def outerRow (s : State) (slot n : Nat) : State × Row :=
  let old := futureRow s slot n
  let l := (s.core (coreOf slot)).vrun.filter (fun r => r.unlanded slot && r.cmd.writes.any (fun w => w.1 = .row n))
  if l.isEmpty then (s, old)
  else
    let x := l.foldl (fun (x : Slot) r => r.effs.foldl Slot.applyEff x) (s.slot slot)
    mixUnits s 512 old (x.rowRead n)

/-- The key register as the latest started OCLD of the slot leaves it: keys, tag, part (10 R200). -/
def futureKey (s : State) (slot : Nat) : Row × Nat × Nat :=
  let x := s.slot slot
  ((s.core (coreOf slot)).mrun.filter (fun r => r.landedAt = 0 && r.cmd.slot = slot)).foldl
    (fun k r =>
      if r.cmd.mfn = 0x10 && r.fault != 0 then (k.1, 15, k.2.2)
      else
        match r.effs with
        | [.key v tag part] => (v, tag, part)
        | _ => k)
    (x.keyRead, x.keyTag, x.keyPart)

/-- Keys 0 to 255 of a part of a row (10 R197): at the width of their type from byte 0 on, the rest of the register zero (DESIGN
CHOICE, log entry 77). -/
def keysOf (v : Row) (ty part : Nat) : Row :=
  let w := laneBits ty
  BitVec.ofNat 8192 ((v.toNat >>> (w * 256 * part)) % 2 ^ (256 * w))

/-- The tile an OCMP writes (10 R198). -/
def outerTile (m : Cmd) (x : Row) (key : Row) (ty p : Nat) : Work :=
  let w := laneBits ty
  let q := m.cnt / 16 % 4
  let r := fillLanes 256 256 (fun i =>
    fillLanes 1 256 (fun n =>
      let h := outerPred (m.cnt % 16) ty m.rounding (laneOf x.toNat w (256 * q + i)) (laneOf key.toNat w n) (256 * q + i)
        (256 * p + n)
      (if h.1 then 1 else 0, h.2)))
  ⟨[.tile (m.cnt / 64) (BitVec.ofNat 65536 r.1) allTileRows 12], r.2⟩

/-- The words of the active plane are read: errors of one bit are corrected; the answer tells whether the plane can be used
(20 R427). -/
def checkPlane (s : State) (m : Cmd) : State × Bool :=
  let core := coreOf m.slot
  let l := (s.core core).activeErr
  if l.isEmpty then (s, true)
  else
    let s1 := l.foldl (fun acc e => logWordErr acc m.slot m.dom arrayPlanes (8 * e.1) e.2) s
    if uncorrectable l then (s1, false)
    else
      (s1.modCore core (fun c => { c with activeErr := [], active := { c.active with bytes := flipBack c.active.bytes l } }), true)

/-- A run that ends with a fault, with what FMT would say. -/
def Run.failed (r : Run) (fault : Nat) (n : Need) : Run :=
  { r with fault := fault, tval := engineFmt r.cmd n.obj.num n.want }

/-- A run that fails by itself reads no more, and the rows of its MSTR are to become POISON (09 R192). -/
def Run.failedReading (r : Run) (fault : Nat) : Run :=
  { r with fault := fault, got := mxHold r.cmd, rows := if r.cmd.mfn = 0x02 then (mxRows r.cmd).map (fun n => (n, 0)) else r.rows }

/-- The run with the bytes of its next part. -/
def Run.takePart (r : Run) (v : Nat) : Run :=
  let m := r.cmd
  if m.mfn = 0x00 then
    { r with got := r.got + 1, plane := { r.plane with bytes := r.plane.bytes ||| BitVec.ofNat 917504 (v <<< (8192 * r.got)) } }
  else
    let n := m.first + r.got / m.combo.passes
    let acts := BitVec.ofNat 6144 (v <<< (8 * partBytes m * (r.got % m.combo.passes)))
    { r with got := r.got + 1, rows := r.rows.map (fun e => if e.1 = n then (n, e.2 ||| acts) else e) }

/-- A started MLDS or MSTR reads its next part, a pass its plane too (09 R188, R189, R192). -/
def readPart (s : State) (r : Run) : State × Run :=
  let m := r.cmd
  let (s1, ok) := if m.mfn = 0x02 then checkPlane s m else (s, true)
  if !ok then (s1, r.failedReading 15)
  else
    match readSpad s1 m (m.scal.toNat + partBytes m * r.got) (partBytes m) with
    | (s2, .ok v) => (s2, r.takePart v)
    | (s2, .error f) => (s2, r.failedReading f)

/-- The run has a part to read in this cycle. -/
def Run.reads (r : Run) (s : State) : Bool :=
  !r.cmd.nullified && r.unlanded r.cmd.slot && mxPath r.cmd != 0 && (r.cmd.mfn = 0x00 || r.cmd.mfn = 0x02) &&
    decide (r.got < mxHold r.cmd) && decide (r.start + r.got ≤ s.cycle)

/-- A POISON row among the rows a command reads, by the tags in start order. -/
def poisonRow (s : State) (m : Cmd) : Option Need :=
  (mxNeeds m m.tagOf).find? (fun n =>
    match n.obj with
    | .row k => futureTag s m.slot k = 15
    | .key => (futureKey s m.slot).2.1 = 15
    | _ => false)

/-- MLDS at its start: the first part of its tile. -/
def beginLoad (s : State) (m : Cmd) (r : Run) : State × Run := readPart s { r with plane := ⟨0, m.wf, m.dom⟩ }

/-- MFLIP at its start: the planes are exchanged (09 R188, R192). -/
def beginFlip (s : State) (m : Cmd) (r : Run) : State × Run :=
  let core := coreOf m.slot
  let poison := (s.core core).shadow.tag = 15
  (s.modCore core (fun k =>
      { k with active := k.shadow, shadow := k.active, activeClean := k.shadowClean, shadowClean := k.activeClean,
               activeErr := k.shadowErr, shadowErr := k.activeErr }),
    if poison then { r with fault := 6, tval := engineFmt m 0xF0 0 } else r)

/-- MSTR at its start: its predicates, its plane, its first pass. A plane that a discarded command has left with another domain is seen
as RAW (09 R175; DEDUCED, log entry 92). Its last pass is the last cycle of its path, a failed one's too (DESIGN CHOICE, log entry 62). -/
def beginStream (s : State) (m : Cmd) (r0 : Run) : State × Run :=
  let r := { r0 with lastPass := s.cycle + mxHold m - 1 }
  let s0 := (mxRows m).foldl (fun acc n => checkRow acc m.slot n) s
  match poisonRow s0 m with
  | some n => (s0, r.failed 6 n)
  | none =>
    let plane := (s0.core (coreOf m.slot)).active
    if plane.tag = 15 then (s0, { r with fault := 6, tval := engineFmt m 0xF0 m.wf })
    else if plane.dom ≠ m.dom then (s0, { r with fault := 6, tval := engineFmt m 0xF0 m.wf 0 })
    else
      let (s1, ok) := checkPlane s0 m
      if !ok then (s1, r.failedReading 15)
      else
        let x := s1.slot m.slot
        let preds := if m.mx.pe = 1 then
          [x.predOf 0 m.mx.pm.toNat, x.predOf 1 m.mx.pk.toNat, x.predOf 2 m.mx.pn.toNat] else []
        readPart s1 { r with rows := (mxRows m).map (fun n => (n, 0)), preds := preds, plane := (s1.core (coreOf m.slot)).active }

/-- OCLD at its start (10 R197, R200). -/
def beginKeys (s : State) (m : Cmd) (r : Run) : State × Run :=
  let s0 := checkRow s m.slot m.first
  match poisonRow s0 m with
  | some n => (s0, r.failed 6 n)
  | none =>
    let ty := m.cnt % 16
    let v := outerRow s0 m.slot m.first
    (v.1, { r with effs := [.key (keysOf v.2 ty (m.cnt / 16 % 4)) ty (m.cnt / 16 % 4)] })

/-- OCMP at its start (10 R198, R200): POISON traps, an uncorrectable row fails it without a trap. -/
def beginCompare (s : State) (m : Cmd) (r : Run) : State × Run :=
  match poisonRow s m with
  | some n => (s, r.failed 6 n)
  | none =>
    let bad := uncorrectable ((s.slot m.slot).rowErrs m.first)
    let s0 := checkRow s m.slot m.first
    if bad then (s0, { r with fault := 15 })
    else
      let k := futureKey s0 m.slot
      let v := outerRow s0 m.slot m.first
      let w := outerTile m v.2 k.1 k.2.1 k.2.2
      (v.1, { r with effs := w.effs, flags := w.flags })

/-- MPSET at its start: each 64-bit unit of a mask that a vector command is about to write is old or new (09 R191). -/
def beginPreds (s : State) (m : Cmd) (r : Run) : State × Run :=
  let n := m.first % 8
  let v := mixAll s 64 ((s.slot m.slot).maskOf n) (maskNews (s.core (coreOf m.slot)).vrun m.slot n)
  (v.1, { r with effs := [.pred m.selKind m.selNum (BitVec.setWidth 768 v.2)] })

/-- What a command that starts reads, as its run. -/
def beginMx (s : State) (m : Cmd) : State × Run :=
  let x := s.slot m.slot
  let r := emptyRun s m (mxHold m) (mxLat m) (mxPath m)
  if m.nullified then (s, r)
  else
    match m.mfn with
    | 0x00 => beginLoad s m r
    | 0x01 => beginFlip s m r
    | 0x02 => beginStream s m r
    | 0x03 => (s, { r with rows := (mxRows m).map (fun n => (n, 0)) })
    | 0x04 => beginPreds s m r
    | 0x05 => (s, { r with effs := [.mask (m.first % 8) (BitVec.setWidth 1024 (x.predOf m.selKind m.selNum))] })
    | 0x10 => beginKeys s m r
    | 0x11 => beginCompare s m r
    | _ => (s, r)

/-! ### Landings (09 R188 to R192) -/

/-- The objects a failed command leaves POISON when it completes: the shadow plane, the key register, the tile; rows become so one by
one, in the order of landings. -/
def poisonMx (s : State) (m : Cmd) : State :=
  match m.mfn with
  | 0x00 => s.modCore (coreOf m.slot) (fun c =>
      { c with shadow := { c.shadow with tag := 15, dom := m.dom }, shadowClean := (m.wf, m.dom) })
  | 0x10 => s.modSlot m.slot (fun x => x.setKeyTag 15 x.keyPart)
  | 0x11 => s.modSlot m.slot (fun x => x.setTileTag (m.cnt / 64) 15)
  | _ => s

/-- A command that failed. One that met POISON, or a plane it sees as RAW (of which no record tells), traps the slot, and an OCLD or OCMP
leaves POISON too; any other failure leaves POISON and does not trap (07 R142, R143, 09 R192, 10 R200). -/
def failMx (s : State) (r : Run) : State :=
  let m := r.cmd
  let raw := r.fault = 6 && bitsOf r.tval 12 4 = 0
  let s1 := if raw then s else logCommand s m (errorCode r.fault) (if m.mfn = 0x00 || m.mfn = 0x02 then some m.scal else none)
  let s2 := if r.fault = 6 && (m.mfn = 0x01 || m.mfn = 0x02) then s1 else poisonMx s1 m
  let s3 := if m.mfn = 0x02 && r.fault ≠ 6 then s2 else s2.modSlot m.slot (fun x => x.noteFailed m.writes)
  let s4 := finishCmd s3 m
  if r.fault = 6 then engineTrap s4 m 6 r.tval else s4

/-- A tile that lands while a vector command is about to write it: each of its rows holds one writer's whole value (10 R201). -/
def shareTiles (s : State) (r : Run) : State :=
  let o : Obj := .tile (r.cmd.cnt / 64)
  let also (q : Run) : Bool := q.unlanded r.cmd.slot && q.cmd.writes.any (fun w => w.1 = o)
  let core := coreOf r.cmd.slot
  if r.cmd.mfn != 0x11 || r.cmd.nullified || !(s.core core).vrun.any also then s
  else
    let (f, s1) := takeFree s 256
    s1.modCore core (fun c => { c with vrun := c.vrun.map (fun q => if also q then { q with effs := q.effs.map (Eff.cut o f) } else q) })

/-- A command completes: its last writes land, its flags and its signal follow. -/
def completeMx (s : State) (r : Run) : State :=
  let m := r.cmd
  if r.fault ≠ 0 then failMx s r
  else
    let s1 :=
      if m.mfn = 0x00 && !m.nullified then s.modCore (coreOf m.slot) (fun c => { c with shadow := r.plane, shadowErr := [] })
      else shareTiles (s.modSlot m.slot (fun x => r.effs.foldl Slot.applyEff x)) r
    finishCmd (orFlags s1 m.slot r.flags) m

/-- The cycle in which row `n` of a run lands. -/
def rowLandsAt (r : Run) (n : Nat) : Nat :=
  let k := n - r.cmd.first
  if r.cmd.mfn = 0x03 then r.start + k + 1 else r.start + r.cmd.combo.passes * (k + 1) + 11

def modRun (s : State) (core seq : Nat) (f : Run → Run) : State :=
  s.modCore core (fun c => { c with mrun := c.mrun.map (fun r => if r.cmd.seq = seq then f r else r) })

/-- The values of a row that started vector commands are still to write. -/
def rowNews (s : State) (slot n : Nat) : List Row :=
  let x := s.slot slot
  ((s.core (coreOf slot)).vrun.filter (fun r => r.unlanded slot)).flatMap (fun r => r.effs.filterMap (fun e =>
    match e with
    | .row k v sectors tag => if k = n then some ((x.landRowEff n v sectors tag).rowRead n) else none
    | _ => none))

/-- What an accumulation builds on: in each 64-byte sector the row's value, or another that a vector command has written over or is about
to write (09 R191). -/
def baseRow (s : State) (r : Run) (n : Nat) : State × Row :=
  if r.cmd.mfn != 0x02 then (s, 0)
  else
    mixAll s 512 ((s.slot r.cmd.slot).rowRead n)
      ((r.olds.filter (fun e => e.1 = n)).map (·.2) ++ rowNews s r.cmd.slot n)

/-- A result stands against the vector commands that are about to write the row, unless another accumulation is to follow. -/
def keepRow (s : State) (r : Run) (n : Nat) (sectors : BitVec 16) : State :=
  let slot := r.cmd.slot
  let core := coreOf slot
  let last := !(s.core core).mrun.any (fun q => q.cmd.seq != r.cmd.seq && q.unlanded slot && q.rows.any (fun e => e.1 = n))
  if r.cmd.mfn = 0x02 && last && !(rowNews s slot n).isEmpty then
    s.modCore core (fun c =>
      { c with vrun := c.vrun.map (fun q =>
          if q.unlanded slot then { q with effs := q.effs.map (Eff.cut (.row n) (BitVec.setWidth 256 sectors)) } else q) })
  else s

/-- Row `n` of a run lands; of a failed run it becomes POISON. -/
def landOneRow (s : State) (core : Nat) (r : Run) (n : Nat) (acts : BitVec 6144) : State :=
  let k := r.cmd.slot
  let tag := r.cmd.combo.tag
  let gone (t : State) (flags : BitVec 6) : State :=
    modRun t core r.cmd.seq (fun q => { q with rows := q.rows.filter (fun e => e.1 != n), flags := q.flags ||| flags })
  if r.fault ≠ 0 then gone (s.modSlot k (fun x => (x.setRowTag n 15).noteFailed [(.row n, tag)])) 0
  else
    let (s1, base) := baseRow s r n
    let v := landRow r n acts base
    gone
      ((keepRow s1 r n v.2.2).modSlot k (fun x =>
        let y := if v.2.2 = 0 then x else x.rowWrite n v.1 v.2.2
        if r.cmd.mfn = 0x03 then y.setRowTag n tag else y))
      v.2.1

/-- What one run lands in this cycle; a row that an earlier run has still to write waits for it (09 R190). -/
def stepRun (s : State) (core seq : Nat) : State :=
  match (s.core core).mrun.find? (fun r => r.cmd.seq = seq) with
  | none => s
  | some r =>
    let earlier := (s.core core).mrun.takeWhile (fun q => q.cmd.seq != seq)
    let free (n : Nat) : Bool := !(earlier.any (fun q => q.cmd.slot = r.cmd.slot && q.rows.any (fun e => e.1 = n)))
    let go := r.rows.filter (fun e => decide (rowLandsAt r e.1 ≤ s.cycle) && free e.1)
    let s1 := go.foldl (fun acc e => landOneRow acc core r e.1 e.2) s
    match (s1.core core).mrun.find? (fun q => q.cmd.seq = seq) with
    | none => s1
    | some q =>
      if q.landedAt = 0 && q.rows.isEmpty && decide (q.land ≤ s1.cycle) then
        completeMx (modRun s1 core seq (fun z => { z with landedAt := s1.cycle })) q
      else s1

/-- MATRIX_COMMAND_COMPLETE of the context's core: started commands read what they read in this cycle, rows that land in this cycle land,
and commands that are done complete, in order of start. -/
def execMatrixCommandComplete (s : State) : Host.Outcome State Fault Refusal :=
  let core := coreOf s.me
  let s0 := s.modCore core (fun c => { c with mrun := c.mrun.filter (fun r => !r.over s) })
  let s1 := ((s0.core core).mrun.filter (fun r => r.reads s0)).foldl
    (fun acc r =>
      let (t, q) := readPart acc r
      modRun t core r.cmd.seq (fun _ => q))
    s0
  .next (((s1.core core).mrun.map (fun r => r.cmd.seq)).foldl (fun acc q => stepRun acc core q) s1)

/-- The token a head command waits on is at hand before the vector commands' waits are served, and is left when they have taken theirs
(17 R344). -/
def waitsAlone (s : State) (m : Cmd) : Bool :=
  match waitToken m.w1 with
  | none => true
  | some t => m.nullified ||
      decide (((s.core (coreOf m.slot)).vq.filter (fun v => v.slot = m.slot && !v.nullified && waitToken v.w1 = some t)).length <
        tokenNow s m.slot t)

/-- The first command in core push order starts. -/
def startMx (s : State) (m : Cmd) (rest : List Cmd) : State :=
  let core := coreOf m.slot
  let (s0, ok) := readCmd s m
  let s1 := consumeToken (s0.modCore core (fun c => { c with mq := rest })) m
  let s2 := (blockWords s1 m.slot 6 [m.w0]).noteMoved m.slot
  let (s3, r) := if ok then beginMx s2 m else (s2, (emptyRun s2 m (mxHold m) (mxLat m) (mxPath m)).failedReading 15)
  let s4 := s3.modCore core (fun c => { c with mrun := c.mrun ++ [r] })
  if m.mfn = 0x06 then
    -- its signal comes in this cycle, before the vector commands' waits (17 R344)
    let s5 := stepRun s4 core m.seq
    { s5 with agenda := .event { s.cur with q := 0 } .vectorCommandStart :: s5.agenda }
  else s4

/-- MATRIX_COMMAND_START of the context's core, at most once a cycle: the first command in core push order starts where 09 R187 lets
it. The first opportunity of a cycle (queue number 1) comes before the vector commands' landings, so that the port takes matrix reads
first (13 R269), and leaves a wait that competes with theirs to the second. -/
def execMatrixCommandStart (s : State) : Host.Outcome State Fault Refusal :=
  let c := s.core (coreOf s.me)
  match c.mq with
  | [] => .next s
  | m :: rest =>
    if ripe s m && pathFree s m && mxReady s m && tokenReady s m && !c.mrun.any (fun r => r.start = s.cycle) &&
        (s.cur.q = 0 || waitsAlone s m) then .next (startMx s m rest)
    else .next s

end Sys2Proof.Machine
end

