-- ==== Sys2Proof/Machine/VectorRun.lean ====
section
/-! DEFINITION. The vector engine's starts and landings (08 R149 to R154). -/

namespace Sys2Proof.Machine

/-! ### Starts (08 R149, R151) -/

/-- The slots of a core with a queued command, by strand priority, then round robin. -/
def engineOrder (s : State) (core : Nat) : List Nat :=
  let prio (k : Nat) : Nat :=
    match (s.slot k).strand with
    | some t => t.prio
    | none => 64
  let round := (List.range 4).map (fun j => 4 * core + ((s.core core).vrobin + j) % 4)
  round.foldl
    (fun l k => (l.takeWhile (fun j => decide (prio j ≤ prio k))) ++ k :: l.dropWhile (fun j => decide (prio j ≤ prio k)))
    []

/-- Every earlier write of the slot to what the command reads or writes has landed. -/
def vecDepsMet (s : State) (m : Cmd) : Bool :=
  (s.core (coreOf m.slot)).vrun.all (fun r =>
    r.cmd.slot != m.slot || r.cmd.nullified || r.doneFor s m ||
      !(r.cmd.writes.any (fun w => m.reads.any (fun e => e.1 = w.1) || m.writes.any (fun e => e.1 = w.1))))

/-- Pipe `p` is free for a command. -/
def pipeFree (s : State) (m : Cmd) (p : Nat) : Bool :=
  (s.core (coreOf m.slot)).vrun.all (fun r => r.pipes / 2 ^ p % 2 = 0 || !r.holds s m)

/-- The tags a command that starts needs, as its push found them. -/
def needsAtStart (m : Cmd) : List Need := vecNeeds (majorOf m.w0) m.vfn m.vx m.tagOf

/-- A started matrix command that has not landed writes the row, or the tile (08 R152). -/
def rowInFlight (s : State) (slot n : Nat) : Bool :=
  (s.core (coreOf slot)).mrun.any (fun r => r.landedAt = 0 && r.cmd.slot = slot && r.rows.any (fun e => e.1 = n))

def tileInFlight (s : State) (slot n : Nat) : Option Tile :=
  let l := (s.core (coreOf slot)).mrun.filter (fun r => r.unlanded slot && r.cmd.writes.any (fun w => w.1 = .tile n))
  if l.isEmpty then none else some ((l.foldl (fun (x : Slot) r => r.effs.foldl Slot.applyEff x) (s.slot slot)).tileRead n)

/-- An object that a command reads as the engine sees it: what another engine is about to write is read old or new, for each 64-byte
sector of a row, 256-bit row of a tile and 64-bit unit of a mask (08 R152, 10 R201, 09 R191). -/
def mixRead (acc : State × Slot) (o : Obj) : State × Slot :=
  let (s, x) := acc
  match o with
  | .row n =>
    if rowInFlight s (s.me) n then
      let r := mixUnits s 512 (x.rowRead n) (futureRow s s.me n)
      (r.1, { x with rows := x.rows.put n r.2 0, rowStale := x.rowStale.put n 0 0 })
    else acc
  | .tile n =>
    match tileInFlight s s.me n with
    | none => acc
    | some t =>
      let r := mixUnits s 256 (x.tileRead n) t
      (r.1, { x with tiles := x.tiles.put n r.2 0, tileStale := x.tileStale.put n 0 0 })
  | .mask n =>
    let r := mixAll s 64 (x.maskOf n) (maskNews (s.core (coreOf s.me)).mrun s.me n)
    (r.1, { x with masks := x.masks.put n r.2 0 })
  | _ => acc

/-- Errors in what a command reads are corrected, or tag it POISON. -/
def checkRead (slot : Nat) (s : State) (o : Obj) : State :=
  match o with
  | .row n => checkRow s slot n
  | .tile n => checkTile s slot n
  | _ => s

/-- The slot as a command that starts sees it; `before`: what the command it is paired with writes (08 R151). -/
def seenBy (s : State) (m : Cmd) (before : List Eff) : State × Slot :=
  let objs := m.reads.map (·.1)
  let s1 := objs.foldl (checkRead m.slot) s
  let cur := s1.cur
  let r := objs.foldl mixRead ({ s1 with cur := contextOf m.slot .computer }, s1.slot m.slot)
  ({ r.1 with cur := cur }, before.foldl Slot.applyEff r.2)

/-- What a command that starts reads from its slot and memory, as its run; `x` is the slot as it sees it. -/
def beginRun (s : State) (x : Slot) (m : Cmd) (pipes lat : Nat) : State × Run :=
  let r := emptyRun s m (vecHold m) lat pipes
  if m.nullified then (s, r)
  else
    match poisonedNeed x (needsAtStart m) with
    | some n => (s, { r with fault := 6, tval := engineFmt m n.obj.num n.want })
    | none =>
      let bits := majorOf m.w0 = 0x61
      if m.vfn = 0 then
        match readSpad s m m.scal.toNat (if bits then 8192 else 1024) with
        | (s1, .error f) => (s1, { r with fault := f, tval := withAddr m m.scal.toNat })
        | (s1, .ok d) =>
          let w := if bits then runBits x m d else runVector x m d
          (s1, { r with effs := w.effs, flags := w.flags })
      else
        let w := if bits then runBits x m 0 else runVector x m 0
        (s, { r with effs := w.effs, flags := w.flags })

/-- The command leaves the queue and runs. -/
def startVec (s : State) (m : Cmd) (before : List Eff) (pipes lat order : Nat) : State × Run :=
  let core := coreOf m.slot
  let (s0, ok) := readCmd s m
  let s1 := consumeToken (s0.modCore core (fun c => { c with vq := c.vq.erase m })) m
  let s2 := (blockWords s1 m.slot order [m.w0]).noteMoved m.slot
  let (s3, r) :=
    if !ok then (s2, { emptyRun s2 m (vecHold m) lat pipes with fault := 15, tval := withAddr m m.scal.toNat })
    else
      let seen := if m.nullified then (s2, s2.slot m.slot) else seenBy s2 m before
      beginRun seen.1 seen.2 m pipes lat
  (s3.modCore core (fun c => { c with vrun := c.vrun ++ [r], vrobin := (m.slot + 1) % 4 }), r)

/-- A VSHUF and the VSEL behind it that make a pair where both pipes are free (08 R151). -/
def isPair (a b : Cmd) : Bool :=
  majorOf a.w0 = 0x60 && majorOf b.w0 = 0x60 && a.vfn = 0x28 && b.vfn = 0x21 &&
    (b.vx.va = a.vx.vd || b.vx.vb = a.vx.vd) && (waitToken a.w1).isNone && (waitToken b.w1).isNone

/-- One command starts on the first of the pipes that is free. -/
def startAlone (s : State) (m : Cmd) (used : Nat) (free0 free1 : Bool) : State × Nat :=
  if free0 then ((startVec s m [] 1 (vecLat m) 4).1, used + 1)
  else if free1 then ((startVec s m [] 2 (vecLat m) 5).1, used + 2)
  else (s, used)

/-- Start what slot `k` may start on the pipes still unused in this cycle; the answer has the pipes used. A pair starts in one cycle,
once both may (DEDUCED, log entry 81). -/
def startSlot (s : State) (k used : Nat) : State × Nat :=
  let c := s.core (coreOf k)
  match c.vq.filter (fun m => m.slot = k) with
  | [] => (s, used)
  | m :: rest =>
    if !(ripe s m && vecDepsMet s m && tokenReady s m) || c.vrun.any (fun r => r.cmd.slot = k && r.start = s.cycle) then (s, used)
    else
      let free (p : Nat) : Bool := used / 2 ^ p % 2 = 0 && pipeFree s m p
      let both := free 0 && free 1
      if (vecRow m).pipes = 2 then
        if both then ((startVec s m [] 3 (vecLat m) 4).1, 3) else (s, used)
      else
        match rest.head? with
        | none => startAlone s m used (free 0) (free 1)
        | some b =>
          if !(both && isPair m b) then startAlone s m used (free 0) (free 1)
          else if ripe s b && vecDepsMet s b then
            let (s1, r) := startVec s m [] 1 4 4
            ((startVec s1 b r.effs 2 4 5).1, 3)
          else (s, used)

/-- VECTOR_COMMAND_START of the context's core: at most one command a pipe (08 R149). -/
def execVectorCommandStart (s : State) : Host.Outcome State Fault Refusal :=
  let core := coreOf s.me
  .next ((engineOrder s core).foldl (fun (acc : State × Nat) k => startSlot acc.1 k acc.2) (s, 0)).1

/-! ### Landings (08 R150, R154) -/

/-- The target of a VLD or BLD that met an uncorrectable error is tagged POISON. -/
def poisonTarget (s : State) (m : Cmd) : State :=
  s.modSlot m.slot (fun x =>
    if majorOf m.w0 = 0x61 then x.setTileTag m.vx.vd.toNat 15 else x.setRowTag m.vx.vd.toNat 15)

/-- A command that failed: it writes nothing but a POISON tag, gives its signal, and the slot takes the trap. -/
def failVec (s : State) (m : Cmd) (fault : Nat) (tval : Word) : State :=
  let s1 := logCommand s m (errorCode fault) (if fault = 6 then none else some m.scal)
  let s2 := if fault = 15 && m.vfn = 0 then poisonTarget s1 m else s1
  let s3 := s2.modSlot m.slot (fun x => x.noteFailed m.writes)
  engineTrap (finishCmd s3 m) m fault tval

/-- A store lands, or a line it touches refuses it (5), or has metadata that cannot be relied on (15); the plain stores to its lines
that are under way are performed first. -/
def storeEff (s : State) (m : Cmd) (off len : Nat) (v : Tile) (bytes : Row) : State × Nat :=
  let touched (j : Nat) : Bool := (List.range 8).any (fun u => chosenBytes bytes (8 * j + u) != 0)
  let place (j : Nat) : Place := .spad (coreOf m.slot) (off + 64 * j)
  let lines := (List.range (len / 64)).filter touched
  let s1 := mendLines (lines.foldl (fun acc j => settleLine acc m.slot (place j)) s) m off len touched
  match lines.find? (fun j => lineBad s1 (place j)) with
  | some j => (logBad s1 (place j) m.slot m.dom, 15)
  | none =>
    match refusedLine s1 m off len touched with
    | some p => (logMmx s1 m.slot m.dom p p.addr, 5)
    | none => (performStore s1 m off len v bytes, 0)

/-- The matrix run that accumulates into a row next keeps what a vector command now writes over; those behind it may build on the new
value (09 R191). -/
def noteOlds (s : State) (slot n : Nat) (new : Row) : State :=
  let wants (q : Run) : Bool := q.unlanded slot && q.rows.any (fun e => e.1 = n)
  let core := coreOf slot
  match (s.core core).mrun.find? wants with
  | none => s
  | some f =>
    let old := (s.slot slot).rowRead n
    s.modCore core (fun c =>
      { c with mrun := c.mrun.map (fun q =>
          if wants q then { q with olds := q.olds ++ [(n, if q.cmd.seq = f.cmd.seq then old else new)] } else q) })

/-- A tile that an outer comparison is about to write: each of its rows holds one writer's whole value (10 R201). -/
def shareOuter (s : State) (slot n : Nat) : State :=
  let also (q : Run) : Bool := q.unlanded slot && q.cmd.writes.any (fun w => w.1 = .tile n)
  let core := coreOf slot
  if !(s.core core).mrun.any also then s
  else
    let (f, s1) := takeFree s 256
    s1.modCore core (fun c =>
      { c with mrun := c.mrun.map (fun q => if also q then { q with effs := q.effs.map (Eff.cut (.tile n) f) } else q) })

/-- What the landing of an effect means for the matrix commands that are under way. -/
def beforeEff (s : State) (slot : Nat) (e : Eff) : State :=
  match e with
  | .row n v sectors tag => noteOlds s slot n (((s.slot slot).landRowEff n v sectors tag).rowRead n)
  | .tile n _ _ _ => shareOuter s slot n
  | _ => s

/-- A command's writes land, or its store is refused. -/
def landEffs (s : State) (m : Cmd) (l : List Eff) : State × Nat :=
  l.foldl
    (fun acc e =>
      match e with
      | .store off len v bytes => storeEff acc.1 m off len v bytes
      | e => ((beforeEff acc.1 m.slot e).modSlot m.slot (fun x => x.applyEff e), acc.2))
    (s, 0)

/-- One command lands. -/
def landVec (s : State) (r : Run) : State :=
  let m := r.cmd
  if r.fault ≠ 0 then failVec s m r.fault r.tval
  else
    match landEffs s m r.effs with
    | (s1, 0) => finishCmd (orFlags s1 m.slot r.flags) m
    | (s1, f) => failVec s1 m f (withAddr m m.scal.toNat)

/-- VECTOR_COMMAND_LAND of the context's core: every command whose latency has passed lands, in order of start. -/
def execVectorCommandLand (s : State) : Host.Outcome State Fault Refusal :=
  let core := coreOf s.me
  let due (r : Run) : Bool := r.landedAt = 0 && decide (r.land ≤ s.cycle)
  let now := (s.core core).vrun.filter due
  let s1 := s.modCore core (fun c =>
    { c with vrun := (c.vrun.filter (fun r => !r.over s)).map (fun r => if due r then { r with landedAt := s.cycle } else r) })
  .next (now.foldl landVec s1)

end Sys2Proof.Machine
end

