-- ==== Sys2Proof/Machine/System.lean ====
section
/-! DEFINITION. The system instructions (04 R95 to R100), system registers (02 R37 to R46, 07 R133 to R136, 20 R405, R406,
R428, R429), the diagnostic spaces (02 R43, 20 R425, R426), the journal, checkpoint and translation instructions (20 R419
to R423), snapshots (20 R429, R430), hang records (20 R431) and scrubbing (20 R427). -/

namespace Sys2Proof.Machine

/-! ### Traps, returns, halting -/

/-- ERET (04 R99, 20 R409). -/
def execEret (st : BitVec 3) (s : State) : Result :=
  .next (gate (.eret st) true anyRole true id
    (fun s =>
      let x := s.slot s.me
      let a := s.myRole.epc
      if badTarget a then .trap s 1 a
      else if x.journal.any (·.discarded) || !x.lift.isEmpty then trapFree s 1
      else .goto (returnFromTrap s) (BitVec.setWidth 32 a)) s)

/-- HALT (04 R100); before its BEND a role of a timed strand traps BCHK (12 R255). -/
def execHalt (st : BitVec 3) (s : State) : Result :=
  .next (gate (.halt st) true anyRole true id
    (fun s =>
      match unfinishedBlock s with
      | some v => bchk s v
      | none => .done (haltSlot s s.me s.cur.role)) s)

/-- BRK (04 R98). -/
def execBrk (st : BitVec 3) (s : State) : Result :=
  .next (gate (.brk st) true anyRole false id (fun s => .trap s 17 (BitVec.allOnes 64)) s)

/-- TRAP (04 R97): sys.epc is the link, and its word counts as issued. -/
def execTrap (st : BitVec 3) (code : BitVec 17) (s : State) : Result :=
  .next (gate (.trap st code) true anyRole false id
    (fun s =>
      let i : Instr := .trap st code
      let s1 := blockWords s s.me (roleNum s.cur.role) (wordList i)
      .trap (s1.modMe (fun c => { c with pc := linkOf c i })) 17 (BitVec.setWidth 64 code)) s)

/-! ### System registers (02 R37) -/

/-- The registers by number: every number to 0x10 is assigned. -/
def sysAssigned (n : Nat) : Bool := decide (n ≤ 0x10)

/-- A register marked RO. -/
def sysReadOnly (n : Nat) : Bool := n = 2 || n = 7 || n = 8 || n = 9

/-- A register marked S-RW. -/
def sysPrivileged (n : Nat) : Bool := !(sysReadOnly n || n = 1)

/-- The engine-state registers, read with the latency of engine state (04 R95, 12 R243). -/
def sysEngine (n : Nat) : Bool := n = 0xC || n = 0xF || n = 0x10

/-- The bits of a register that a write reaches (02 R38, R43, R45, 12 R268, 20 R405, R406, R428, R429, R431). -/
def ctlFields : Word := 0xF3
def tvecFields : Word := 0xFFFFFFF
def diagaFields : Word := 0xF0000000000FFFFF
def repairFields : Word := 0xC0FFFFFF
def einjFields : Word := 0xFFFFFFFF0000FFF1

/-- The flags that commands of the slot which land in this cycle raise: their OR comes after a write (07 R136). -/
def landedFlags (s : State) (slot : Nat) : Word :=
  let c := s.core (coreOf slot)
  ((c.vrun ++ c.mrun).filter (fun r => r.cmd.slot = slot && r.landedAt = s.cycle)).foldl
    (fun (v : Word) r => v ||| (BitVec.setWidth 64 r.flags <<< 8)) 0

/-- A register other than sys.diagd as a read returns it. -/
def sysValue (s : State) (n : Nat) : Word :=
  let x := s.slot s.me
  let c := s.myRole
  match n with
  | 0x0 => x.ctl
  | 0x1 => c.fpctl
  | 0x2 => statusOf s.cur.role c.sup c.psup
  | 0x3 => c.cause
  | 0x4 => c.epc
  | 0x5 => c.tval
  | 0x6 => c.tvec
  | 0x7 => BitVec.ofNat 64 s.vcc
  | 0x8 => BitVec.setWidth 64 s.frameCtr
  | 0x9 => BitVec.ofNat 64 s.me
  | 0xA => BitVec.ofNat 64 x.domain
  | 0xB => c.diaga
  | 0xD => (s.core (coreOf s.me)).summary
  | 0xE => (s.core (coreOf s.me)).einj
  | 0xF => s.snap
  | 0x10 => if x.hangIndex < 16 then x.hangRec.get x.hangIndex 0 else 0
  | _ => 0

/-- A write of sys.snap: CAUSES, EXT and ARM are stored, and a 1 in ARM clears LATCHED (20 R429). -/
def snapWrite (old v : Word) : Word :=
  let w := (old &&& 0xFFFFFFFA) ||| (v &&& 0xFFFFFFFF00000005)
  if v.getLsbD 0 then w &&& ~~~8#64 else w

/-- A write of a register other than sys.diagd. What the three roles share counts from the next cycle on; INDEX of sys.hang is one of
the slot's (DESIGN CHOICE, log entry 72). -/
def sysStore (s : State) (n : Nat) (v : Word) : State :=
  let k := s.me
  match n with
  | 0x0 => s.modSlot k (fun x => { x with ctlNext := some (v &&& ctlFields) })
  | 0x1 => s.modMe (fun c => { c with fpctl := (v &&& fpctlFields) ||| (if s.cur.role = .computer then landedFlags s k else 0) })
  | 0x3 => s.modMe (fun c => { c with cause := v &&& causeFields })
  | 0x4 => s.modMe (fun c => { c with epc := v &&& epcFields })
  | 0x5 => s.modMe (fun c => { c with tval := v })
  | 0x6 => s.modMe (fun c => { c with tvec := v &&& tvecFields })
  | 0xA => s.modSlot k (fun x => { x with domNext := some (v.toNat % 16) })
  | 0xB => s.modMe (fun c => { c with diaga := v &&& diagaFields })
  | 0xD => s.modCore (coreOf k) (fun c => { c with summary := v &&& repairFields })
  | 0xE => s.modCore (coreOf k) (fun c => { c with einj := v &&& einjFields })
  | 0xF => { s with snap := snapWrite s.snap v }
  | 0x10 => s.modSlot k (fun x => { x with hangNext := some (v.toNat % 64) })
  | _ => s

/-! ### Diagnostic spaces (02 R43, R44, 20 R425, R426) -/

/-- Space 4 reaches a slot: its own, halted, without a strand, or held by a trap. -/
def reachable (s : State) (slot : Nat) : Bool :=
  let x := s.slot slot
  slot = s.me || x.halted || x.strand.isNone || !x.handlers.isEmpty

/-- The address of an access to sys.diagd lies in its space; a write of the journal class is refused, a write of any other
read-only word is ignored (00 R5). -/
def diagOk (s : State) (write : Bool) : Bool :=
  let d := s.myRole.diaga
  let a := bitsOf d 0 20
  match bitsOf d 60 4 with
  | 0 => decide (bitsOf d 3 12 < 2052)
  | 1 => bitsOf d 17 3 = 0 && decide (bitsOf d 7 8 < 160)
  | 2 => decide (a < 32)
  | 3 => decide (a < 65536)
  | 4 =>
    let n := bitsOf d 0 15
    bitsOf d 15 3 = 0 && decide (n < imageWords) && reachable s (4 * coreOf s.me + bitsOf d 18 2) &&
      !(write && classOf n = 16)
  | 5 => decide (a < 2)
  | 6 => decide (a ≤ 0x400)
  | 7 => decide (bitsOf d 12 8 < 12)
  | _ => false

/-- Where a block of snapshot registers stands: blocks 0 to 9 by core, 10 once, 11 by cluster. -/
def snapKey (core block word : Nat) : Nat :=
  let u := if block = 10 then 64 else if block = 11 then 65 + core / 4 else core
  (16 * u + block) * 4096 + word

/-- The word at an allowed address. -/
def diagRead (s : State) : Word :=
  let d := s.myRole.diaga
  let a := bitsOf d 0 20
  let k := coreOf s.me
  let c := s.core k
  match bitsOf d 60 4 with
  | 0 => BitVec.ofNat 64 (Mem.readNat c.spad (rawIndex (bitsOf d 15 5) (bitsOf d 3 12) (8 * bitsOf d 0 3)) 8)
  | 1 => wordAt ((s.slot (4 * k + bitsOf d 15 2)).rows.get (bitsOf d 7 8) 0) (bitsOf d 0 7)
  | 2 => c.repair.get a 0
  | 3 => BitVec.setWidth 64 (c.spadMeta.get a freshMeta)
  | 4 => ctxWord (s.slot (4 * k + bitsOf d 18 2)) false (bitsOf d 0 15)
  | 5 =>
    if a = 0 then BitVec.ofNat 64 c.deepProbe
    else BitVec.setWidth 64 (s.deepMeta.get (c.deepProbe / 64) freshMeta)
  | 6 =>
    let g := s.cluster (clusterOf s.me)
    if a = 0x400 then BitVec.ofNat 64 (g.logLost * 2 ^ 32 + g.logHead)
    else wordAt (g.log.get (a / 4) 0) (a % 4)
  | _ => s.snapRegs.get (snapKey k (bitsOf d 12 8) (bitsOf d 0 12)) 0

/-- A write of 0 to word 0x400 empties the cluster error log (20 R427); HEAD and LOST return to 0, and another value
does nothing (DEDUCED, log entry 21). -/
def logWrite (s : State) (v : Word) : State :=
  if v = 0 then s.modCluster (clusterOf s.me) (fun c => { c with log := [], logHead := 0, logLost := 0 }) else s

/-- The four repair entries' V and ROW bits. -/
def repairEntries : Word := 0x87FF87FF87FF87FF

/-- The line of the scratchpad that port accesses find in a raw row, if any (02 R41, R42). -/
def rawLine (c : Core) (bank row : Nat) : Option Nat :=
  let r := if row < 2048 then row else bitsOf (c.repair.get bank 0) (16 * (row - 2048)) 11
  if repairRow c bank r = row then some (32 * r + bank) else none

/-- A raw write of one word of a scratchpad row, with fresh check bits; its line is left ordered and not pending
(14 R293). -/
def rawPoke (c : Core) (bank row word : Nat) (v : Word) : Core :=
  let i := rawIndex bank row (8 * word)
  let c1 := { c with spad := Mem.writeNat c.spad i 8 v.toNat, spadErr := c.spadErr.put (i / 8) 0 0 }
  match rawLine c bank row with
  | some l => { c1 with spadMeta := c1.spadMeta.put l freshMeta freshMeta, metaErr := c1.metaErr.put l 0 0 }
  | none => c1

/-- A write of a word of a core's scratchpad array: a hardware write of the core, which an armed injection matches (20 R428), with the
wakes of the line's monitors (15 R321). -/
def rawStore (s : State) (core bank row word : Nat) (v : Word) : State :=
  let s1 := s.modCore core (fun c => rawPoke c bank row word v)
  match rawLine (s.core core) bank row with
  | some l => wakeWriters (inject s1 core (.spad core (64 * l)) s.me (s.slot s.me).domain) (.spad core (64 * l))
  | none => s1

/-- Write the word at an allowed address, with fresh check bits. -/
def diagWrite (s : State) (v : Word) : State :=
  let d := s.myRole.diaga
  let a := bitsOf d 0 20
  let k := coreOf s.me
  match bitsOf d 60 4 with
  | 0 => rawStore s k (bitsOf d 15 5) (bitsOf d 3 12) (bitsOf d 0 3) v
  | 1 => s.modSlot (4 * k + bitsOf d 15 2) (fun x => x.rowPoke (bitsOf d 7 8) (bitsOf d 0 7) v)
  | 2 => s.modCore k (fun c => { c with repair := c.repair.put a (v &&& repairEntries) 0 })
  | 4 => s.modSlot (4 * k + bitsOf d 18 2) (fun x => ctxSet x (bitsOf d 0 15) v)
  | 5 => if a = 0 then s.modCore k (fun c => { c with deepProbe := v.toNat % 2 ^ 34 }) else s
  | 6 => if a = 0x400 then logWrite s v else s
  | _ => s

/-! ### SYSR and SYSW (04 R95, R96) -/

/-- The read of register `n`. -/
def sysRead (i : Instr) (n : Nat) (d : BitVec 5) (s : State) : State :=
  gate i (sysAssigned n) (dstOk d) (sysPrivileged n) id
    (operands { dst := some d }
      (fun _ s =>
        if n = 0xC then
          if diagOk s false then .done (writeInterlocked s d 8 (diagRead s)) else .trap s 1 s.myRole.diaga
        else if sysEngine n then .done (writeInterlocked s d 8 (sysValue s n))
        else .done (writeReg s d 1 (sysValue s n)))) s

/-- The write of register `n`. -/
def sysWrite (i : Instr) (n : Nat) (d : BitVec 5) (s : State) : State :=
  gate i (sysAssigned n && !sysReadOnly n) (noPort d) (sysPrivileged n) id
    (operands { srcs := [d] }
      (fun v s =>
        let x := v.getD 0 0
        if n = 0xC then if diagOk s true then .done (diagWrite s x) else .trap s 1 s.myRole.diaga
        else if n = 1 && decide (4 < bitsOf x 0 3) then .trap s 1 x
        else .done (sysStore s n x))) s

/-- SYSR (04 R95). -/
def execSysr (st : BitVec 3) (d : BitVec 5) (reg : BitVec 17) (s : State) : Result :=
  .next (sysRead (.sysr st d reg) reg.toNat d s)

/-- SYSW (04 R96). -/
def execSysw (st : BitVec 3) (d : BitVec 5) (reg : BitVec 17) (s : State) : Result :=
  .next (sysWrite (.sysw st d reg) reg.toNat d s)

/-- SYSR of sys.diagd (02 R43). -/
def execDiagdRead (st : BitVec 3) (d : BitVec 5) (s : State) : Result := .next (sysRead (.diagdRead st d) 0xC d s)

/-- SYSW of sys.diagd (02 R43). -/
def execDiagdWrite (st : BitVec 3) (d : BitVec 5) (s : State) : Result := .next (sysWrite (.diagdWrite st d) 0xC d s)

/-- SYSW of sys.diagd that empties the error log (20 R427): the same word as every write of sys.diagd, whose sys.diaga
names word 0x400 of space 6. -/
def execErrorLogClear (st : BitVec 3) (d : BitVec 5) (s : State) : Result := .next (sysWrite (.diagdWrite st d) 0xC d s)

/-- SYSW of sys.snap (20 R429). -/
def execSnapArm (st : BitVec 3) (d : BitVec 5) (s : State) : Result := .next (sysWrite (.snapArm st d) 0xF d s)

/-- SYSW of sys.einj (20 R428). -/
def execEinjArm (st : BitVec 3) (d : BitVec 5) (s : State) : Result := .next (sysWrite (.einjArm st d) 0xE d s)

/-! ### JRNL (20 R417 to R419) -/

/-- The words of the image in the classes of a mask, whose bit 0 is class 16. -/
def imageSel (classes : Nat) : List Nat := (List.range imageWords).filter (fun n => classes.testBit (classOf n - 16))

/-- What a JRNL answers: the journal and lift entries in use. -/
def jrnlCounts (x : Slot) : Word := BitVec.ofNat 64 (x.journal.length + 256 * x.lift.length)

/-- The cycles an image part takes, at 256 bytes a cycle. -/
def imageCycles (words : List Nat) : Nat := (8 * words.length + 255) / 256

/-- The journal and the lift entries of the slot are read: single-bit errors are corrected, and the answer tells whether no other is
found (20 R427; DESIGN CHOICE, log entry 86). -/
def readHeld (s : State) : State × Bool :=
  let k := s.me
  let x := s.slot k
  let l := (List.range x.journal.length).map (fun n => (96 + n, (x.journal[n]?.map (·.flips)).getD 0)) ++
    (List.range x.lift.length).map (fun n => (160 + n, (x.lift[n]?.map (·.flips)).getD 0))
  let s1 := l.foldl (fun acc e => logFlips acc k x.domain 6 (BitVec.ofNat 64 e.1) e.2) s
  let mend (e : Flips) : Flips := if popcount e < 2 then 0 else e
  (s1.modSlot k (fun y =>
      { y with journal := y.journal.map (fun e => { e with flips := mend e.flips }),
               lift := y.lift.map (fun m => { m with flips := mend m.flips }) }),
    l.all (fun e => decide (popcount e.2 < 2)))

/-- Op 0 reads what it is to store of the arrays that ECC protects; the answer tells whether the journal and the lift buffer can be
stored. -/
def readContext (s : State) (classes : Nat) : State × Bool :=
  let k := s.me
  let s1 := if classes.testBit 2 then (List.range 6).foldl (fun acc q => mendQueue acc k q (acc.queue k q).length) s else s
  let s2 := if classes.testBit 4 then (List.range 160).foldl (fun acc n => checkRow acc k n) s1 else s1
  let s3 := if classes.testBit 5 then (List.range 4).foldl (fun acc n => checkTile acc k n) s2 else s2
  if classes.testBit 0 then readHeld s3 else (s3, true)

/-- Op 0: the classes are stored with hardware writes, word `n` at `at'` n; with the reserved area the record's SAVE word names it. -/
def jrnlSave (s : State) (at' : Nat → Nat) (own : Bool) (classes : Nat) : State :=
  let k := s.me
  let x := s.slot k
  let s1 := (imageSel classes).foldl
    (fun acc n => performWrite acc (.deep (at' n)) 8 (ctxWord x true n).toNat (stampOrdered 0) k x.domain) s
  if own then
    let s2 := recPut s1 (myRef s1).pa 56 8 (at' 0)
    s2.modSlot k (fun y => { y with stored := y.stored || classes.testBit 0 })
  else s1

/-- The words of an image as op 1 reads them, each with its number, or the address of an uncorrectable error. -/
def imageLoad (s : State) (at' : Nat → Nat) (words : List Nat) : State × Except Nat (Sp Word) :=
  words.foldl
    (fun acc n =>
      match acc.2 with
      | .error _ => acc
      | .ok m =>
        match readUnit acc.1 (.deep (at' n)) 8 s.me (s.slot s.me).domain with
        | (s', some v) => (s', .ok ((n, BitVec.ofNat 64 v) :: m))
        | (s', none) => (s', .error (at' n)))
    (s, .ok [])

/-- The journal and the lift buffer as an image gives them; entries load as DISCARDED (log entry 18). -/
def loadJournal (s : State) (w : Nat → Word) : State :=
  let k := s.me
  let t := (s.slot k).strand
  let scope :=
    match t with
    | some t => if t.boot then noScope else t.scope
    | none => noScope
  let sup := (t.map (·.ref.sup)).getD true
  let s1 := (List.range (Nat.min 32 (w 0).toNat)).foldl
    (fun acc j =>
      let (id, a1) := takeSeq acc
      let e := journalOf (fun i => w (8 + 16 * j + i)) id .loader sup scope a1.cycle
      let first := if e.started && (e.fn = 2 || e.fn = 3) then kvFirst a1 k e else 0
      let e1 := { e with role := if e.q = 0 then .loader else .storer, first := first,
                         marked := if e.started && e.fn = 2 then first * e.kvCount else e.marked }
      a1.modSlot k (fun x => { x with journal := x.journal ++ [e1] }))
    s
  (List.range (Nat.min 32 (w 1).toNat)).foldl
    (fun acc j =>
      let (q, a1) := takeSeq acc
      let m := liftOf (fun i => w (520 + 4 * j + i)) k q sup (a1.slot k).timed scope a1.cycle
      a1.modSlot k (fun x => { x with lift := x.lift ++ [m] }))
    s1

/-- Op 1: the selected classes are loaded; with the record's area, at `base`, the area returns to its list and PREEMPTED clears. -/
def jrnlRestore (s : State) (base : Nat) (own : Bool) (classes : Nat) (m : Sp Word) : State :=
  let k := s.me
  let word (n : Nat) : Word := ((m.find? (fun e => e.1 = n)).map (·.2)).getD 0
  let s1 := if classes.testBit 0 then loadJournal s word else s
  let s2 := s1.modSlot k (fun x => m.reverse.foldl (fun (y : Slot) e => ctxSet y e.1 e.2) x)
  if own then
    let cl := clusterOf k
    let area := BitVec.ofNat 64 base
    let s3 := s2.modSlot k (fun x =>
      { x with strand := x.strand.map (fun t => { t with preempted := false }), saveArea := none, stored := false })
    let s4 := { s3 with preemptedOn := s3.preemptedOn.del (myRef s3).pa }
    listAppend (s4.modCluster cl (fun c => { c with saves := c.saves ++ [area] })) cl 8 area
  else s2

/-- Op 2: every discarded copy settles with CANCELLED, and the lifted commands are discarded with their signals. -/
def jrnlDrop (s : State) : State :=
  let k := s.me
  let s1 := ((s.slot k).journal.filter (·.discarded)).foldl (fun acc e => modEntry acc k e.id cancelEntry) s
  let l := (s1.slot k).lift
  l.foldl (fun acc c => discardCmd acc c .computer) (s1.modSlot k (fun x => { x with lift := [] }))

/-- What is left in use once op 2 has dropped the discarded copies and the lifted commands. -/
def jrnlLeft (x : Slot) : Word := jrnlCounts { x with journal := x.journal.filter (fun e => !e.discarded), lift := [] }

/-- The bytes of a page, in which an image's translation stays good (13 R274). -/
def pageBytes : Nat := 65536

/-- The page of an image at `va` that holds its word `n`. -/
def imagePage (va n : Nat) : Nat := (va + 8 * n) / pageBytes

/-- Translate the pages of an image at `va` that hold the given words: where each page stands, or the address and the reason of the
first that does not lead to the local deep store. -/
def imagePages (s : State) (va : Nat) (k : AccKind) (words : List Nat) : State × Except (Nat × Nat) (Sp Nat) :=
  let first := imagePage va 0
  ((List.range (imagePage va imageWords + 1 - first)).filter (fun i => words.any (fun n => imagePage va n = first + i))).foldl
    (fun acc i =>
      match acc.2 with
      | .error _ => acc
      | .ok m =>
        let a := Nat.max va (pageBytes * (first + i))
        match translate acc.1 (coreOf s.me) (s.slot s.me).domain a k s.myRole.sup s.me with
        | (s1, .error r) => (s1, .error (a, r))
        | (s1, .ok (.deep pa)) => (s1, .ok ((first + i, pa / pageBytes * pageBytes) :: m))
        | (s1, .ok _) => (s1, .error (a, 12)))
    (s, .ok [])

/-- The address of word `n` of an image at `va` whose pages are translated. -/
def pagedWord (m : Sp Nat) (va n : Nat) : Nat := Sp.get m (imagePage va n) 0 + (va + 8 * n) % pageBytes

/-- The address of word `n` of an image in a save area. -/
def areaWord (base n : Nat) : Nat := (base + 8 * n) % 2 ^ 34

/-- The image address: with a = 0 the reserved area, or under op 1 the record's SAVE word; else an aligned local deep-store address,
translated page by page. -/
def jrnlBase (s : State) (op : Nat) (a : BitVec 5) (va : Word) (words : List Nat) (next : State → (Nat → Nat) → Did) : Did :=
  let x := s.slot s.me
  if a = 0 then
    let recorded := x.strand.any (fun t => t.preempted)
    if op = 0 then
      match x.saveArea with
      | some w => next s (areaWord w.toNat)
      | none => trapFree s 1
    else if recorded || x.saveArea.isSome then next s (areaWord (recGet s (myRef s).pa 56 8))
    else trapFree s 1
  else if va.toNat % 64 ≠ 0 then .trap s 3 va
  else
    match imagePages s va.toNat (if op = 1 then .read else .write) (if op = 2 then [0] else words) with
    | (s1, .error (b, r)) => .trap (logXlate s1 s.me r (BitVec.ofNat 64 b)) 4 (BitVec.ofNat 64 b)
    | (s1, .ok m) => next s1 (pagedWord m va.toNat)

/-- JRNL: one word for its three operations, which s[b] names. -/
def jrnl (i : Instr) (d a b : BitVec 5) (s : State) : State :=
  gate i true (dstOk d) true id
    (operands { srcs := [a, b], dst := some d }
      (fun v s =>
        let sb := v.getD 1 0
        let op := if b = 0 then 0 else bitsOf sb 0 3
        let classes := if b = 0 then 0x3F else bitsOf sb 16 6
        let x := s.slot s.me
        if x.timed then trapFree s 1
        else if b != 0 && (sb &&& ~~~0x3F0007#64 != 0 || decide (2 < op)) then .trap s 1 sb
        else if op = 1 && (!x.journal.isEmpty || !x.lift.isEmpty) then trapFree s 1
        else
          let words := imageSel classes
          jrnlBase s op a (v.getD 0 0) words (fun s at' =>
            let answer (s : State) (lat : Nat) (w : Word) : Did := .done (writeInterlocked s d lat w)
            match op with
            | 0 =>
              match readContext s classes with
              | (s0, false) => trapFree s0 15
              | (s0, true) =>
                let s1 := jrnlSave s0 at' (a = 0) classes
                answer s1 (imageCycles words + 1) (jrnlCounts (s1.slot s1.me))
            | 1 =>
              match imageLoad s at' words with
              | (s1, .error pa) => .trap s1 15 (BitVec.ofNat 64 pa)
              | (s1, .ok m) =>
                let s2 := jrnlRestore s1 (at' 0) (a = 0) classes m
                answer s2 (imageCycles words + 1) (jrnlCounts (s2.slot s2.me))
            | _ => answer (jrnlDrop s) 1 (jrnlLeft (s.slot s.me))))) s

/-- JRNL, as it stores (op 0). -/
def execJrnlStore (st : BitVec 3) (d a b : BitVec 5) (s : State) : Result := .next (jrnl (.jrnlStore st d a b) d a b s)

/-- JRNL, as it loads (op 1). -/
def execJrnlLoad (st : BitVec 3) (d a b : BitVec 5) (s : State) : Result := .next (jrnl (.jrnlStore st d a b) d a b s)

/-- JRNL, as it abandons (op 2). -/
def execJrnlAbandon (st : BitVec 3) (d a b : BitVec 5) (s : State) : Result := .next (jrnl (.jrnlStore st d a b) d a b s)

/-! ### REPLAY (20 R420) -/

/-- A lifted command enters its engine's queue again. -/
def reissueCmd (s : State) (m : Cmd) : State :=
  let (seq, s1) := takeSeq s
  let m1 := { m with slot := s.me, seq := seq, pushed := s.cycle }
  let m2 := if m.engine = 0 then vecUses s1 m1 else mxUses s1 m1
  s1.modCore (coreOf s.me) (fun c => if m.engine = 0 then { c with vq := enqueue c.vq m2 } else { c with mq := enqueue c.mq m2 })

/-- The lifted commands enter while their queue has room; `fuel` is their number. -/
def replayLift (s : State) (fuel : Nat) : State :=
  match fuel with
  | 0 => s
  | n + 1 =>
    match (s.slot s.me).lift with
    | [] => s
    | m :: rest =>
      if queueFull s m.engine then s
      else
        replayLift (reissueCmd (s.modSlot s.me (fun x => { x with lift := rest, reissued := x.reissued + 1 })) m) n

/-- The discarded copies enter while their queue has room. -/
def replayCopies (s : State) (fuel : Nat) : State :=
  match fuel with
  | 0 => s
  | n + 1 =>
    match (s.slot s.me).journal.find? (·.discarded) with
    | none => s
    | some e =>
      if 32 ≤ (copyQueue s (coreOf s.me) e.q).length then s
      else
        let s1 := modEntry s s.me e.id (fun y => { y with discarded := false, replayed := true, pushed := s.cycle })
        replayCopies (s1.modSlot s.me (fun x => { x with reissued := x.reissued + 1 })) n

/-- REPLAY. -/
def execReplay (st : BitVec 3) (d : BitVec 5) (s : State) : Result :=
  .next (gate (.replay st d) true (dstOk d) true id
    (operands { dst := some d }
      (fun _ s =>
        if (s.slot s.me).timed then trapFree s 1
        else
          let s1 := replayLift s (s.slot s.me).lift.length
          if !(s1.slot s1.me).lift.isEmpty then .wait s1 4
          else
            let s2 := replayCopies s1 (s1.slot s1.me).journal.length
            let x := s2.slot s2.me
            if x.journal.any (·.discarded) then .wait s2 4
            else
              .done (writeInterlocked (s2.modSlot s2.me (fun y => { y with reissued := 0 })) d 1 (BitVec.ofNat 64 x.reissued)))) s)

/-! ### SNAP (20 R421, R429) -/

/-- SNAP. -/
def execSnap (st : BitVec 3) (d : BitVec 5) (s : State) : Result :=
  .next (gate (.snap st d) true (dstOk d) true id
    (operands { dst := some d }
      (fun _ s =>
        let v := if s.snap.getLsbD 0 then BitVec.ofNat 64 ((bitsOf s.snap 16 16 + 1) % 65536) else statusWord 1
        .done (writeInterlocked (fireSnapshot s 1) d 1 v))) s)

/-- SNAP_EXTERNAL_TRIGGER: the external input fires the trigger while EXT is 1. -/
def execSnapExternalTrigger (s : State) : Result := .next (if s.snap.getLsbD 2 then fireSnapshot s 3 else s)

/-- Words from `first` on. -/
def wordsFrom (first : Nat) (l : List Word) : List (Nat × Word) := (List.range l.length).map (fun i => (first + i, l.getD i 0))

/-- Up to `n` commands of a queue, two words each: the instruction's, and the value captured at push. -/
def cmdWords (l : List Cmd) (n : Nat) : List Word := (l.take n).flatMap (fun m => [m.w1 ++ m.w0, m.scal])

/-- The cycles for which a pipe or a path is still held. -/
def busyFor (s : State) (l : List Run) (bit : Nat) : Word :=
  BitVec.ofNat 64 (l.foldl (fun m r => if r.pipes.testBit bit then Nat.max m (r.start + r.hold - s.cycle) else m) 0)

/-- The number of a buffer state. -/
def bufNum (b : Buf) : Nat :=
  match b.st with
  | .free => 0
  | .fill => 1
  | .ready => 2
  | .cur => 3
  | .held => 4

/-- The chunks that the commands in flight of a queue have moved. -/
def flightChunks (s : State) (core q : Nat) : List Word :=
  ((copyFlight s core q).map (fun e => BitVec.ofNat 64 e.2.chunks)).take 8

/-- A merge group: its unit, its operation and width, the cycle it opened, and its members. -/
def groupWords (g : Merge) : List Word :=
  [g.place.addr, BitVec.ofNat 64 (g.op + 16 * g.w + 256 * g.members.length), BitVec.ofNat 64 g.opened] ++
    g.members.flatMap (fun m =>
      [m.operand, m.va, BitVec.ofNat 64 (m.input + 16 * roleNum m.role + 256 * m.slot + if m.returns then 65536 else 0)])

/-- A block of snapshot registers as it stands now (20 R430); the order of a block's words, which the rule leaves open, is
the order in which it names them (DESIGN CHOICE, log entry 22). -/
def snapBlock (s : State) (core b : Nat) : List (Nat × Word) :=
  let c := s.core core
  if b < 4 then
    let slot := 4 * core + b
    allRoles.flatMap (fun r =>
      let x := s.role slot r
      wordsFrom (16 * (roleNum r - 1))
        [x.epc, BitVec.ofNat 64 x.reason, BitVec.ofNat 64 x.nul, BitVec.ofNat 64 (x.nextIssue - s.clock slot)])
  else
    match b with
    | 4 =>
      wordsFrom 0 (cmdWords c.mq 16) ++
        wordsFrom 32 [busyFor s c.mrun 0, busyFor s c.mrun 1, BitVec.ofNat 64 c.active.tag, BitVec.ofNat 64 c.active.dom,
          BitVec.ofNat 64 c.shadow.tag, BitVec.ofNat 64 c.shadow.dom]
    | 5 => wordsFrom 0 (cmdWords c.vq 16) ++ wordsFrom 32 [busyFor s c.vrun 0, busyFor s c.vrun 1]
    | 6 =>
      let part (q : Nat) : List Word := (copyQueue s core q).map (fun e => e.2.w1 ++ e.2.w0)
      wordsFrom 0 ((part 0).take 32) ++ wordsFrom 32 ((part 1).take 32) ++
        wordsFrom 64 (flightChunks s core 0) ++ wordsFrom 72 (flightChunks s core 1)
    | 7 =>
      match s.segs.find? (fun g => g.begun) with
      | some g =>
        wordsFrom 0 [BitVec.ofNat 64 g.frame, BitVec.ofNat 64 (hSegidx g.header),
          BitVec.ofNat 64 (if g.buf.isSome then Nat.min 114688 (256 * (s.cycle - g.decodeAt)) else 0)]
      | none => []
    | 8 => wordsFrom 0 c.portLog
    | 9 => wordsFrom 0 (c.misses.flatMap (fun m => [m.2.2, BitVec.ofNat 64 (m.1 + 256 * m.2.1)]))
    | 10 =>
      wordsFrom 0 ([BitVec.ofNat 64 s.vcc, BitVec.setWidth 64 s.frameCtr, BitVec.ofNat 64 (frameTick s)] ++
        (List.range 3).map (fun n => BitVec.ofNat 64 (bufNum (s.buf n))) ++
        [BitVec.ofNat 64 (s.holdsVcc.foldl (fun m r => m ||| 2 ^ r) 0)])
    | _ =>
      let l := (s.cluster (core / 4)).groups.take 8
      (List.range l.length).flatMap (fun i => wordsFrom (256 * i) ((l[i]?.map groupWords).getD []))

/-- The cores that hold anything, or whose slots or cluster do, in ascending order. -/
def usedCores (s : State) : List Nat :=
  (List.range 64).filter (fun k =>
    s.cores.any (fun e => e.1 = k) || s.slots.any (fun e => coreOf e.1 = k) || s.clusters.any (fun e => 4 * e.1 = k))

/-- The latch, in the cycle it is due (20 R429): every block's registers, ARM, LATCHED, SRC and SEQ. -/
def latchSnapshot (s : State) : State :=
  match s.snapAt with
  | some (due, src) =>
    if due = s.cycle then
      let regs : Sp Word := (usedCores s).foldl
        (fun m k => (List.range 12).foldl
          (fun m b => (snapBlock s k b).foldl (fun (m : Sp Word) e => m.put (snapKey k b e.1) e.2 0) m) m) []
      let seq := (bitsOf s.snap 16 16 + 1) % 65536
      { s with
        snap := (s.snap &&& 0xFFFFFFFF00000004) ||| BitVec.ofNat 64 (seq * 65536 + src * 256 + 8)
        snapAt := none
        snapRegs := regs }
    else s
  | none => s

/-! ### CKPT (20 R422, R432) -/

/-- The logs are empty and a new interval begins. -/
def newInterval (s : State) : State := { s with undo := [], interval := s.interval + 1 }

/-- The hardware writes that stood stalled go on, in their order (20 R432). -/
def performStalled (s : State) : State :=
  s.stalled.foldl (fun acc w => wakeWriters (writeRaw acc w.place w.n w.val w.stamp w.slot w.dom) w.place) { s with stalled := [] }

/-- The accesses that every slot has handed on are performed, so far as the undo log lets them. -/
def drainAll (s : State) : State := (s.slots.map (·.1)).foldl (fun acc k => drainSlot acc k) s

/-- Write back one record of a die's log: the line and its metadata with PEND 0, with the wakes of the line's monitors (15 R321). What the
record holds in error is so in the line; a record whose own metadata or address cannot be read is passed over (20 R427; DESIGN CHOICE, log
entry 86). -/
def undoOne (s0 : State) (die k : Nat) : State :=
  let at' := undoBase s0 die + 128 * k
  let s := (List.range 10).foldl (fun acc i => (eccUnit acc (.deep (at' + 8 * i)) noSlot 0).1) s0
  let err (i : Nat) : Flips := errAt s (.deep (at' + 8 * i))
  if lineBad s (.deep at') || lineBad s (.deep (at' + 64)) || decide (2 ≤ popcount (err 8)) then s
  else
    let data := Mem.readNat s.deep at' 64
    let pa := Mem.readNat s.deep (at' + 64) 8 % 2 ^ 34
    let md := BitVec.ofNat 36 (Mem.readNat s.deep (at' + 72) 8) &&& 0x7FFFFFFFF#36
    wakeWriters
      { s with
        deep := Mem.writeNat s.deep pa 64 data
        deepMeta := s.deepMeta.put (pa / 64) md freshMeta
        deepErr := (List.range 8).foldl (fun (e : Sp Flips) i => e.put (pa / 8 + i) (err i) 0) s.deepErr
        deepMetaErr := s.deepMetaErr.put (pa / 64) (err 9) 0 }
      (.deep pa)

/-- Every logged line of every die is written back. -/
def rollback (s : State) : State :=
  (List.range 4).foldl
    (fun acc d => (List.range (acc.undo.get d {}).lines.length).foldl (fun a k => undoOne a d k) acc) s

/-- The records in use on the fullest die. -/
def undoUsed (s : State) : Nat := s.undo.foldl (fun m e => Nat.max m e.2.lines.length) 0

/-- CKPT: one word for its three operations, which s[a] names. -/
def ckpt (i : Instr) (d a : BitVec 5) (s : State) : State :=
  gate i true (dstOk d) true id
    (operands { srcs := [a], dst := some d }
      (fun v s =>
        let sa := v.getD 0 0
        let answer (s : State) (w : Word) : Did := .done (writeInterlocked s d 1 w)
        if (s.slot s.me).timed then trapFree s 1
        else if 2 < sa.toNat then .trap s 1 sa
        else
          match sa.toNat with
          | 0 =>
            release s (fun s =>
              let s1 := performStalled (newInterval (drainAll s))
              answer s1 (BitVec.setWidth 64 s1.interval))
          | 1 =>
            let s1 := performStalled (newInterval (rollback s))
            answer s1 (BitVec.setWidth 64 s1.interval)
          | _ => answer s (s.interval ++ BitVec.ofNat 32 (undoUsed s)))) s

/-- CKPT, as it closes the interval (op 0). -/
def execCkptClose (st : BitVec 3) (d a : BitVec 5) (s : State) : Result := .next (ckpt (.ckptClose st d a) d a s)

/-- CKPT, as it rolls back (op 1). -/
def execCkptRollback (st : BitVec 3) (d a : BitVec 5) (s : State) : Result := .next (ckpt (.ckptClose st d a) d a s)

/-- CKPT, as it reads the log state (op 2). -/
def execCkptQuery (st : BitVec 3) (d a : BitVec 5) (s : State) : Result := .next (ckpt (.ckptClose st d a) d a s)

/-! ### TLBINV (20 R423) -/

/-- A virtual address of a domain lies in the extent: 0 the pages of `va`, 1 the domain, 2 all. -/
def inExtent (ext dom va d a : Nat) : Bool :=
  match ext with
  | 0 => d = dom && a / 2 ^ 25 = va / 2 ^ 25
  | 1 => d = dom
  | _ => true

/-- A cached translation is in the extent: of extent 0, a 64 KiB page only where it contains `va`. -/
def tlbHit (ext dom va : Nat) (t : TlbEntry) : Bool :=
  match ext with
  | 0 => t.dom = dom && t.page = va / 2 ^ t.bits
  | 1 => t.dom = dom
  | _ => true

/-- The caches of the package lose what the extent names; a walk for it begins anew when it is asked for again. -/
def dropTranslations (s : State) (ext dom va : Nat) : State :=
  { s with
    cores := s.cores.map (fun e =>
      (e.1, { e.2 with utlb := e.2.utlb.filter (fun t => !tlbHit ext dom va t),
                       code := e.2.code.filter (fun l => !inExtent ext dom va l.dom (64 * l.line)) }))
    clusters := s.clusters.map (fun e => (e.1, { e.2 with tlb := e.2.tlb.filter (fun t => !tlbHit ext dom va t) }))
    walks := s.walks.filter (fun w => !tlbHit ext dom va w.entry) }

/-- An access that used an affected translation is still to be performed, a member of a group of a cluster's router among them. -/
def usesLeft (s : State) (ext dom va : Nat) : Bool :=
  let uses (d : Nat) (a : Word) : Bool := inExtent ext dom va d a.toNat && a.toNat / 2 ^ 48 != 0xFF
  s.slots.any (fun e => allRoles.any (fun r => (e.2.role r).outst.any (fun o => uses e.2.domain o.va))) ||
    s.clusters.any (fun e => e.2.groups.any (fun g => g.members.any (fun m => uses (s.slot m.slot).domain m.va)))

/-- TLBINV. -/
def execTlbinv (st : BitVec 3) (a b : BitVec 5) (s : State) : Result :=
  .next (gate (.tlbinv st a b) true anyRole true id
    (operands { srcs := [a, b] }
      (fun v s =>
        let va := (v.getD 0 0).toNat
        let sb := v.getD 1 0
        let ext := bitsOf sb 4 2
        let dom := bitsOf sb 0 4
        if (s.slot s.me).timed then trapFree s 1
        else if bitsOf sb 6 58 ≠ 0 || ext = 3 then .trap s 1 sb
        else
          release s (fun s =>
            let s1 := drainAll s
            if usesLeft s1 ext dom va then .wait s1 10 else .done (dropTranslations s1 ext dom va)))) s)

/-! ### Hangs (20 R431) -/

/-- The token a role waits on in a TKWAIT. -/
def roleToken (s : State) (slot : Nat) (r : Role) : Option Nat :=
  let c := s.role slot r
  if c.reason != 5 then none
  else
    match cachedLine s (coreOf slot) (s.slot slot).domain (lineOf c.pc) c.sup with
    | none => none
    | some d =>
      let w := lineWord d (wordOf c.pc)
      match decode w 0 with
      | .ok (.tkwait _ t) => some t.toNat
      | _ => none

/-- The slot's first unstarted command of a queue: its words and the value captured. -/
def firstUnstarted (l : List Cmd) (slot : Nat) : List Word :=
  match l.find? (fun m => m.slot = slot && !m.nullified) with
  | some m => [m.w1 ++ m.w0, m.scal]
  | none => [0, 0]

/-- The tokens that something in the slot waits on. -/
def waitedTokens (s : State) (slot : Nat) : List Nat :=
  let c := s.core (coreOf slot)
  let cmds := (c.vq ++ c.mq).filter (fun m => m.slot = slot && !m.nullified)
  let copies := (s.slot slot).journal.filter (fun e => e.queued && !e.started)
  allRoles.filterMap (fun r => roleToken s slot r) ++ cmds.filterMap (fun m => waitToken m.w1) ++
    copies.filterMap (fun e => waitToken e.w1)

/-- A queued, started or running command of the slot will signal the token. -/
def tokenComing (s : State) (slot t : Nat) : Bool :=
  let c := s.core (coreOf slot)
  willSignal s slot t || (c.vq ++ c.mq).any (fun m => m.slot = slot && !m.nullified && signalToken m.w1 = some t) ||
    (s.slot slot).journal.any (fun e => !e.discarded && signalToken e.w1 = some t)

/-- A role waits on a data queue whose partner role is absent, exited or itself blocked. -/
def deadQueue (s : State) (slot : Nat) : Bool :=
  let x := s.slot slot
  let dead (r : Role) : Bool := !(x.role r).runs || (x.role r).reason != 0
  let full (l : List Nat) : Bool := l.any (fun q => 16 ≤ (s.queue slot q).length)
  let why (r : Role) : Nat := if (x.role r).runs then (x.role r).reason else 0
  (why .computer = 3 && dead .loader) || (why .storer = 3 && dead .computer) ||
    (why .loader = 4 && full [0, 1, 2, 3] && dead .computer) || (why .computer = 4 && full [4, 5] && dead .storer)

/-- The barrier that the lowest-numbered role blocked in TBWAIT waits on: words 13 and 14. -/
def hangBarrier (x : Slot) : List Word :=
  match allRoles.findSome? (fun r => if (x.role r).reason = 8 then (x.role r).barWait else none) with
  | none => [0, 0]
  | some w =>
    match w.place with
    | .deep pa => [w.va, BitVec.ofNat 64 pa]
    | .spad c o => [w.va, BitVec.ofNat 64 (2 ^ 63 + c * 2 ^ 22 + o)]
    | _ => [w.va, 0]

/-- The words of a hang record. The sys.epc it shows is the address a trap in this cycle would leave there (DEDUCED, log
entry 23). -/
def hangWords (s : State) (slot : Nat) : List Word :=
  let x := s.slot slot
  let c := s.core (coreOf slot)
  let blocked (r : Role) : Bool := (x.role r).runs && (x.role r).reason != 0
  let roles := allRoles.foldl (fun n r => if blocked r then n + 2 ^ roleNum r else n) 0
  let w0 := 2 ^ 63 + slot * 2 ^ 48 + x.domain % 16 * 2 ^ 44 + roles + (if deadQueue s slot then 1 else 0)
  let roleWord (r : Role) : Word :=
    let y := x.role r
    let at' := if y.held then bitsOf y.epc 0 32 else y.pc.toNat
    BitVec.ofNat 64 (at' + (if y.runs then y.reason else 0) * 2 ^ 32)
  let orphan := (waitedTokens s slot).foldl
    (fun m t => if tokenCount s slot t = 0 && !tokenComing s slot t then m ||| 2 ^ t else m) 0
  let copies (q : Nat) : Word :=
    match (copyQueue s (coreOf slot) q).find? (fun e => e.1 = slot && !e.2.started) with
    | some e => e.2.w1 ++ e.2.w0
    | none => 0
  [BitVec.ofNat 64 w0] ++ allRoles.map roleWord ++
    [bytesWord (fun b => x.tokens.get b 0), bytesWord (fun b => x.tokens.get (8 + b) 0), BitVec.ofNat 64 orphan] ++
    firstUnstarted c.vq slot ++ firstUnstarted c.mq slot ++ [copies 0, copies 1] ++ hangBarrier x ++ [0]

/-- The timeout of a slot has come: HANGEN is 1 and its counter stands at 2^(16 + HTO). -/
def hangDue (x : Slot) : Bool := x.ctl.getLsbD 1 && x.strand.isSome && decide (2 ^ (16 + bitsOf x.ctl 4 4) ≤ x.progress)

/-- HANG_TIMEOUT of the context's slot: the record, a log record of KIND 8, and the trap; the counter restarts. -/
def execHangTimeout (s : State) : Result :=
  let k := s.me
  if hangDue (s.slot k) then
    let regs : Sp Word := (wordsFrom 0 (hangWords s k)).foldl (fun (m : Sp Word) e => m.put e.1 e.2 0) []
    let s1 := s.modSlot k (fun x => { x with hangRec := regs, progress := 0 })
    .next (addPending (logSlot s1 k 8 0 0 0) k ⟨.computer, 16, 0, true, .computer⟩)
  else .next s

/-- A slot's progress counter at the end of a cycle: it restarts where a role issued, a command of the slot started or settled, or no
role is blocked; it counts on otherwise, in a timed slot not while the VCC is paused. -/
def Slot.counted (paused : Bool) (x : Slot) : Slot :=
  let stuck := x.strand.isSome && allRoles.any (fun r => (x.role r).runs && (x.role r).reason != 0)
  if x.moved || !stuck then { x with progress := 0, moved := false }
  else if x.timed && paused then x
  else { x with progress := x.progress + 1 }

/-- The progress counters of every slot (20 R431). -/
def countProgress (s : State) : State :=
  { s with slots := s.slots.map (fun e => (e.1, Slot.counted s.vccPaused e.2)) }

/-! ### Scrubbing (20 R427) -/

/-- ECC_SCRUB of the context's die: its controllers read the next line and correct it; what they log goes to the die's
first cluster (DESIGN CHOICE, log entry 24). -/
def execEccScrub (s : State) : Result :=
  let d := dieOf s.me
  let n := s.scrubbed.get d 0
  let s1 := (List.range 8).foldl (fun acc i => (eccUnit acc (.deep (d * 2 ^ 32 + 64 * n + 8 * i)) (64 * d) 0).1) s
  .next { s1 with scrubbed := s1.scrubbed.put d ((n + 1) % 2 ^ 26) 0 }

end Sys2Proof.Machine
end

