-- ==== Sys2Proof/Machine/Staging.lean ====
section
/-! DEFINITION. The segment stream from D_r on (18 R375 to R394, 23 R462, R464): decode, staging buffers, skips and parks;
compute frames, timetables and the slip log (12 R240 to R251); frame mode (11 R227, R228). -/

namespace Sys2Proof.Machine

/-! ### Headers (18 R375, R376) -/

/-- The first `n` bytes of a header. -/
def headerBytes (h : BitVec 512) (n : Nat) : List Byte := (List.range n).map (fun i => h.extractLsb' (8 * i) 8)

/-- The flag L0. -/
def hL0 (h : BitVec 512) : Bool := hdr h 11 1 % 2 = 1
def hPcrc (h : BitVec 512) : Nat := hdr h 16 4

/-- The header is valid. -/
def headerValid (h : BitVec 512) : Bool :=
  (crc32c (headerBytes h 60)).toNat = hdr h 60 4 && hdr h 1 1 / 16 = 0 && hdr h 7 1 = 0 && hdr h 10 1 / 16 = 0 &&
    hdr h 11 1 / 2 = 0 && hdr h 20 40 = 0 && decide (hKind h ≤ 2) && decide (hElen h ≤ 7339968) &&
    (hKind h != 1 || hdr h 1 59 = 0) && (hKind h != 2 || (hElen h = 0 && hPcrc h = 0 && hCtid h = 0))

/-- A header with a fresh HCRC. -/
def sealHeader (body : BitVec 480) : BitVec 512 := crc32c (headerBytes (BitVec.setWidth 512 body) 60) ++ body

/-- The LOST header that stands for a segment: its DOMAIN, GEN, SEGIDX, TTIDX and FLAGS. -/
def lostHeader (dom gen segidx ttidx : Nat) (l0 : Bool) : BitVec 512 :=
  sealHeader (BitVec.ofNat 480 (2 + dom * 2 ^ 8 + gen * 2 ^ 16 + segidx * 2 ^ 32 + ttidx * 2 ^ 64 +
    (if l0 then 2 ^ 88 else 0)))

/-! ### The slip log and the skip log (12 R251, 18 R393) -/

/-- Record `k` of a log ring is written, then its tail word. -/
def logRing (s : State) (base len k : Nat) (r : BitVec 128) : State :=
  if len = 0 then s
  else
    let s1 := performWrites s (.deep ((base + 64 + 16 * (k % len)) % 2 ^ 34)) 16 r.toNat (stampOrdered 0) noSlot 0
    performWrite s1 (.deep (base % 2 ^ 34)) 8 (k + 1) (stampOrdered 0) noSlot 0

/-- Append a record to the slip log; a slip record is one of KIND 0 (DEDUCED from 12 R250, log entry 25). -/
def slipRecord (s : State) (kind dom cycles slot entry : Nat) (frame : BitVec 48) : State :=
  let r : BitVec 128 := BitVec.ofNat 128 (frame.toNat + entry % 65536 * 2 ^ 48 + slot * 2 ^ 64 + kind * 2 ^ 72 +
    cycles % 2 ^ 32 * 2 ^ 80 + dom * 2 ^ 112)
  let s1 := logRing s (s.mreg 0x228).toNat (s.mreg 0x230).toNat s.slipTail r
  { s1 with slipTail := s1.slipTail + 1, slips := if kind = 0 then s1.slips + 1 else s1.slips }

/-- Append a record to the skip log. -/
def skipRecord (s : State) (kind npark dom ttidx segidx scope frame : Nat) : State :=
  let r : BitVec 128 := BitVec.ofNat 128 (frame % 2 ^ 48 + scope * 2 ^ 48 + segidx * 2 ^ 72 + ttidx * 2 ^ 96 +
    Nat.min 255 npark * 2 ^ 112 + kind * 2 ^ 120 + dom * 2 ^ 124)
  let s1 := logRing s (s.mreg 0x238).toNat (s.mreg 0x240).toNat s.skipTail r
  { s1 with skipTail := s1.skipTail + 1 }

/-- A skip record that names a segment. -/
def skipOf (s : State) (g : Seg) (kind npark scope : Nat) : State :=
  skipRecord s kind npark (hDomain g.header) (hTtidx g.header) (hSegidx g.header) scope g.frame

/-! ### Timetables (12 R247, R248) -/

/-- A translation that failed for hardware that is no core's agent: its record of KIND 4 (13 R282). -/
def hwFail {α : Type} (s : State) (dom va reason : Nat) : State × Option α :=
  (logError s (logCluster noSlot) 4 noSlot dom 0 reason 0 0 (BitVec.ofNat 64 va) 0, none)

/-- Where a domain virtual address leads for hardware that is no core's agent, and by which leaf: it keeps no translation (DESIGN CHOICE,
log entry 26). -/
def hwPlace (s : State) (dom va : Nat) (k : AccKind) (sup : Bool) : State × Option (Place × TlbEntry) :=
  if 2 ^ 56 ≤ va then hwFail s dom va 1
  else if va / 2 ^ 48 = 0xFF then hwFail s dom va (if inWindow va then 12 else 1)
  else
    match walk s dom va noSlot with
    | (s1, .error r) => hwFail s1 dom va r
    | (s1, .ok t) =>
      match leafPlace s1 t va k sup with
      | .ok p => (s1, some (p, t))
      | .error r => hwFail s1 dom va r

/-- So for what must stand in the local deep store: any other level is reason 12. -/
def hwDeep (s : State) (dom va : Nat) (k : AccKind) (sup : Bool) : State × Option (Nat × TlbEntry) :=
  match hwPlace s dom va k sup with
  | (s1, some (.deep pa, t)) => (s1, some (pa, t))
  | (s1, some _) => hwFail s1 dom va 12
  | (s1, none) => (s1, none)

/-- The sequencer reads `n` bytes of a domain's memory. -/
def seqRead (s : State) (dom va n : Nat) : State × Option Nat :=
  (List.range n).foldl
    (fun acc i =>
      match acc.2 with
      | none => acc
      | some v =>
        match hwPlace acc.1 dom (va + i) .read true with
        | (s1, none) => (s1, none)
        | (s1, some (p, _)) =>
          match performRead s1 p 1 noSlot dom with
          | (s2, some b) => (s2, some (v + b * 256 ^ i))
          | (s2, none) => (s2, none))
    (s, some 0)

/-- The entry that 32 bytes hold. -/
def entryOf (v i : Nat) : TEntry :=
  { index := i, tick := v % 512, slot := v / 2 ^ 16 % 256, eticks := BitVec.ofNat 32 (v / 2 ^ 32),
    tmpl := BitVec.ofNat 64 (v / 2 ^ 64), ecrc := BitVec.ofNat 32 (v / 2 ^ 128) }

/-- An entry's reserved fields, and its slot reserved for the domain on a core in service (12 R247, 22 R442). -/
def entryOk (s : State) (dom v : Nat) (e : TEntry) : Bool :=
  v % 65536 / 512 = 0 && v / 2 ^ 24 % 256 = 0 && v / 2 ^ 160 = 0 && e.tmpl.toNat % 64 = 0 && decide (e.tmpl.toNat < 2 ^ 56) &&
    s.frameMode dom && s.maskBit dom e.slot && !(s.core (coreOf e.slot)).withdraw

/-- The template has STATE READY and a CPTR. -/
def templateOk (s : State) (dom : Nat) (tmpl : Word) : State × Bool :=
  match seqRead s dom tmpl.toNat 64 with
  | (s1, some v) => (s1, v / 2 ^ 120 % 16 = stReady && v / 2 ^ 32 % 2 ^ 32 != 0)
  | (s1, none) => (s1, false)

/-- The entries of a table, or `none` where it is malformed. -/
def readEntries (s : State) (dom addr count : Nat) : State × Option (List TEntry) :=
  (List.range count).foldl
    (fun acc i =>
      match acc.2 with
      | none => acc
      | some l =>
        match seqRead acc.1 dom (addr + 32 + 32 * i) 32 with
        | (s1, none) => (s1, none)
        | (s1, some v) =>
          let e := entryOf v i
          let rises :=
            match l.getLast? with
            | some p => decide (p.tick < e.tick) || (p.tick = e.tick && decide (p.slot < e.slot))
            | none => true
          match templateOk s1 dom e.tmpl with
          | (s2, ok) => if ok && rises && entryOk s2 dom v e then (s2, some (l ++ [e])) else (s2, none))
    (s, some [])

/-- The timetable of a segment: its entries; none, with a table-error record where the table is malformed or the index
lies beyond the directory. -/
def readTable (s : State) (dom tt : Nat) : State × List TEntry :=
  let bad (s : State) : State × List TEntry := (slipRecord s 1 dom 0 0 tt s.frameCtr, [])
  if (s.domWord dom 2).toNat ≤ tt then bad s
  else
    match seqRead s dom ((s.domWord dom 1).toNat + 8 * tt) 8 with
    | (s1, none) => bad s1
    | (s1, some addr) =>
      if addr = 0 then (s1, [])
      else
        match seqRead s1 dom addr 32 with
        | (s2, none) => bad s2
        | (s2, some h) =>
          if h = 0 || decide (1024 < h) then bad s2
          else
            match readEntries s2 dom addr h with
            | (s3, some l) => (s3, l)
            | (s3, none) => bad s3

/-- The SCOPE of a template. -/
def templateScope (s : State) (dom : Nat) (tmpl : Word) : State × Nat :=
  match seqRead s dom (tmpl.toNat + 12) 2 with
  | (s1, some v) => (s1, v % 16384)
  | (s1, none) => (s1, 0)

/-! ### Parking (18 R389, R390, R392) -/

/-- Park one scope of a segment, or cancel it where the table is full; the count of scopes newly parked. -/
def parkOne (s : State) (g : Seg) (c n : Nat) : State × Nat :=
  let x := s.scope c
  if c < 16 || x.state != scLive || x.dom != hDomain g.header then (s, n)
  else if (parkOf s c).isSome then (s, n)
  else if 256 ≤ s.parks.length then (skipOf (cancelScope s c) g 6 0 c, n)
  else ({ s with parks := s.parks ++ [⟨c, hSegidx g.header, true, x.dom⟩] }, n + 1)

/-- Park the distinct scopes that a segment's timetable names. -/
def parkSegment (s : State) (g : Seg) : State × Nat :=
  let dom := hDomain g.header
  let r := readTable s dom (hTtidx g.header)
  let scopes := r.2.foldl
    (fun (acc : State × List Nat) e =>
      let q := templateScope acc.1 dom e.tmpl
      (q.1, if acc.2.contains q.2 then acc.2 else acc.2 ++ [q.2]))
    (r.1, [])
  scopes.2.foldl (fun acc c => parkOne acc.1 g c acc.2) (scopes.1, 0)

/-- The scope or an ancestor of it is parked. -/
def parkedUp (s : State) (c fuel : Nat) : Bool :=
  match fuel with
  | 0 => (parkOf s c).isSome
  | n + 1 => (parkOf s c).isSome || ((s.scope c).parent != c && parkedUp s (s.scope c).parent n)

/-! ### Skips (18 R386, 23 R462) -/

/-- The segment leaves: its scopes are parked and a record is appended; an EMPTY segment or one with an invalid header
parks nothing. -/
def skipSeg (s : State) (g : Seg) (kind : Nat) : State :=
  let s1 := { s with segs := s.segs.filter (fun x => x.frame != g.frame) }
  if g.status = .empty || g.status = .invalid then skipRecord s1 kind 0 0 0 0 0 g.frame
  else
    let r := parkSegment s1 g
    skipOf r.1 g kind r.2 0

/-- A segment waits from D_r + 448 on: once its buffer is READY, or it has none (18 R381, 23 R462). -/
def Seg.waits (g : Seg) : Bool := g.begun && g.waiting

/-- The oldest waiting segment is skipped while more than three wait. -/
def skipFourth (s : State) : State :=
  let w := s.segs.filter (·.waits)
  if 3 < w.length then
    match w with
    | g :: _ =>
      let s1 := skipSeg s g 1
      match g.buf with
      | some n => freeBuf s1 n
      | none => s1
    | [] => s
  else s

/-! ### Decode (18 R377 to R379, R383) -/

/-- The canonical codes of a table of lengths, as (length, code, symbol). -/
def canonicalCodes (lens : List Nat) : List (Nat × Nat × Nat) :=
  let used := (List.range 15).flatMap (fun k =>
    ((List.range 256).filter (fun y => lens.getD y 0 = k + 1)).map (fun y => (k + 1, y)))
  (used.foldl
    (fun (acc : List (Nat × Nat × Nat) × Nat × Nat) e =>
      let code := if acc.2.1 = 0 then 0 else (acc.2.2 + 1) * 2 ^ (e.1 - acc.2.1)
      (acc.1 ++ [(e.1, code, e.2)], e.1, code))
    ([], 0, 0)).1

/-- Bit `i` of the stream at an offset of the payload: bit 0 of the first byte comes first. -/
def streamBit (p : Mem) (off i : Nat) : Nat := ((p.byte (off + i / 8)).toNat >>> (i % 8)) % 2

/-- Decode a stream of `n` bits to 114,688 symbols: the symbols found, and whether the stream is good; `fuel` bounds the bits. -/
def decodeBits (codes : List (Nat × Nat × Nat)) (p : Mem) (off n fuel pos code len count : Nat) (out : List Nat) :
    List Nat × Bool :=
  match fuel with
  | 0 => (out.reverse, false)
  | f + 1 =>
    if count = 114688 then
      (out.reverse, decide (n - pos ≤ 7) && (List.range (n - pos)).all (fun i => streamBit p off (pos + i) = 0))
    else if n ≤ pos then (out.reverse, false)
    else
      let c := 2 * code + streamBit p off pos
      match codes.find? (fun e => e.1 = len + 1 && e.2.1 = c) with
      | some e => decodeBits codes p off n f (pos + 1) 0 0 (count + 1) (e.2.2 :: out)
      | none => if 15 ≤ len + 1 then (out.reverse, false) else decodeBits codes p off n f (pos + 1) c (len + 1) count out

/-- The slice of core `k`: its bytes, none where it is absent, and whether it decodes (18 R377, R379): every entry's offset is judged, that
of an absent slice too. -/
def decodeSlice (g : Seg) (k : Nat) : List Nat × Bool :=
  let off := g.payload.readNat (8 * k) 4
  let len := g.payload.readNat (8 * k + 4) 4
  if off < 512 || decide (hElen g.header < off + len) then ([], false)
  else if len = 0 then ([], true)
  else decodeBits g.codes g.payload off (8 * len) (8 * len + 1) 0 0 0 0 []

/-- What a segment's slices decode to. -/
def decodeSegment (g : Seg) : List (List Nat × Bool) :=
  if hElen g.header < 512 || g.codes.isEmpty then List.replicate 64 ([], false) else (List.range 64).map (decodeSlice g)

/-- Every slice decodes. -/
def Seg.decodes (g : Seg) : Bool := g.slices.all (·.2)

/-- A slice's bytes as the words that the decompressor writes, zeros past its end. -/
def sliceWords (bytes : List Nat) (n : Nat) : List Nat :=
  match n with
  | 0 => []
  | k + 1 => ((List.range 8).foldl (fun v i => v + bytes.getD i 0 * 256 ^ i) 0) :: sliceWords (bytes.drop 8) k

/-- The bytes the decompressor writes into each core's buffer in a cycle. -/
def decodeRate : Nat := 256

/-- The words of part `i` of a slice; of one that fails, those it yields (DESIGN CHOICE, log entry 28). -/
def partWords (x : List Nat × Bool) (i : Nat) : List Nat :=
  let l := (x.1.drop (decodeRate * i)).take decodeRate
  sliceWords l (if x.2 then decodeRate / 8 else l.length / 8)

/-- The decompressor's hardware writes of part `i` into buffer `n` of every core (18 R380, R383). -/
def writePart (s : State) (g : Seg) (n i : Nat) : State :=
  (List.range g.slices.length).foldl
    (fun acc k =>
      ((partWords ((g.slices[k]?).getD ([], false)) i).foldl
        (fun (a : State × Nat) w => (performWrite a.1 (.spad k a.2) 8 w (stampOrdered 0) noSlot 0, a.2 + 8))
        (acc, bufOffset s n + decodeRate * i)).1)
    s

/-- The first segment whose decode is due. -/
def nextDecode (s : State) : Option Seg := s.segs.find? (fun g => !g.begun && decide (g.decodeAt ≤ s.cycle))

def modSeg (s : State) (frame : Nat) (f : Seg → Seg) : State :=
  { s with segs := s.segs.map (fun g => if g.frame = frame then f g else g) }

/-- A segment claims a buffer, which is filled from this cycle on; the codes are those in force now (17 R371). -/
def claimBuf (s : State) (g : Seg) (n : Nat) : State :=
  let g1 : Seg := { g with begun := true, buf := some n, codes := canonicalCodes (s.codeTabs.get (hCtid g.header) []) }
  let g2 : Seg := { g1 with slices := decodeSegment g1 }
  let s1 := s.setBuf n { st := .fill, holds := 0, header := g.header, seg := g.frame }
  writePart (modSeg s1 g.frame (fun _ => g2)) g2 n 0

/-- DECODE_START (18 R386). -/
def execDecodeStart (s : State) : Result :=
  match nextDecode s with
  | none => .next s
  | some g =>
    let s1 :=
      if g.status != .weights then modSeg s g.frame (fun x => { x with begun := true })
      else
        match (List.range 3).find? (fun n => (s.buf n).st = .free) with
        | some n => claimBuf s g n
        | none =>
          match s.segs.find? (fun x => x.buf.any (fun n => (s.buf n).st = .ready)) with
          | some o => claimBuf (skipSeg s o 0) g (o.buf.getD 0)
          | none => skipSeg s g 0
    .next (skipFourth s1)

/-- The cycles from D_r to the end of a decode. -/
def decodeTime : Nat := 448

/-- The decode of a segment ends: its buffer is READY, or the failed decode frees it; from now on it waits (18 R383, R387, 23 R462). -/
def endDecode (s : State) (g : Seg) : State :=
  match g.buf with
  | none => modSeg s g.frame (fun x => { x with waiting := true })
  | some n =>
    if g.decodes then modSeg (s.setBuf n { s.buf n with st := .ready }) g.frame (fun x => { x with waiting := true, slices := [] })
    else
      modSeg (freeBuf s n) g.frame (fun x => { x with waiting := true, buf := none, status := .badDecode, slices := [] })

/-- DECODE_COMPLETE (18 R383): the decompressor's writes of the cycle, or the end of the decode. -/
def execDecodeComplete (s : State) : Result :=
  match s.segs.find? (fun g => g.begun && !g.waiting) with
  | none => .next s
  | some g =>
    if g.decodeAt + decodeTime ≤ s.cycle then .next (endDecode s g)
    else
      match g.buf with
      | none => .next s
      | some n => .next (writePart s g n (s.cycle - g.decodeAt))

/-! ### Compute frames (12 R245, 18 R384) -/

/-- The reasons that hold the VCC: 0 the end of a frame, 1 a slip, 2 a late access. -/
def holdVcc (s : State) (why : Nat) : State := { s with holdsVcc := why :: s.holdsVcc }
def freeVcc (s : State) (why : Nat) : State := { s with holdsVcc := s.holdsVcc.erase why }

/-- The previous frame's buffer is FREE, or HELD by holds. -/
def retireBuffer (s : State) : State :=
  match (List.range 3).find? (fun n => (s.buf n).st = .cur) with
  | none => s
  | some n => if (s.buf n).holds = 0 then freeBuf s n else s.setBuf n { s.buf n with st := .held }

/-- Waiters whose threshold the frame counter has reached wake (12 R257). -/
def wakeFrames (s : State) : State :=
  (List.range 16).foldl
    (fun acc cl =>
      let due (w : RecRef × BitVec 48) : Bool := decide (0 ≤ signedDiff48 acc.frameCtr w.2)
      let hit := (acc.cluster cl).frameWait.filter due
      let a1 := acc.modCluster cl (fun c => { c with frameWait := c.frameWait.filter (fun w => !due w) })
      hit.foldl (fun a w => wakeRec a cl w.1) a1)
    s

/-- The bound generation of a domain (22 R440, R458). -/
def bgen (s : State) (d : Nat) : Nat := bitsOf (s.domWord d 10) 0 16

/-- The generation of a WEIGHTS frame: layer 0 binds it, any other is compared (22 R458). -/
def bindGeneration (s : State) (h : BitVec 512) : State :=
  let d := hDomain h
  if hL0 h then s.setMreg (0x850 + 128 * d) (BitVec.ofNat 64 (hGen h))
  else if hGen h != bgen s d then
    { s with frame := { s.frame with
        mismatch := some (BitVec.ofNat 64 (hGen h + bgen s d * 2 ^ 16 + hSegidx h * 2 ^ 32)) } }
  else s

/-- The scopes that wait for this segment rejoin (18 R391). -/
def rejoin (s : State) (g : Seg) : State :=
  let hit := s.parks.filter (fun p => p.rejoin = hSegidx g.header && p.dom = hDomain g.header)
  hit.foldl (fun acc p => skipOf (unpark acc p.scope) g 7 0 p.scope) s

/-- What becomes of a segment at tick 0 of its frame, by its status. -/
def openFrame (s : State) (g : Seg) : State :=
  match g.status with
  | .weights =>
    let s1 := rejoin (bindGeneration s g.header) g
    let r := readTable s1 (hDomain g.header) (hTtidx g.header)
    { r.1 with frame := { r.1.frame with entries := r.2 } }
  | .empty => s
  | .invalid => (skipOf s g 2 0 0).raiseEvent 0
  | .lost =>
    let r := parkSegment s g
    skipOf r.1 g 5 r.2 0
  | .badCrc =>
    let r := parkSegment s g
    skipOf r.1 g 3 r.2 0
  | .badDecode =>
    let r := parkSegment s g
    skipOf r.1 g 4 r.2 0

/-- The segment may become current: decoded, or without a buffer and its time over. -/
def segReady (s : State) (g : Seg) : Bool :=
  match g.buf with
  | some n => (s.buf n).st = .ready
  | none => g.begun && g.waiting

/-- SEGMENT_CURRENT (18 R384): the oldest waiting segment's frame takes tick 0. -/
def execSegmentCurrent (s : State) : Result :=
  match s.segs with
  | [] => .next s
  | g :: rest =>
    if s.frame.running || !segReady s g || !(s.holdsVcc.erase 0).isEmpty then .next s
    else
      let ticks := s.holdsVcc.contains 0
      let s1 := retireBuffer { (freeVcc s 0) with segs := rest, vcc := if ticks then s.vcc + 1 else s.vcc, ticks := true }
      let s2 :=
        match g.buf with
        | some n => bufOwner (s1.setBuf n { s1.buf n with st := .cur }) n true (hDomain g.header)
        | none => s1
      let s3 := { s2 with
        frameCtr := s2.frameCtr + 1
        frame := { running := true, no := s2.frame.no + 1, start := s2.vcc, header := g.header, buf := g.buf, entries := [],
                   mismatch := none } }
      .next (openFrame (wakeFrames s3) g)

/-- An entry of the running frame is due. -/
def dueEntry (s : State) : Option TEntry := s.frame.entries.head?.filter (fun e => decide (e.tick ≤ frameTick s))

/-- COMPUTE_FRAME_END (12 R245): tick 511 has passed, a paused cycle at it too where a slip has ended there, and the VCC pauses until the
next segment is current. -/
def execComputeFrameEnd (s : State) : Result :=
  if s.frame.running && decide (511 ≤ frameTick s) && (dueEntry s).isNone then
    .next (holdVcc { s with frame := { s.frame with running := false, entries := [] } } 0)
  else .next s

/-! ### Releases and slips (12 R249, R250, 18 R390) -/

/-- The slot still holds a strand, or its last strand's commands are outstanding (11 R219). -/
def slotBusy (s : State) (slot : Nat) : Bool :=
  (s.slot slot).strand.isSome || commandsLeft s slot || copiesLeft s slot

/-- The head entry leaves the list. -/
def dropEntry (s : State) : State := { s with frame := { s.frame with entries := s.frame.entries.drop 1 } }

/-- The template's record, as a strand's reference. -/
def templateRef (s : State) (dom : Nat) (tmpl : Word) : State × Option RecRef :=
  match hwDeep s dom tmpl.toNat .read true with
  | (s1, some (pa, t)) => (s1, some ⟨tmpl, dom, pa, t.leaf.getLsbD 7⟩)
  | (s1, none) => (s1, none)

/-- The template is placed in its slot with TIMED set; its first instruction issues 16 ticks on, and on a mismatched
generation its computer takes GENMIS first (12 R249, 22 R458). -/
def releaseEntry (s : State) (e : TEntry) : State :=
  let dom := hDomain s.frame.header
  match templateRef s dom e.tmpl with
  | (s1, none) => s1
  | (s1, some ref) =>
    let s2 := placeStrand s1 e.slot ref true (recState s1 ref.pa) (s1.vcc + 16)
    let b : Block :=
      { entry := e.index, tick0 := s2.vcc, eticks := e.eticks, ecrc := e.ecrc, words := [], bends := [], checked := false,
        header := s2.frame.header, buf := s2.frame.buf, frameNo := s2.frame.no, dom := dom }
    let s3 := scopeInc (s2.modSlot e.slot (fun x => { x with block := some b })) (recScope s2 ref.pa)
    match s3.frame.mismatch with
    | some v => raiseTrap s3 e.slot ⟨.computer, 12, v, true, .computer⟩
    | none => s3

/-- The entry is passed over: a swap is pending and the frame begins a token step (22 R457), its scope or an ancestor is parked, or its
scope is cancelled (18 R390; DEDUCED from the end of the run in 23, log entry 27). -/
def passedOver (s : State) (e : TEntry) : Bool :=
  let c := (templateScope s (hDomain s.frame.header) e.tmpl).2
  (s.swap.pend && hL0 s.frame.header) || parkedUp s c 33 || scopeDead s c

/-- A slot that is halted at its release tick is passed over with a record of KIND 3. -/
def haltedRecord (s : State) (e : TEntry) : State :=
  slipRecord s 3 (hDomain s.frame.header) 0 e.slot e.index s.frameCtr

/-- Release what is due, in order; the first busy slot pauses the VCC. `fuel` is the number of entries. -/
def releaseDue (s : State) (fuel : Nat) : State :=
  match fuel with
  | 0 => s
  | n + 1 =>
    match dueEntry s with
    | none => s
    | some e =>
      if passedOver s e then releaseDue (dropEntry s) n
      else if (s.slot e.slot).halted then releaseDue (dropEntry (haltedRecord s e)) n
      else if slotBusy s e.slot then holdVcc { s with slipping := some s.cycle } 1
      else releaseDue (dropEntry (releaseEntry s e)) n

/-- TIMETABLE_RELEASE (12 R249). -/
def execTimetableRelease (s : State) : Result :=
  if s.frame.running && s.slipping.isNone then .next (releaseDue s s.frame.entries.length) else .next s

/-- ENTRY_SLIP (12 R250): once the slot is free the entry is released and the slip recorded; the rest of the tick's
entries follow. A timed strand that still runs in the slot stands still meanwhile, as 12 R241 has it for every timed role, so that such a
slip ends when something else takes the strand away (DEDUCED, log entry 93). -/
def execEntrySlip (s : State) : Result :=
  match s.slipping, dueEntry s with
  | some c0, some e =>
    let go (s1 : State) : State := releaseDue s1 s1.frame.entries.length
    let free (s1 : State) : State := freeVcc { s1 with slipping := none } 1
    if passedOver s e then .next (go (dropEntry (free s)))
    else if (s.slot e.slot).halted then .next (go (dropEntry (haltedRecord (free s) e)))
    else if slotBusy s e.slot then .next s
    else
      let s1 := dropEntry (releaseEntry (free s) e)
      .next (go (slipRecord s1 0 (hDomain s1.frame.header) (s1.cycle - c0) e.slot e.index s1.frameCtr))
  | _, _ => .next s

/-! ### The frame counter and frame mode (12 R246, 11 R228) -/

/-- The frame counter is written; a move backwards appends a rewind record. -/
def writeFrame (s : State) (v : Word) : State :=
  let new := v.extractLsb' 0 48
  let s1 := if signedDiff48 new s.frameCtr < 0 then slipRecord s 2 0 0 0 0 s.frameCtr else s
  { s1 with frameCtr := new }

/-- FRAMESET (12 R246). -/
def execFrameset (v : BitVec 64) (s : State) : Result := .next (writeFrame s v)

/-- Frame mode of a domain is set or cleared. As it is enabled, BGEN takes the value last written into its word (22 R458); with it
cleared, the sequencer releases no further entry of the domain. -/
def setFrameMode (s : State) (d : Nat) (on : Bool) : State :=
  let s0 := if on && !s.frameMode d then s.setMreg (0x850 + 128 * d) (BitVec.ofNat 64 (s.bgenSet.get d 0)) else s
  let s1 := s0.setMreg (0x818 + 128 * d) (if on then 1 else 0)
  if !on && s1.frame.running && hDomain s1.frame.header = d then
    let s2 := { s1 with frame := { s1.frame with entries := [] } }
    if s2.slipping.isSome then freeVcc { s2 with slipping := none } 1 else s2
  else s1

/-- FRAME_MODE_ENABLE of the context's domain (11 R228). -/
def execFrameModeEnable (s : State) : Result := .next (setFrameMode s s.cur.dom.toNat true)

/-- FRAME_MODE_DISABLE of the context's domain (11 R228). -/
def execFrameModeDisable (s : State) : Result := .next (setFrameMode s s.cur.dom.toNat false)

end Sys2Proof.Machine
end

