-- ==== Sys2Proof/Machine/Ring.lean ====
section
/-! DEFINITION. The ring as this package sees it (22 R450 to R456, 23 R463): flits and links, the arrival and forwarding of slots,
retraining, failures and grafts, refills; the accesses of other packages (13 R278); generation swaps (22 R457). -/

namespace Sys2Proof.Machine

/-! ### Plan, links and neighbours -/

/-- The rotation plan's address, its count L and its entry `k` (22 R450). -/
def planBase (s : State) : Nat := (s.mreg 0x90).toNat % 2 ^ 34
def planLen (s : State) : Nat := Mem.readNat s.deep (planBase s) 8
def planEntry (s : State) (k : Nat) : Word := BitVec.ofNat 64 (Mem.readNat s.deep (planBase s + 8 + 8 * k) 8)

/-- The length of the plan and the given entries are read: single-bit errors are corrected, others recorded (20 R427); what is in error is
used as it stands (DESIGN CHOICE, log entry 86). -/
def mendPlan (s : State) (l : List Nat) : State :=
  (0 :: l.map (fun k => 8 + 8 * k)).foldl (fun acc o => (eccUnit acc (.deep (planBase s + o)) noSlot 0).1) s

/-- The next index of the plan, and the one before. -/
def planNext (s : State) (k : Nat) : Nat := if planLen s = 0 then k + 1 else (k + 1) % planLen s
def planBefore (s : State) (k : Nat) : Nat := if planLen s = 0 then k - 1 else (k + planLen s - 1) % planLen s

/-- A plan entry is EMPTY. -/
def planEmpty (s : State) (k : Nat) : Bool := (planEntry s k).getLsbD 28

/-- A valid header is that of a plan entry. -/
def planNames (s : State) (k : Nat) (h : BitVec 512) : Bool :=
  if hKind h = 1 then planEmpty s k
  else !planEmpty s k && bitsOf (planEntry s k) 24 4 = hDomain h && bitsOf (planEntry s k) 0 24 = hSegidx h

/-- The plan index of a slot that arrives: the first from the one expected on that its header names, else the one expected (DEDUCED, log
entry 84). -/
def planOf (s : State) (h : BitVec 512) : Nat :=
  let k := s.ring.planIndex
  let after := (List.range (planLen s)).map (fun i => (k + i) % planLen s)
  if headerValid h then (after.find? (fun j => planNames s j h)).getD k else k

/-- The flits of a slot (22 R451, 01 R13). -/
def slotFlits : Nat := 114688

def Ring.link (r : Ring) (p : Port) : Link :=
  match p with
  | .up => r.up
  | .down => r.down

def Ring.setLink (r : Ring) (p : Port) (l : Link) : Ring :=
  match p with
  | .up => { r with up := l }
  | .down => { r with down := l }

def State.modRing (s : State) (f : Ring → Ring) : State := { s with ring := f s.ring }

def State.modLink (s : State) (p : Port) (f : Link → Link) : State :=
  s.modRing (fun r => r.setLink p (f (r.link p)))

/-- The nearest position that has not failed, in the direction of a port: U joins the lower position (22 R450). -/
def neighbourFrom (s : State) (p : Port) (pos fuel : Nat) : Nat :=
  match fuel with
  | 0 => pos
  | k + 1 =>
    let n := Nat.max 1 s.ringLen
    let q :=
      match p with
      | .up => (pos + n - 1) % n
      | .down => (pos + 1) % n
    if s.ring.failed.contains q then neighbourFrom s p q k else q

def neighbour (s : State) (p : Port) : Nat := neighbourFrom s p s.ringPos 256

/-- The ring stands still here: it is paused from this or another package or for a swap, or this package is bypassed (22 R452, R453,
R457). -/
def ringStopped (s : State) : Bool := s.ring.paused || s.ring.latched || s.swap.paused || !s.ring.away.isEmpty

/-- While the ring stands still, so do its frames (22 R452): the running one ends a cycle later. -/
def holdRing (s : State) : State := if ringStopped s then s.modRing (fun r => { r with frameStart := r.frameStart + 1 }) else s

/-- The link loses training, and the whole ring pauses (22 R452). -/
def retrain (s : State) (p : Port) : State :=
  (s.modLink p (fun l =>
    { l with trained := false, discarding := false, replayFails := 0, untrainedSince := if l.trained then s.cycle else l.untrainedSince })).modRing
    (fun r => { r with paused := true })

/-- LINK_RETRAIN (22 R452): the context's port has lost lock; or, with another package's position, that package's pause has come. -/
def execLinkRetrain (s : State) : Result :=
  let pos := s.cur.pos.toNat
  if pos = s.ringPos then .next (retrain s s.cur.port)
  else .next (s.modRing (fun r => { r with away := if r.away.contains pos then r.away else r.away ++ [pos] }))

/-! ### The ring store (01 R13, 13 R272, 22 R450) -/

/-- The bytes of a slot and of a MiB. -/
def slotBytes : Nat := 7340032
def mib : Nat := 1048576

/-- The ring store's regions of the given dies, one after another: where byte `o` stands. -/
def ringAddrIn (s : State) (dies : List Nat) (o : Nat) : Nat :=
  match dies with
  | [] => 0
  | d :: rest =>
    let n := s.ringStoreMiB d * mib
    if o < n then d * 2 ^ 32 + (2 ^ 32 - n) + o else ringAddrIn s rest (o - n)

/-- The physical address of flit `i` of place `k`: the places follow one another through the regions of the four dies (DESIGN CHOICE, log
entry 83). -/
def ringAddr (s : State) (k i : Nat) : Nat := ringAddrIn s [0, 1, 2, 3] (slotBytes * k + 64 * i) % 2 ^ 34

/-- The slots that the ring store holds: 658 at its default size (22 R450). -/
def ringPlaces (s : State) : Nat := ([0, 1, 2, 3].map s.ringStoreMiB).foldl (· + ·) 0 * mib / slotBytes

/-- The first place that holds no slot. -/
def freePlace (s : State) : Option Nat :=
  (List.range (ringPlaces s)).find? (fun k => s.ring.into != some k && !s.ring.store.any (fun x => x.place = k))

/-- Ring forwarding writes flit `i` of place `k`. -/
def ringWrite (s : State) (k i v : Nat) : State := performWrites s (.deep (ringAddr s k i)) 64 v (stampOrdered 0) noSlot 0

/-- A flit of a slot: its header, then its payload. -/
def slotFlit (h : BitVec 512) (payload : Mem) (i : Nat) : Nat := if i = 0 then h.toNat else payload.readNat (64 * (i - 1)) 64

/-- A whole slot is written into its place. -/
def ringPut (s : State) (k : Nat) (h : BitVec 512) (payload : Mem) : State :=
  (List.range slotFlits).foldl (fun acc i => ringWrite acc k i (slotFlit h payload i)) s

/-- The flit at U is taken: the next of the slot that crosses, into its place of the ring store; none where no place is free, so that
its sender resends it (DESIGN CHOICE, log entry 83). -/
def takeFlit (s : State) (flit : BitVec 512) : Option State :=
  let r := s.ring
  if slotFlits ≤ r.flits then none
  else
    match (if r.flits = 0 then freePlace s else r.into) with
    | none => none
    | some k =>
      some ((ringWrite s k r.flits flit.toNat).modRing (fun r =>
        { r with incoming := Mem.writeNat r.incoming (64 * r.flits) 64 flit.toNat, flits := r.flits + 1, into := some k }))

/-- LINK_FLIT_RECEIVE (22 R451): in order, the flit is acknowledged and, at U, is the next of the slot that crosses; with a
CRC error it and all later ones are discarded until the replay reaches its sequence; a second replay that fails retrains the
link. A flit that is not taken, as while the ring stands still, is not acknowledged, and its sender resends it. -/
def execLinkFlitReceive (seq : BitVec 16) (crcOk : Bool) (flit : BitVec 512) (s : State) : Result :=
  let p := s.cur.port
  let l := s.ring.link p
  if !l.trained || ringStopped s then .next s
  else if !crcOk then
    let again := l.discarding && seq = l.nextRecv
    if again && decide (1 ≤ l.replayFails) then .next (retrain s p)
    else
      .next (s.modLink p (fun x => { x with discarding := true, replayFails := if again then x.replayFails + 1 else x.replayFails }))
  else if seq != l.nextRecv then .next s
  else
    let taken (t : State) : State := t.modLink p (fun x =>
      { x with nextRecv := x.nextRecv + 1, discarding := false, replayFails := 0, silentSince := s.cycle })
    match p with
    | .down => .next (taken s)
    | .up =>
      match takeFlit s flit with
      | none => .next s
      | some s1 => .next (taken s1)

/-! ### LOST headers and refills (18 R376, 22 R454, R455, 23 R463) -/

/-- The header rewritten as LOST. -/
def asLost (h : BitVec 512) : BitVec 512 := lostHeader (hDomain h) (hGen h) (hSegidx h) (hTtidx h) (hL0 h)

/-- The header of an EMPTY slot (18 R376). -/
def emptyHeader : BitVec 512 := sealHeader 1

/-- The LOST header of a plan entry, with its domain's BGEN (22 R454); an EMPTY entry stands for no segment that could be lost, and its
slot is EMPTY (DEDUCED, log entry 84). -/
def lostOfPlan (s : State) (k : Nat) : BitVec 512 :=
  let e := planEntry s k
  let d := bitsOf e 24 4
  if planEmpty s k then emptyHeader
  else lostHeader d (bgen s d) (bitsOf e 0 24) (bitsOf e 32 16) (bitsOf e 29 1 = 1)

/-- Two headers name the same segment of a domain. -/
def sameSeg (a b : BitVec 512) : Bool := hDomain a = hDomain b && hSegidx a = hSegidx b

/-- The same segment in the same generation. -/
def sameGen (a b : BitVec 512) : Bool := sameSeg a b && hGen a = hGen b

/-- The payload of a slot under a header: the bytes of `m` from `off` on. -/
def payloadFrom (m : Mem) (off : Nat) : Mem :=
  (m.filter (fun e => decide (off ≤ e.1) && decide (e.1 < off + 7339968))).map (fun e => (e.1 - off, e.2))

/-- The payload's first ELEN bytes have the header's CRC. -/
def pcrcOk (h : BitVec 512) (payload : Mem) : Bool :=
  (crc32c ((List.range (hElen h)).map payload.byte)).toNat = hPcrc h

/-- How a slot stands by its header and its PCRC (18 R375, R376, R387). -/
def slotStatus (h : BitVec 512) (payload : Mem) : SegStatus :=
  if !headerValid h then .invalid
  else
    match hKind h with
    | 0 => if pcrcOk h payload then .weights else .badCrc
    | 1 => .empty
    | _ => .lost

/-- Where host memory holds a segment of an image (22 R455). -/
def imageAddr (base : Word) (segidx : Nat) : Nat := base.toNat + 7340032 * segidx

/-- The slot of an image in host memory: header and payload. -/
def imageSlot (s : State) (base : Word) (segidx : Nat) : BitVec 512 × Mem :=
  let a := imageAddr base segidx
  (BitVec.ofNat 512 (Mem.readNat s.host a 64), payloadFrom s.host (a + 64))

/-- The image's header is valid, of KIND WEIGHTS, and names the slot's DOMAIN and SEGIDX and the generation. -/
def imageOk (h slot : BitVec 512) (gen : Nat) : Bool :=
  headerValid h && hKind h = 0 && sameSeg h slot && hGen h = gen

/-- A slot that enters as WEIGHTS ends this package's refill of it; one that enters LOST without a completed refill begins
one, in the order of arrival (23 R463). -/
def noteRefill (r : Ring) (h : BitVec 512) (st : SegStatus) : Ring :=
  match st with
  | .weights =>
    { r with refills := r.refills.filter (fun x => !sameSeg x h), refilled := r.refilled.filter (fun x => !sameSeg x.1 h) }
  | .lost => if r.refills.any (fun x => sameGen x h) then r else { r with refills := r.refills ++ [h] }
  | _ => r

/-- The refill that a LOST slot meets. -/
def refillOf (r : Ring) (h : BitVec 512) : Option (BitVec 512 × Mem) :=
  if headerValid h && hKind h = 2 then r.refilled.find? (fun x => sameGen x.1 h) else none

/-- What the ring store holds of a slot that has arrived is brought up to what will be forwarded: a refilled slot whole, or the header of
one whose PCRC fails (18 R394). -/
def settleStore (s : State) (k : Nat) (h0 : BitVec 512) (landed : BitVec 512 × Mem) (kept : BitVec 512) : State :=
  if landed.1 != h0 then ringPut s k landed.1 landed.2 else if kept != h0 then ringWrite s k 0 kept.toNat else s

/-- SEGMENT_ARRIVAL (18 R383, R394, 23 R463): ring frame r ends 512 cycles after it began, with the slot's last flit landed.
The slot stands in the ring store, and its segment goes to decode 16 cycles on. -/
def execSegmentArrival (s0 : State) : Result :=
  let r := s0.ring
  if ringStopped s0 || decide (r.flits < slotFlits) || decide (s0.cycle < r.frameStart + 512) then .next s0
  else
    let s := mendPlan s0 [r.planIndex]
    let h0 : BitVec 512 := BitVec.ofNat 512 (Mem.readNat r.incoming 0 64)
    let landed := (refillOf r h0).getD (h0, payloadFrom r.incoming 64)
    let h := landed.1
    let st := slotStatus h landed.2
    let kept := if st = .badCrc then asLost h else h
    let k := r.into.getD 0
    let r1 := noteRefill r h st
    let plan := planOf s h0
    let slot : RingSlot := { plan := plan, place := k, frame := r.frameNo, header := kept, payload := landed.2 }
    let seg : Seg :=
      { frame := r.frameNo, header := h, payload := landed.2, status := st, decodeAt := s.cycle + 16, begun := false,
        buf := none, waiting := false, codes := [] }
    .next { settleStore s k h0 landed kept with
      lastHeader := h
      anyHeader := true
      segs := s.segs ++ [seg]
      ring := { r1 with
        store := r1.store ++ [slot], incoming := [], flits := 0, into := none, planIndex := planNext s plan,
        frameNo := r.frameNo + 1, frameStart := s.cycle } }

/-- A slot of the ring store takes another header and payload, in its place too. -/
def rewriteSlot (s : State) (x : RingSlot) (h : BitVec 512) (payload : Mem) : State :=
  (ringPut s x.place h payload).modRing (fun r =>
    { r with store := r.store.map (fun y => if y.place = x.place then { y with header := h, payload := payload } else y) })

/-- The LOST slots of a segment that stand whole in the ring store: one that has begun to leave leaves as LOST (22 R455). -/
def lostSlots (s : State) (h : BitVec 512) : List RingSlot :=
  (if s.ring.down.sent = 0 then s.ring.store else s.ring.store.drop 1).filter (fun x => hKind x.header = 2 && sameGen x.header h)

/-- REFILL_COMPLETE (22 R455, 23 R463): the refill under way has read its slot from the host at CURSRC; the LOST slot is overwritten in
place. The refill area has no address in the spec: the model keeps what is in it beside the deep store (DESIGN CHOICE, log entry 94). -/
def execRefillComplete (s : State) : Result :=
  match s.ring.refills with
  | [] => .next s
  | lost :: rest =>
    let d := hDomain lost
    let img := imageSlot s (s.domWord d 8) (hSegidx lost)
    if imageOk img.1 lost (hGen lost) then
      .next (((lostSlots s img.1).foldl (fun acc x => rewriteSlot acc x img.1 img.2) s).modRing (fun r =>
        { r with refills := rest, refilled := r.refilled.filter (fun x => !sameSeg x.1 img.1) ++ [img] }))
    else .next ((s.modRing (fun r => { r with refills := rest })).raiseEvent 1)

/-- The flits that a port may have sent and not seen acknowledged: 64 KiB (22 R451). -/
def replayFlits : Nat := 1024

/-- The neighbour has acknowledged `got` of the oldest slot's flits; the port sends on, as far as its replay buffer lets it. -/
def Link.sendOn (l : Link) (got : Nat) : Link :=
  let upTo := Nat.max l.sent (Nat.min slotFlits (got + replayFlits))
  { l with acked := got, sent := upTo, nextSend := l.nextSend + BitVec.ofNat 16 (upTo - l.sent) }

/-- RING_SLOT_FORWARD (18 R394, 22 R451): after its dwell the oldest slot of the ring store crosses to D, as it stands there, and
leaves the store once its last flit is acknowledged; the flits still to be acknowledged are a timing choice (log entry 2). -/
def execRingSlotForward (s : State) : Result :=
  match s.ring.store with
  | [] => .next s
  | x :: rest =>
    if ringStopped s || !s.ring.down.trained then .next s
    else
      let (d, s1) := takeDelay s
      let l := s1.ring.down.sendOn (Nat.max s1.ring.down.acked (slotFlits - d))
      .next (s1.modRing (fun r =>
        if l.acked = slotFlits then
          { r with store := rest, sent := x.header, sentPlan := x.plan, down := { l with sent := 0, acked := 0 } }
        else { r with down := l }))

/-! ### Failures and grafts (22 R452 to R456) -/

/-- GRAFT[1] shows a latched graft: of the failed package itself, or across a failed neighbour (22 R440, 23). -/
def setGraft (s : State) (on : Bool) : State :=
  s.setMreg 0x88 (if on then s.mreg 0x88 ||| 2#64 else s.mreg 0x88 &&& ~~~2#64)

/-- A package is declared failed: every package raises EVENTS[3]; the failed package's own grafts latch, and its neighbours retrain across
it, with the ring paused meanwhile, here as elsewhere. -/
def declareFailed (s : State) (pos : Nat) : State :=
  let up := neighbour s .up
  let down := neighbour s .down
  let s1 := (s.modRing (fun r => { r with failed := if r.failed.contains pos then r.failed else r.failed ++ [pos] })).raiseEvent 3
  if pos = s.ringPos then
    setGraft (s1.modRing (fun r => { r with latched := true, former := s.mreg 0x80, paused := true })) true
  else
    let across (acc : State) (p : Port) : State :=
      setGraft ((retrain acc p).modLink p (fun l => { l with retrainedOver := true, untrainedSince := s.cycle })) true
    let s2 := if up = pos then across s1 .up else s1
    let s3 := if down = pos then across s2 .down else s2
    if up = pos || down = pos then s3
    else s3.modRing (fun r => { r with away := if r.away.contains pos then r.away else r.away ++ [pos] })

/-- GRAFT_DECLARE: supervisor software at the context's position declares that package failed (22 R453). -/
def execGraftDeclare (s : State) : Result := .next (declareFailed s s.cur.pos.toNat)

/-- PACKAGE_POWER_LOSS of the package at the context's position (22 R453); this package itself takes no further step until it is
powered again. -/
def execPackagePowerLoss (s : State) : Result :=
  let s1 := declareFailed s s.cur.pos.toNat
  if s.cur.pos.toNat = s.ringPos then .next { s1 with powered := false, agenda := [] } else .next s1

/-- The cycles of a millisecond, of a second and of 0.2 s at 1.1 GHz (01 R13). -/
def cyclesPerMs : Nat := 1100000
def cyclesPerSecond : Nat := 1100000000
def trainLimit : Nat := 220000000

/-- HEARTBEAT_SEND (22 R453): every 1 ms; with the position of a neighbour, its heartbeat has come. -/
def execHeartbeatSend (s : State) : Result :=
  let pos := s.cur.pos.toNat
  if pos = s.ringPos then
    if s.cycle < s.ring.heartbeat + cyclesPerMs then .next s
    else .next (s.modRing (fun r => { r with heartbeat := s.cycle }))
  else
    let heard (acc : State) (p : Port) : State :=
      if neighbour s p = pos then acc.modLink p (fun l => { l with silentSince := s.cycle }) else acc
    .next (heard (heard s .up) .down)

/-- A link has been silent, or untrained, for 1 s. -/
def Link.dead (l : Link) (now : Nat) : Bool :=
  decide (l.silentSince + cyclesPerSecond ≤ now) || (!l.trained && decide (l.untrainedSince + cyclesPerSecond ≤ now))

/-- The neighbour at a port has been silent, or its link untrained, for 1 s: one that is in the ring beside this package, which counts it
while its own grafts are not latched. -/
def silentNeighbour (s : State) (p : Port) : Bool :=
  (s.ring.link p).dead s.cycle && neighbour s p != s.ringPos && !s.ring.latched && s.ring.releasing.isNone

/-- HEARTBEAT_TIMEOUT: the link of the context's port has been untrained or silent for 1 s, and the neighbour there is declared
failed (22 R453). -/
def execHeartbeatTimeout (s : State) : Result :=
  let p := s.cur.port
  if !silentNeighbour s p then .next s
  else
    let s1 := declareFailed s (neighbour s p)
    .next (s1.modLink p (fun l => { l with silentSince := s.cycle, untrainedSince := s.cycle }))

/-- This package's ring links reach the package at a position once it is a stage again. -/
def nextTo (s : State) (pos : Nat) : Bool :=
  let n := Nat.max 1 s.ringLen
  (s.ringPos + 1) % n = pos || (pos + 1) % n = s.ringPos

/-- The release may begin: at this package at PSTAT 4, with RING as it stood at the declaration and frame mode off in every domain; at
another the join request of the failed package has come. -/
def releaseOk (s : State) (pos : Nat) : Bool :=
  let r := s.ring
  r.releasing.isNone &&
    (if pos = s.ringPos then
      bitsOf (s.mreg 0) 0 4 = 4 && r.latched && s.mreg 0x80 = r.former && (List.range 16).all (fun d => !s.frameMode d)
    else r.failed.contains pos)

/-- The links of this package that train for a release: its own two, or the one that faces the package (22 R456). -/
def releaseLinks (s : State) (pos : Nat) (r : Ring) : Ring :=
  let n := Nat.max 1 s.ringLen
  let start (l : Link) : Link := { l with trained := false, untrainedSince := s.cycle }
  let mine := pos = s.ringPos
  { r with up := if mine || (pos + 1) % n = s.ringPos then start r.up else r.up,
           down := if mine || (s.ringPos + 1) % n = pos then start r.down else r.down }

/-- The release of the grafted package at a position (22 R456): the ring pauses, the grafts unlatch and GRAFT[1] reads 0, and the links
begin to train. GRAFT[2] stays set until the release has ended (DESIGN CHOICE, log entry 85). -/
def graftRelease (s : State) (pos : Nat) : State :=
  if !releaseOk s pos then s
  else
    let s1 := s.modRing (fun x => releaseLinks s pos { x with releasing := some (pos, s.cycle), paused := true })
    if pos = s.ringPos then
      (setGraft (s1.modRing (fun x => { x with latched := false })) false).setMreg 0x88 ((s.mreg 0x88 ||| 4#64) &&& ~~~2#64)
    else if nextTo s pos then setGraft s1 false
    else s1

/-- GRAFT_RELEASE of the package at the context's position (22 R456). -/
def execGraftRelease (s : State) : Result := .next (graftRelease s s.cur.pos.toNat)

/-- GRAFT_TRAIN_TIMEOUT (22 R456): the links have not trained within 0.2 s; the grafts latch again and rotation resumes as it
stood, with EVENTS[3]. -/
def execGraftTrainTimeout (s : State) : Result :=
  match s.ring.releasing with
  | none => .next s
  | some (pos, c0) =>
    if s.cycle < c0 + trainLimit then .next s
    else
      let mine := pos = s.ringPos
      let back (l : Link) : Link := if mine then l else { l with trained := true, silentSince := s.cycle }
      let s1 := s.modRing (fun r =>
        { r with releasing := none, paused := mine, latched := r.latched || mine, up := back r.up, down := back r.down })
      let s2 := if mine || nextTo s pos then setGraft s1 true else s1
      .next ((s2.setMreg 0x88 (s2.mreg 0x88 &&& ~~~4#64)).raiseEvent 3)

/-- The links of a release have trained (22 R456, step 4): the package is a stage of the ring again, its ring store filling only from
now on, and GRAFT[0] and GRAFT[2] read 0 there (DESIGN CHOICE, log entry 85); every package raises EVENTS[0]. -/
def joinRing (s : State) (pos : Nat) : State :=
  let link (l : Link) : Link := { l with trained := true, retrainedOver := false, silentSince := s.cycle }
  let s1 := s.modRing (fun r =>
    { r with releasing := none, paused := false, failed := r.failed.filter (fun p => p != pos), up := link r.up, down := link r.down })
  let s2 :=
    if pos = s.ringPos then
      (s1.modRing (fun r =>
        { r with store := [], incoming := [], flits := 0, into := none, down := { r.down with sent := 0, acked := 0 } })).setMreg 0x88
        (s1.mreg 0x88 &&& ~~~5#64)
    else s1
  s2.raiseEvent 0

/-- The plan indices of the last `n` slots up to `k`, oldest first. -/
def lastPlans (s : State) (k n : Nat) : List Nat :=
  let len := Nat.max 1 (planLen s)
  (List.range n).map (fun i => (k + len * n + 1 + i - n) % len)

/-- Across a failed package D's link resumes with one LOST slot for every plan index that the failed package acknowledged and did not
pass on (22 R454); the neighbour's report gives their number. -/
def emitLost (s : State) : State :=
  if s.ring.down.retrainedOver then
    let r := takeDelay s
    let plans := lastPlans r.2 r.2.ring.sentPlan r.1
    let s1 := mendPlan r.2 plans
    let l := plans.map (lostOfPlan s1)
    s1.modRing (fun x =>
      { x with lost := l, sent := l.getLast?.getD x.sent,
               down := { x.down with retrainedOver := false, sent := 0, acked := 0,
                                     nextSend := x.down.nextSend + BitVec.ofNat 16 (slotFlits * l.length) } })
  else s

/-- Across a failed package U's link resumes with the report of the last slot that it brought; of the slot that crossed nothing is kept,
since it is resent whole (22 R454). -/
def takeOver (s : State) : State :=
  if s.ring.up.retrainedOver then
    s.modRing (fun r =>
      { r with report := if s.anyHeader then some (planBefore s r.planIndex) else none, incoming := [], flits := 0, into := none,
               up := { r.up with retrainedOver := false } })
  else s

/-- The replay resends from the first flit that is not acknowledged (22 R451, R452). -/
def Link.replayed (l : Link) : Link := { l with nextSend := l.nextSend - BitVec.ofNat 16 (l.sent - l.acked), sent := l.acked }

/-- The positions whose retraining still pauses the ring once that at `pos` has ended, which ends it across a failed neighbour too. -/
def stillAway (s : State) (pos : Nat) : List Nat :=
  s.ring.away.filter (fun a =>
    a != pos && !(s.ring.failed.contains a && (neighbourFrom s .up a 256 = pos || neighbourFrom s .down a 256 = pos)))

/-- This package's port has trained: the replay resends from the first unacknowledged flit, and rotation resumes once both links are
trained (22 R452, R454). -/
def portTrained (s : State) (p : Port) : State :=
  let s1 := s.modLink p (fun l =>
    { l.replayed with trained := true, discarding := false, replayFails := 0, silentSince := s.cycle })
  let s2 :=
    match p with
    | .down => emitLost s1
    | .up => takeOver s1
  s2.modRing (fun r => { r with paused := !(r.up.trained && r.down.trained) || r.latched || r.releasing.isSome })

/-- RETRAIN_COMPLETE of the context's port (22 R452, R454, R456); with another package's position, that package's pause ends. A release
ends where both links of its package have trained in time: there by its own two ports, elsewhere by its report. -/
def execRetrainComplete (s : State) : Result :=
  let pos := s.cur.pos.toNat
  let inTime (c0 : Nat) : Bool := decide (s.cycle < c0 + trainLimit)
  if pos = s.ringPos then
    let s1 := portTrained s s.cur.port
    match s.ring.releasing with
    | some (k, c0) => .next (if k = pos && inTime c0 && s1.ring.up.trained && s1.ring.down.trained then joinRing s1 k else s1)
    | none => .next s1
  else
    let s1 := s.modRing (fun r => { r with away := stillAway s pos })
    match s.ring.releasing with
    | some (k, c0) => .next (if k = pos && inTime c0 then joinRing s1 k else s1)
    | none => .next s1

/-! ### Accesses of other packages (13 R278, 14 R302) -/

/-- A write by another package is performed at the home: it carries no stamp, and the line keeps its own. -/
def remoteWrite (s : State) (p : Place) (n v : Nat) : State := wakeWriters (writeRaw s p n v (metaAt s p) noSlot 0) p

/-- TIER_1_REMOTE_ACCESS: a load, a store or an atomic of another package at this owner's home. An atomic finds the writes before it that
a full undo log stalls, which go on before any other to their line (20 R432). -/
def execTier1RemoteAccess (acc : RemoteAccess) (s : State) : Result :=
  let n := 2 ^ acc.w.toNat
  let a := acc.pa.toNat / n * n
  let p := Place.deep a
  match acc.kind.toNat with
  | 0 => .next (eccUnit s p noSlot 0).1
  | 1 => .next (remoteWrite s p n (acc.data.toNat % 2 ^ (8 * n)))
  | _ =>
    match eccUnit s p noSlot 0 with
    | (s1, false) => .next s1
    | (s1, true) =>
      let x := recGet s1 a 0 n
      let b := acc.data.toNat % 2 ^ (8 * n)
      let fn := acc.fn.toNat
      if fn = 12 then
        if x = b then .next (remoteWrite s1 p n (acc.data2.toNat % 2 ^ (8 * n))) else .next s1
      else .next (remoteWrite s1 p n (atomicNew fn (8 * n) x b))

/-! ### Generation swap (22 R457) -/

/-- The SWAP register shows DOMAIN, PAUSED, PEND, GO while the swap it started is pending, and RESUME from its write to the next GO
(DESIGN CHOICE, log entry 85). -/
def showSwap (s : State) : State :=
  s.setMreg 0xC0 (BitVec.ofNat 64 (s.swap.dom * 256 + (if s.swap.resume then 8 else 0) + (if s.swap.paused then 4 else 0) +
    (if s.swap.pend then 3 else 0)))

/-- The domain's GENSRC word as it stands in DOM. -/
def gensrc (s : State) (d : Nat) : Word := s.domWord d 9

/-- SWAP_GO: PEND is set, with GENSRC as it stands now (step 1; a later write of it counts only at RESUME). -/
def execSwapGo (s : State) : Result :=
  if s.swap.pend then .next s
  else .next (showSwap { s with swap := { s.swap with pend := true, source := gensrc s s.swap.dom, since := s.ring.frameNo, resume := false } })

/-- A resident WEIGHTS slot of the domain is replaced from the new image, or stays with EVENTS[1] (step 4). -/
def swapSlots (s : State) : State :=
  s.ring.store.foldl
    (fun acc x =>
      if hKind x.header = 0 && hDomain x.header = s.swap.dom && headerValid x.header then
        let base : Word := BitVec.ofNat 64 (bitsOf s.swap.source 0 48)
        let img := imageSlot s base (hSegidx x.header)
        if imageOk img.1 x.header (bitsOf s.swap.source 48 16) then rewriteSlot acc x img.1 img.2
        else acc.raiseEvent 1
      else acc)
    s

/-- SWAP_PAUSE (steps 3 and 4): position 0 pauses the ring once every package has seen L ring frames since its PEND; at another
position the pause arrives from there. -/
def execSwapPause (s : State) : Result :=
  let w := s.swap
  if !w.pend || w.paused || (s.ringPos = 0 && decide (s.ring.frameNo < w.since + planLen s)) then .next s
  else
    let s1 := (showSwap { s with swap := { w with paused := true } }).raiseEvent 2
    .next (swapSlots s1)

/-- SWAP_RESUME (step 5): CURSRC takes GENSRC, the swap is over and rotation resumes. -/
def execSwapResume (s : State) : Result :=
  if !s.swap.pend then .next (showSwap { s with swap := { s.swap with resume := true } })
  else
    let d := s.swap.dom
    let s1 := s.setMreg (0x840 + 128 * d) (BitVec.ofNat 64 (bitsOf (gensrc s d) 0 48))
    .next (showSwap { s1 with swap := { s1.swap with pend := false, paused := false, resume := true } })

end Sys2Proof.Machine
end

