-- ==== Sys2Proof/Machine/Host.lean ====
section
/-! DEFINITION. Reset and firmware (02 R40, 22 R443, R444), the die dispatchers and launches (22 R445 to R449), the management window's
writes (22 R440 to R442), a page walk as a step (13 R276). -/

namespace Sys2Proof.Machine

/-! ### PSTAT (22 R440) -/

def bootState (s : State) : Nat := bitsOf (s.mreg 0) 0 4

/-- PSTAT with a boot state, the leader die and the live dies. -/
def setPstat (s : State) (v : Nat) : State :=
  s.setMreg 0 (BitVec.ofNat 64 (v + (if v = 4 then s.dispatch.leader.getD 0 * 16 + s.dispatch.liveDies.toNat * 256 else 0)))

/-! ### Power-up reset (02 R40) -/

/-- The ring after a power cycle: a latched graft stays latched until its release (22 R456; DEDUCED). -/
def resetRing (r : Ring) : Ring := if r.latched then { failed := r.failed, latched := true, former := r.former, paused := true } else {}

/-- POWER_UP_RESET: everything of the package as after reset; its host, its neighbours and the inputs to come are not of it. -/
def execPowerUpReset (s : State) : Result :=
  let r : State :=
    { State.reset with
      inputs := s.inputs.map (fun e => (e.1 - s.cycle, e.2)), delays := s.delays, freeCount := s.freeCount, host := s.host,
      remote := s.remote, rom := s.rom, ring := resetRing s.ring,
      strikes := s.strikes.map (fun e => { e with cycle := e.cycle - s.cycle }) }
  .next (if s.ring.latched then r.setMreg 0x88 2 else r)

/-! ### Firmware (22 R443) -/

/-- The image's address and length. -/
def fwAddr (s : State) : Nat := (s.mreg 0x8).toNat
def fwLen (s : State) : Nat := (s.mreg 0x10).toNat

/-- FWLEN is a multiple of 64 from 256 to 64 MiB. -/
def fwLenOk (n : Nat) : Bool := n % 64 = 0 && decide (256 ≤ n) && decide (n ≤ 67108864)

/-- The ROM copies the image to physical address 0 of die 0: hardware writes, each line first in the undo log (20 R432). -/
def copyImage (s : State) : State :=
  (List.range (fwLen s / 8)).foldl
    (fun acc i => performWrite acc (.deep (8 * i)) 8 (Mem.readNat s.host (fwAddr s + 8 * i) 8) (stampOrdered 0) noSlot 0) s

/-- Bytes of the deep store. -/
def deepBytes (s : State) (a n : Nat) : List Byte := (List.range n).map (fun i => s.deep.byte (a + i))

/-- The image's hash, over bytes 0 to FWLEN − 97. -/
def imageHash (s : State) : BitVec 384 := sha384 (deepBytes s 0 (fwLen s - 96))

/-- Both conditions of acceptance. -/
def imageAccepted (s : State) : Bool :=
  fwLenOk (fwLen s) && sha384 (deepBytes s 0 96) == Config.fusedKeyHash &&
    ecdsaVerifies (BitVec.ofNat 768 (bigEndian (deepBytes s 0 96))) (imageHash s)
      (BitVec.ofNat 768 (bigEndian (deepBytes s (fwLen s - 96) 96)))

/-- A leaf of 32 MiB, supervisor and executable, and a pointer (13 R275). -/
def romLeaf (pa : Nat) : Nat := 2 ^ 63 + 2 ^ 62 + pa + 2 ^ 7 + 2 ^ 5
def romPointer (pa : Nat) : Nat := 2 ^ 63 + pa

/-- The image is mapped at virtual address 0 of domain 0, by tables above the largest image (DESIGN CHOICE, log entry 31). -/
def mapImage (s : State) : State :=
  let root := 67108864
  let mid := 67633152
  let s1 := hwWrite s (.deep root) 8 (romPointer mid) 0
  let s2 := hwWrite s1 (.deep mid) 8 (romLeaf 0) 0
  let s3 := if 33554432 < fwLen s then hwWrite s2 (.deep (mid + 8)) 8 (romLeaf 33554432) 0 else s2
  s3.setMreg 0x800 (BitVec.ofNat 64 root)

/-- The scope roots, which firmware makes live (12 R259; DESIGN CHOICE, log entry 32: when it starts). -/
def liveRoots (s : State) : State :=
  (List.range 16).foldl (fun acc d => acc.setScope d { state := scLive, parent := d, depth := 1, dom := d }) s

/-- The ROM jumps to ENTRY:1. -/
def enterFirmware (s : State) : State :=
  if (s.slot 0).strand = some bootStrand then
    s.modRole 0 .computer (fun c =>
      { c with pc := codeAddr (Mem.readNat s.deep 96 4) 1, nextIssue := Nat.max c.nextIssue (s.cycle + 1), reason := 0 })
  else s

/-- FWGO reads 1 while the download runs, and once written where firmware is in place (DESIGN CHOICE, log entry 85). -/
def showFwgo (s : State) (b : Bool) : State := s.setMreg 0x18 (if b then 1 else 0)

/-- FW_DOWNLOAD: FWGO starts the copy while no firmware is in place (PSTAT 1), and the next such step checks the image: PSTAT 2, or 3. A
length outside the limits is a refusal (DESIGN CHOICE, log entry 33). With firmware in place, PSTAT 2 or 4, it starts nothing, and the bit
stays set (DESIGN CHOICE, log entry 85). -/
def fwDownload (s : State) : State :=
  let start : State := if fwLenOk (fwLen s) then showFwgo (setPstat (copyImage s) 1) true else setPstat s 3
  match bootState s with
  | 0 => start
  | 3 => start
  | 1 =>
    let s1 := showFwgo s false
    if imageAccepted s1 then enterFirmware (setPstat (liveRoots (mapImage { s1 with measurement := imageHash s1 })) 2)
    else setPstat s1 3
  | _ => showFwgo s true

def execFwDownload (s : State) : Result := .next (fwDownload s)

/-- The attestation report at deep-store address A (22 R444). -/
def attest (s : State) (a : Nat) : State :=
  let p (off : Nat) : Place := .deep ((a + off) % 2 ^ 34)
  let put (acc : State) (off n v : Nat) : State :=
    (List.range n).foldl (fun t i => performWrite t (p (off + i)) 1 (v / 256 ^ (n - 1 - i) % 256) (stampOrdered 0) noSlot 0) acc
  let s1 := put s 64 48 s.measurement.toNat
  let sig := identitySign (sha384 ((List.range 112).map (fun i => s1.deep.byte ((a + i) % 2 ^ 34))))
  (put s1 112 96 sig.toNat).setMreg 0x180 0

/-- ATTEST_REQUEST (22 R444). -/
def execAttestRequest (addr : BitVec 64) (s : State) : Result := .next (attest s addr.toNat)

/-! ### Die dispatchers (22 R445, R446) -/

def dieLive (s : State) (d : Nat) : Bool := s.dispatch.liveDies.getLsbD d

/-- The next live die above one, in cyclic order. -/
def dieAbove (s : State) (d : Nat) : Option Nat := ([1, 2, 3].map (fun i => (d + i) % 4)).find? (dieLive s)

/-- The lowest live die leads, and mirrors on the next live one. -/
def elect (s : State) : State :=
  let l := (List.range 4).find? (dieLive s)
  let s1 := { s with dispatch := { s.dispatch with leader := l, mirrorDie := l.bind (dieAbove s) } }
  setPstat s1 (bootState s1)

/-- DISPATCHER_ELECTION, at PSTAT 4. -/
def execDispatcherElection (s : State) : Result := if bootState s = 4 then .next (elect s) else .next s

/-- A cluster's load. -/
def clusterLoad (s : State) (c : Nat) : Nat :=
  (s.cluster c).ready.length + (s.cluster c).spill.length +
    ((List.range 16).filter (fun j => (s.slot (16 * c + j)).strand.isSome)).length

/-- The least-loaded cluster of a die, the lowest-numbered among equals, never one whose cores are all withdrawn. -/
def leastLoaded (s : State) (die : Nat) : Option Nat :=
  (((List.range 4).map (fun j => 4 * die + j)).filter
    (fun c => (List.range 4).any (fun k => !(s.core (4 * c + k)).withdraw))).foldl
    (fun best c =>
      match best with
      | none => some c
      | some b => if clusterLoad s c < clusterLoad s b then some c else some b)
    none

/-- A launch is changed. -/
def modLaunch (s : State) (id : Nat) (f : Launch → Launch) : State :=
  { s with launches := s.launches.map (fun l => if l.id = id then f l else l) }

/-- The die `from'`, or the next above it in cyclic order, that is live and has a cluster that may be chosen, with that cluster. -/
def chooseDie (s : State) (from' : Nat) : Option (Nat × Nat) :=
  ((List.range 4).map (fun i => (from' + i) % 4)).findSome? (fun d =>
    if dieLive s d then (leastLoaded s d).map (fun c => (d, c)) else none)

/-- The die a batch goes to is the context's, where it can be; which die gets a batch is not stated (DESIGN CHOICE, log entry 36). -/
def grantDie (s : State) : Option (Nat × Nat) := chooseDie s (dieOf s.me)

/-- The launch spawns its indices: its record was well formed and its copies succeeded. -/
def Launch.spawns (l : Launch) : Bool := l.status != 1 && l.status != 2

/-- INDEX_GRANT: the next batch of at most 64 indices of the first launch that has some left; it is in the mirror before it is
issued. -/
def execIndexGrant (s : State) : Result :=
  match s.dispatch.leader, s.launches.find? (fun l => l.spawns && decide (l.next < l.nidx)) with
  | some _, some l =>
    match grantDie s with
    | none => .next s
    | some (die, c) =>
      let n := Nat.min 64 (l.nidx - l.next)
      let g : Grant := { launch := l.id, first := l.next, count := n, done := 0, die := die, cluster := c, acked := false, retryAt := s.cycle }
      .next (modLaunch { s with dispatch := { s.dispatch with mirror := s.dispatch.mirror ++ [g] } } l.id
        (fun x => { x with next := x.next + n }))
  | _, _ => .next s

/-- The slots and clusters of a failed die hold nothing any more and take no strand. -/
def emptyDie (s : State) (d : Nat) : State :=
  let s1 := (List.range 64).foldl (fun acc j => acc.setSlot (64 * d + j) { halted := true }) s
  (List.range 4).foldl
    (fun acc j => acc.modCluster (4 * d + j) (fun c => { c with ready := [], spill := [], resume := [], kept := [] })) s1

/-- A queue, a list or a table of the cluster holds a record. -/
def Cluster.holdsRec (c : Cluster) (pa : Nat) : Bool :=
  (c.ready ++ c.spill ++ c.resume ++ c.kept.map (·.entry)).any (fun e => e.ref.pa = pa) ||
    (c.wait ++ c.overflow).any (fun e => e.ref.pa = pa) || c.monitors.any (fun m => m.1.pa = pa) ||
    c.poll.any (fun m => m.1.pa = pa) || c.frameWait.any (fun m => m.1.pa = pa)

/-- The die on which a record stands now: JOIN and SPAWN move one to the issuer's cluster (11 R232, R233); `none` for one that waits to be
joined. -/
def dieHolding (s : State) (pa : Nat) : Option Nat :=
  match s.slots.find? (fun e => e.2.strand.any (fun t => t.ref.pa = pa)) with
  | some e => some (dieOf e.1)
  | none =>
    match s.clusters.find? (fun e => e.2.holdsRec pa) with
    | some e => some (e.1 / 4)
    | none => (s.phWait.find? (fun w => w.1.pa = pa)).map (fun w => w.2.1 / 4)

/-- The indices whose strands ran on a failed die are lost, and so are those it acknowledged and had not placed. A record that stands
nowhere counts with the die of its grant. -/
def loseIndices (s : State) (d : Nat) : State :=
  let there (r : Nat × Nat) : Bool := (dieHolding s r.1).getD r.2 = d
  { s with launches := s.launches.map (fun l =>
      let ran := (l.records.filter there).length
      let left : Nat := (s.dispatch.mirror.filter (fun g => g.launch = l.id && g.die = d && g.acked)).foldl
        (fun (n : Nat) g => n + (g.count - g.done)) 0
      if ran + left = 0 then l
      else
        { l with records := l.records.filter (fun r => !there r), lost := l.lost + ran + left,
                 status := if l.status = 0 then 3 else l.status }) }

/-- Where a batch that is granted again goes: to the leader's die, or the next that has a cluster to be chosen. -/
def regrantTo (s : State) : Option (Nat × Nat) := chooseDie s (s.dispatch.leader.getD 0)

/-- Batches without an acknowledgement from a failed die are granted again; where no cluster may be chosen, once one may. -/
def regrant (s : State) (d : Nat) : State :=
  let next := regrantTo s
  { s with dispatch := { s.dispatch with
      mirror := (s.dispatch.mirror.filter (fun g => !(g.die = d && g.acked))).map
        (fun g =>
          if g.acked then g
          else
            match (if g.die = d then next else none) with
            | some (die, c) => { g with die := die, cluster := c, retryAt := s.cycle }
            | none => { g with retryAt := s.cycle }) } }

/-- A die fails. -/
def dieFails (s : State) (d : Nat) : State :=
  let s1 := loseIndices s d
  let s2 := emptyDie { s1 with dispatch := { s1.dispatch with liveDies := s1.dispatch.liveDies &&& ~~~(1#4 <<< d) } } d
  regrant (elect s2) d

/-- LEADER_FAILOVER: the leader's die fails; the lowest live die leads, with the counters and the batches of the mirror. -/
def execLeaderFailover (s : State) : Result :=
  match s.dispatch.leader with
  | some d => .next (dieFails s d)
  | none => .next s

/-- MIRROR_DIE_FAILURE: a die that does not lead fails, the context's, or where that is none such, the mirror's; the leader mirrors onto
the next live die. -/
def execMirrorDieFailure (s : State) : Result :=
  let mine := dieOf s.me
  match (if dieLive s mine && s.dispatch.leader != some mine then some mine else s.dispatch.mirrorDie) with
  | some d => .next (dieFails s d)
  | none => .next s

/-! ### Launches (22 R447, R448) -/

/-- Where the device's access leads in a domain, as the privilege of the launch's pool allows (DESIGN CHOICE, log entry 34): no window. -/
def devicePlace (s : State) (dom va : Nat) (k : AccKind) (sup : Bool) : State × Option Place :=
  match hwPlace s dom va k sup with
  | (s1, some (.window _, _)) => hwFail s1 dom va 12
  | (s1, some (p, _)) => (s1, some p)
  | (s1, none) => (s1, none)

/-- Copy `n` bytes of the host to a domain's memory; whether it succeeded. -/
def copyIn (s : State) (dom : Nat) (sup : Bool) (src dst n : Nat) : State × Bool :=
  (List.range n).foldl
    (fun acc i =>
      if acc.2 then
        match devicePlace acc.1 dom (dst + i) .write sup with
        | (s1, some p) => (performWrite s1 p 1 (s1.host.byte (src + i)).toNat (stampOrdered 0) noSlot dom, true)
        | (s1, none) => (s1, false)
      else acc)
    (s, true)

/-- The copies of a copy control block, in order, up to 64 or a zero length. -/
def copyBlock (s : State) (dom : Nat) (sup : Bool) (ccb fuel : Nat) : State × Bool :=
  match fuel with
  | 0 => (s, true)
  | k + 1 =>
    let n := Mem.readNat s.host (ccb + 16) 8
    if n = 0 then (s, true)
    else
      match copyIn s dom sup (Mem.readNat s.host ccb 8) (Mem.readNat s.host (ccb + 8) 8) n with
      | (s1, true) => copyBlock s1 dom sup (ccb + 24) k
      | r => r

/-- A launch record (22 R447), as its 64 bytes. -/
structure LaunchRec where
  raw : BitVec 512
deriving DecidableEq, Repr

/-- `n` bytes of a launch record from byte `off`. -/
def LaunchRec.field (r : LaunchRec) (off n : Nat) : Nat := (r.raw.extractLsb' (8 * off) (8 * n)).toNat

/-- The pool's base and length that a launch needs (22 R448). -/
def poolBase (s : State) (dom : Nat) (sup : Bool) : Nat := (s.domWord dom (if sup then 14 else 13)).toNat
def poolLen (s : State) (dom : Nat) : Nat := (s.domWord dom 15).toNat

/-- The record's own fields are well formed, and its pool exists. -/
def launchFieldsOk (s : State) (r : LaunchRec) : Bool :=
  let dom := r.field 12 1
  let flags := r.field 13 1
  r.field 14 2 = 0 && r.field 44 4 = 0 && decide (dom < 16) && decide (flags < 4) && r.field 8 4 != 0 && r.field 40 4 % 8 = 0 &&
    decide (r.field 40 4 ≤ 1048576) && (flags % 2 = 1 || r.field 16 8 = 0) && r.field 0 8 % 64 = 0 &&
    poolBase s dom (flags / 2 = 1) != 0 && poolLen s dom != 0

/-- The template, from a readable page of the local deep store, with a valid STATE and a CPTR. -/
def readTemplate (s : State) (dom tmpl : Nat) (sup : Bool) : State × Option (BitVec 512) :=
  match devicePlace s dom tmpl .read sup with
  | (s1, some (.deep pa)) =>
    match readUnits s1 (.deep pa) 64 noSlot dom with
    | (s2, some v) => (s2, if v / 2 ^ 120 % 16 < 8 && v / 2 ^ 32 % 2 ^ 32 != 0 then some (BitVec.ofNat 512 v) else none)
    | (s2, none) => (s2, none)
  | (s1, some _) => hwFail s1 dom tmpl 12
  | (s1, none) => (s1, none)

/-- The launch of a record, with a status. -/
def launchOf (r : LaunchRec) (id : Nat) (template : BitVec 512) (status : Nat) : Launch :=
  { id := id, template := template, nidx := r.field 8 4, dom := r.field 12 1 % 16, sup := r.field 13 1 / 2 % 2 = 1, compl := r.field 24 8,
    cookie := BitVec.ofNat 64 (r.field 56 8), next := 0, status := status, lost := 0, records := [] }

/-- LQHEAD advances, mod 2^32. -/
def advanceHead (s : State) : State := s.setMreg 0x58 (BitVec.ofNat 64 (((s.mreg 0x58).toNat + 1) % 2 ^ 32))

/-- The copies of a launch record, in order; whether they succeeded. -/
def launchCopies (s : State) (r : LaunchRec) (dom : Nat) (sup : Bool) : State × Bool :=
  match copyIn s dom sup (r.field 32 8) (r.field 48 8) (r.field 40 4) with
  | (s1, false) => (s1, false)
  | (s1, true) => if r.field 13 1 % 2 = 1 then copyBlock s1 dom sup (r.field 16 8) 64 else (s1, true)

/-- The record at the queue's head is read and checked, and its copies made; what its indices are copied from is the template as it stands
after these (22 R447). -/
def readLaunch (s : State) : State :=
  let head := (s.mreg 0x58).toNat
  let a := (s.mreg 0x40).toNat + 64 * (head % (s.mreg 0x48).toNat)
  let r : LaunchRec := ⟨BitVec.ofNat 512 (Mem.readNat s.host a 64)⟩
  let (id, s0) := takeSeq s
  let done (s : State) (t : BitVec 512) (status : Nat) : State :=
    advanceHead { s with launches := s.launches ++ [launchOf r id t status] }
  if !launchFieldsOk s0 r then done s0 0 1
  else
    let dom := r.field 12 1
    let sup := r.field 13 1 / 2 = 1
    match readTemplate s0 dom (r.field 0 8) sup with
    | (s1, none) => done s1 0 1
    | (s1, some _) =>
      match launchCopies s1 r dom sup with
      | (s2, false) => done s2 0 2
      | (s2, true) =>
        match readTemplate s2 dom (r.field 0 8) sup with
        | (s3, some t) => done s3 t 0
        | (s3, none) => done s3 0 1

/-- LAUNCH_RECORD_READ: while LQHEAD ≠ LQTAIL, once a leader is elected. -/
def execLaunchRecordRead (s : State) : Result :=
  if s.mreg 0x58 != s.mreg 0x50 && s.mreg 0x48 != 0 && s.dispatch.leader.isSome then .next (readLaunch s) else .next s

/-- The cursor of a pool. -/
def cursorKey (l : Launch) : Nat := 2 * l.dom + (if l.sup then 1 else 0)

/-- The pool's next entry: its virtual address. -/
def poolEntry (s : State) (l : Launch) : Nat := poolBase s l.dom l.sup + 64 * (s.cursors.get (cursorKey l) 0 % Nat.max 1 (poolLen s l.dom))

/-- The record of an accepted index goes where its join count and its event condition say (11 R223); a cancelled scope takes it not, with
status 4. -/
def launchIndex (s : State) (l : Launch) (g : Grant) (ref : RecRef) : State :=
  let pa := ref.pa
  if scopeDead s (recScope s pa) then
    modLaunch (recPutHw s pa 15 1 stFree) l.id (fun x => { x with status := if x.status = 0 then 4 else x.status })
  else
    let s1 := modLaunch s l.id (fun x => { x with records := x.records ++ [(pa, g.die)] })
    let s2 := if recJoinc s1 pa = 0 then scopeInc s1 (recScope s1 pa) else s1
    (admitKept s2 g.cluster ref none).1

/-- A record of the launch is kept by a cluster for want of a place (11 R218). -/
def indexKept (s : State) (l : Launch) : Bool :=
  s.clusters.any (fun c => c.2.kept.any (fun e => l.records.any (fun r => r.1 = e.entry.ref.pa)))

/-- The fields of a record: all but PRIO[7:6], FLAGS[3] and byte 21, which hardware writes as zero (00 R6, 02 R34). -/
def recordFields : BitVec 512 :=
  BitVec.allOnes 512 ^^^ BitVec.ofNat 512 (3 * 2 ^ (8 * 14 + 6) + 2 ^ (8 * 15 + 7) + 255 * 2 ^ (8 * 21))

/-- Place the next index of a grant; not where the pool's entry is not FREE or an earlier index is kept. -/
def placeIndex (s : State) (l : Launch) (g : Grant) : State × Bool :=
  let va := poolEntry s l
  if indexKept s l then (s, false)
  else
    match hwDeep s l.dom va .write true with
    | (s1, some (pa, t)) =>
      let (s2, unreadable) := recCheck s1 pa noSlot l.dom
      if unreadable || recState s2 pa != stFree then (s2, false)
      else
        let s3 := performWrites s2 (.deep pa) 64 (l.template &&& recordFields).toNat (stampOrdered 0) noSlot 0
        let s4 := recPutHw s3 pa 24 8 (g.first + g.done)
        let s5 := { s4 with cursors := s4.cursors.put (cursorKey l) (s4.cursors.get (cursorKey l) 0 + 1) 0 }
        (launchIndex s5 l g ⟨BitVec.ofNat 64 va, l.dom, pa, t.leaf.getLsbD 7⟩, true)
    | (s1, none) => (s1, false)

def modGrant (s : State) (g : Grant) (f : Grant → Grant) : State :=
  { s with dispatch := { s.dispatch with
      mirror := s.dispatch.mirror.map (fun x => if x.launch = g.launch && x.first = g.first then f x else x) } }

/-- The batch's cluster acknowledges it and places its indices in order while their entries are FREE; else it waits 1,024 cycles. -/
def placeBatch (s : State) (g : Grant) (fuel : Nat) : State :=
  match fuel with
  | 0 => s
  | n + 1 =>
    match s.launches.find? (fun l => l.id = g.launch) with
    | none => s
    | some l =>
      match placeIndex s l g with
      | (s1, false) => modGrant s1 g (fun x => { x with acked := true, done := g.done, retryAt := s.cycle + 1024 })
      | (s1, true) =>
        let g1 := { g with acked := true, done := g.done + 1 }
        if g1.count ≤ g1.done then
          { s1 with dispatch := { s1.dispatch with
              mirror := s1.dispatch.mirror.filter (fun x => !(x.launch = g.launch && x.first = g.first)) } }
        else placeBatch (modGrant s1 g (fun _ => g1)) g1 n

/-- The pool that a grant's launch uses. -/
def grantPool (s : State) (g : Grant) : Option Nat := (s.launches.find? (fun l => l.id = g.launch)).map cursorKey

/-- The first grant that no earlier one of its pool holds up. -/
def firstGrant (s : State) (l : List Grant) (held : List (Option Nat)) : Option Grant :=
  match l with
  | [] => none
  | g :: rest =>
    let p := grantPool s g
    if held.contains p || decide (s.cycle < g.retryAt) then firstGrant s rest (p :: held) else some g

/-- A grant with a live die to go to: one whose die has failed for want of another is granted again now. -/
def liveGrant (s : State) (g : Grant) : Option Grant :=
  if g.acked || dieLive s g.die then some g else (regrantTo s).map (fun t => { g with die := t.1, cluster := t.2 })

/-- LAUNCH_POOL_RETRY: the next grant that is due places its indices. -/
def execLaunchPoolRetry (s : State) : Result :=
  match firstGrant s s.dispatch.mirror [] with
  | none => .next s
  | some g =>
    match liveGrant s g with
    | none => .next (modGrant s g (fun x => { x with retryAt := s.cycle + 1024 }))
    | some g1 => .next (placeBatch (modGrant s g (fun _ => g1)) g1 64)

/-- The launch is over: malformed, failed to copy, or every index placed and exited. -/
def launchOver (s : State) (l : Launch) : Bool :=
  l.status = 1 || l.status = 2 ||
    (decide (l.nidx ≤ l.next) && l.records.isEmpty && !s.dispatch.mirror.any (fun g => g.launch = l.id))

/-- LAUNCH_COMPLETION: the completion record, and EVENTS[4]. -/
def execLaunchCompletion (s : State) : Result :=
  match s.launches.find? (launchOver s) with
  | none => .next s
  | some l =>
    let v := l.cookie.toNat + l.status * 2 ^ 64 + l.lost % 2 ^ 32 * 2 ^ 96
    .next ({ s with host := Mem.writeNat s.host l.compl 16 v, launches := s.launches.filter (fun x => x.id != l.id) }.raiseEvent 4)

/-! ### The management window (22 R440 to R442) -/

/-- The halted slots of a core of a live die return to service, as after reset (22 R442). -/
def restartCore (s : State) (k : Nat) : State :=
  if !dieLive s (k / 16) then s
  else (List.range 4).foldl (fun acc j => if (acc.slot (4 * k + j)).halted then acc.setSlot (4 * k + j) {} else acc) s

/-- CORE_RESTART of the context's core. -/
def execCoreRestart (s : State) : Result := .next (restartCore s (coreOf s.me))

/-- EVENTS_CLEAR: a W1C write. -/
def clearEvents (s : State) (mask : Word) : State := s.setMreg 0x20 (s.mreg 0x20 &&& ~~~mask)

def execEventsClear (mask : BitVec 64) (s : State) : Result := .next (clearEvents s mask)

/-- Firmware sets PSTAT to 4, once its image is verified, and the dispatchers elect their leader (22 R444, R445). -/
def writePstat (s : State) (v : Word) : State := if v = 4 && bootState s = 2 then elect (setPstat s 4) else s

/-- GRAFT: bit 0 declares this package failed, and stays set until its release has ended; bit 2 releases its graft (22 R440, R453, R456;
DESIGN CHOICE, log entry 85). -/
def writeGraft (s : State) (v : Word) : State :=
  let declared := declareFailed s s.ringPos
  let s1 := if v.getLsbD 0 then declared.setMreg 0x88 (declared.mreg 0x88 ||| 1#64) else s
  if v.getLsbD 2 then graftRelease s1 s1.ringPos else s1

/-- SWAP: DOMAIN, then GO, then RESUME (22 R457). -/
def writeSwap (s : State) (v : Word) : State :=
  let s1 := showSwap { s with swap := { s.swap with dom := bitsOf v 8 4 } }
  let s2 := if v.getLsbD 0 then Result.state (execSwapGo s1) s1 else s1
  if v.getLsbD 3 then Result.state (execSwapResume s2) s2 else s2

/-- A DOM word (22 R440): frame mode, the mask while frame mode is off, BGEN while it is off, the free ring. -/
def writeDom (s : State) (d w : Nat) (v : Word) : State :=
  let off := 0x800 + 128 * d + 8 * w
  if w = 3 then setFrameMode s d (v.getLsbD 0)
  else if 4 ≤ w && w ≤ 7 then (if s.frameMode d then s else s.setMreg off v)
  else if w = 10 then
    (if s.frameMode d then s
     else { (s.setMreg off (BitVec.ofNat 64 (bitsOf v 0 16))) with bgenSet := s.bgenSet.put d (bitsOf v 0 16) 0 })
  else if w = 11 || w = 12 then { (s.setMreg off v) with kvTails := s.kvTails.put d 0 0 }
  else s.setMreg off v

/-- A CORE word: eight ownership entries, of five bits each (13 R270; DESIGN CHOICE, log entry 89), or CORECTL, whose RESTART stays set once
written (DESIGN CHOICE, log entry 85). -/
def writeCore (s : State) (k w : Nat) (v : Word) : State :=
  if w < 8 then
    s.modCore k (fun c =>
      { c with owner := (List.range 8).foldl (fun o b => o.put (8 * w + b) (v.extractLsb' (8 * b) 8 &&& 0x1F) 0) c.owner })
  else if w = 8 then
    let s1 := s.modCore k (fun c => { c with withdraw := v.getLsbD 0 })
    if v.getLsbD 1 then restartCore (s1.modCore k (fun c => { c with restart := true })) k else s1
  else s

/-- A CLUSTER word; SAVELEN loads the save-area list that firmware has written (22 R441). -/
def writeCluster (s : State) (c w : Nat) (v : Word) : State :=
  if 12 ≤ w then s
  else
    let s1 := s.setMreg (0x3000 + 128 * c + 8 * w) v
    if w = 9 then
      let base := (s1.clusterWord c 8).toNat
      let n := v.toNat
      s1.modCluster c (fun x =>
        { x with saves := (List.range n).map (fun i => BitVec.ofNat 64 (Mem.readNat s1.deep ((base + 8 * i) % 2 ^ 34) 8)),
                 tails := x.tails.set 8 n })
    else s1

/-- A region word; firmware's STGBASE or RSSIZE counts from then on, a zero too (22 R441). Bits that STGBASE and UNDOEV do not name are
dropped (DESIGN CHOICE, log entry 89). -/
def writeRegion (s : State) (off : Nat) (v : Word) : State :=
  let s := if 0x220 < off || s.regionsSet.contains off then s else { s with regionsSet := off :: s.regionsSet }
  if off = 0x200 then s.setMreg off (BitVec.ofNat 64 (bitsOf v 0 22))
  else if off = 0x228 || off = 0x230 then { (s.setMreg off v) with slipTail := 0 }
  else if off = 0x238 || off = 0x240 then { (s.setMreg off v) with skipTail := 0 }
  else if off = 0x258 then s.setMreg off (BitVec.ofNat 64 (bitsOf v 0 13))
  else if off < 0x258 then s.setMreg off v
  else s

/-- RING: position and length (22 R440); the silence of the neighbours counts from here (DESIGN CHOICE, log entry 44). -/
def writeRing (s : State) (v : Word) : State :=
  let heard (l : Link) : Link := { l with silentSince := s.cycle, untrainedSince := s.cycle }
  (s.setMreg 0x80 (BitVec.ofNat 64 (bitsOf v 0 17))).modRing (fun r => { r with up := heard r.up, down := heard r.down })

/-- The registers below the region words. -/
def writePackage (s : State) (off : Nat) (v : Word) : State :=
  if off = 0 then writePstat s v
  else if off = 0x18 then (if v.getLsbD 0 && bootState s != 1 then fwDownload s else s)
  else if off = 0x20 then clearEvents s v
  else if off = 0x50 then s.setMreg off (BitVec.ofNat 64 (v.toNat % 2 ^ 32))
  else if off = 0x80 then writeRing s v
  else if off = 0x88 then writeGraft s v
  else if off = 0xC0 then writeSwap s v
  else if off = 0x100 then writeFrame s v
  else if off = 0x180 then attest s v.toNat
  else if off = 0x8 || off = 0x10 || off = 0x40 || off = 0x48 || off = 0x90 then s.setMreg off v
  else s

/-- A write to the management window. Registers not in the table ignore it. -/
def mgmtWrite (s : State) (off : Nat) (v : Word) : State :=
  if off % 8 ≠ 0 then s
  else if off < 0x200 then writePackage s off v
  else if off < 0x300 then writeRegion s off v
  else if 0x600 ≤ off && off < 0x680 then s.setMreg off v
  else if 0x800 ≤ off && off < 0x1000 then writeDom s ((off - 0x800) / 128) ((off - 0x800) % 128 / 8) v
  else if 0x1000 ≤ off && off < 0x3000 then writeCore s ((off - 0x1000) / 128) ((off - 0x1000) % 128 / 8) v
  else if 0x3000 ≤ off && off < 0x3800 then writeCluster s ((off - 0x3000) / 128) ((off - 0x3000) % 128 / 8) v
  else s

/-- MGMT_REG_WRITE. -/
def execMgmtRegWrite (off : BitVec 16) (v : BitVec 64) (s : State) : Result := .next (mgmtWrite s off.toNat v)

/-! ### A page walk (13 R276) -/

/-- What a core has looked up arrives at once. -/
def arriveNow (s : State) (core dom va : Nat) : State :=
  let mine (w : Walk) : Bool := w.serves core dom va
  (s.walks.filter mine).foldl fillTlbs { s with walks := s.walks.filter (fun w => !mine w) }

/-- TRANSLATION_WALK in the context's core and slot's domain: both TLBs take the leaf it finds; a failure fills nothing and leaves its
record (13 R282). The space 0xFF has no page tables (13 R268). -/
def execTranslationWalk (va : BitVec 56) (s : State) : Result :=
  let a := va.toNat
  let core := coreOf s.me
  let dom := (s.slot s.me).domain
  let failed (t : State) (r : Nat) : Result := .next (logXlate t s.me r (BitVec.setWidth 64 va))
  if a / 2 ^ 48 = 0xFF then if inWindow a then .next s else failed s 1
  else
    match lookup s core dom a s.me with
    | (s1, .ok _) => .next (arriveNow s1 core dom a)
    | (s1, .error r) => failed s1 r

end Sys2Proof.Machine
end

