-- ==== Sys2Proof/Machine/Strikes.lean ====
section
/-! DEFINITION. Disturbances of stored bits (20 R427). They come from outside the package, as State.strikes lists them. -/

namespace Sys2Proof.Machine

/-- A bit of the scratchpad array flips: the index counts the 8-byte words of the raw array (02 R41). -/
def strikeSpad (k : Strike) (s : State) : State :=
  s.modCore k.unit (fun c =>
    { c with spad := Mem.writeNat c.spad (8 * k.index) 8 (Mem.readNat c.spad (8 * k.index) 8 ^^^ k.bits.data.toNat),
             spadErr := c.spadErr.put k.index (c.spadErr.get k.index 0 ^^^ k.bits) 0 })

/-- Of an accumulator row, by 128 × row + word; the words of a stale sector hold nothing. -/
def Slot.strikeRow (x : Slot) (i : Nat) (b : Flips) : Slot :=
  let n := i / 128
  if (x.rowStale.get n 0).getLsbD (i % 128 / 8) then x
  else { x with rows := x.rows.put n (flipBack (x.rows.get n 0) [(i % 128, b)]) 0, rowErr := x.rowErr.put i (x.rowErr.get i 0 ^^^ b) 0 }

/-- Of a bit tile, by 1,024 × tile + word. -/
def Slot.strikeTile (x : Slot) (i : Nat) (b : Flips) : Slot :=
  let n := i / 1024
  if (x.tileStale.get n 0).getLsbD (i % 1024 / 4) then x
  else
    { x with tiles := x.tiles.put n (flipBack (x.tiles.get n 0) [(i % 1024, b)]) 0, tileErr := x.tileErr.put i (x.tileErr.get i 0 ^^^ b) 0 }

/-- Of a line of the code line cache, by 8 × position + word: the data stand as the check bits give them. -/
def strikeCode (k : Strike) (s : State) : State :=
  let w := k.index % 8
  s.modCore k.unit (fun c =>
    { c with code := c.code.modify (k.index / 8) (fun l => { l with err := l.err.put w (l.err.get w 0 ^^^ k.bits) 0 }) })

/-- Of the deep store, by the word's address in words. -/
def strikeDeep (k : Strike) (s : State) : State :=
  let p := Place.deep (8 * k.index)
  setErr (rawWrite s p 8 (rawRead s p 8 ^^^ k.bits.data.toNat)) p (errAt s p ^^^ k.bits)

/-- Of a cached translation: of the core's micro-TLB, or from index 64 on of its cluster's TLB; found when it is next used. -/
def strikeTlb (k : Strike) (s : State) : State :=
  let flip (t : TlbEntry) : TlbEntry := { t with flips := t.flips ^^^ k.bits }
  if k.index < 64 then s.modCore k.unit (fun c => { c with utlb := c.utlb.modify k.index flip })
  else s.modCluster (k.unit / 4) (fun c => { c with tlb := c.tlb.modify (k.index - 64) flip })

/-- Of the arrays of queues and journals, whose entries are one word each to the error log (DESIGN CHOICE, log entry 86): a slot's data
queues by 16 × queue + entry, from 96 on its journal, from 128 and 144 on its core's vector and matrix queues, from 160 on its lift
buffer. An error is found when the entry is next read. -/
def strikeQueues (k : Strike) (s : State) : State :=
  let i := k.index
  let cmd (m : Cmd) : Cmd := { m with flips := m.flips ^^^ k.bits }
  if i < 96 then
    setQueue s k.unit (i / 16) ((s.queue k.unit (i / 16)).modify (i % 16) (fun e => { e with flips := e.flips ^^^ k.bits }))
  else if i < 128 then
    s.modSlot k.unit (fun x => { x with journal := x.journal.modify (i - 96) (fun e => { e with flips := e.flips ^^^ k.bits }) })
  else if i < 144 then s.modCore (coreOf k.unit) (fun c => { c with vq := c.vq.modify (i - 128) cmd })
  else if i < 160 then s.modCore (coreOf k.unit) (fun c => { c with mq := c.mq.modify (i - 144) cmd })
  else s.modSlot k.unit (fun x => { x with lift := x.lift.modify (i - 160) cmd })

/-- Of a plane of the matrix engine, by word; the shadow plane's words follow the active plane's 14,336. -/
def strikePlane (k : Strike) (s : State) : State :=
  let w := k.index % 14336
  let flip (p : Plane) : Plane := { p with bytes := flipBack p.bytes [(w, k.bits)] }
  s.modCore k.unit (fun c =>
    if k.index < 14336 then { c with active := flip c.active, activeErr := c.activeErr.put w (c.activeErr.get w 0 ^^^ k.bits) 0 }
    else { c with shadow := flip c.shadow, shadowErr := c.shadowErr.put w (c.shadowErr.get w 0 ^^^ k.bits) 0 })

/-- Of a line's metadata: 36 bits and their check bits. -/
def strikeMeta (p : Place) (b : Flips) (s : State) : State :=
  let e : Flips := b &&& BitVec.ofNat 72 (255 * 2 ^ 64 + (2 ^ 36 - 1))
  setMetaErr (setMeta s p (metaAt s p ^^^ BitVec.setWidth 36 e)) p (metaErrAt s p ^^^ e)

/-- One disturbance. -/
def strike (s : State) (k : Strike) : State :=
  match k.array with
  | 0 => strikeSpad k s
  | 1 => s.modSlot k.unit (fun x => x.strikeRow k.index k.bits)
  | 2 => s.modSlot k.unit (fun x => x.strikeTile k.index k.bits)
  | 3 => strikeCode k s
  | 4 => strikeDeep k s
  | 5 => strikeTlb k s
  | 6 => strikeQueues k s
  | 7 => strikePlane k s
  | 16 => strikeMeta (.spad k.unit (64 * k.index)) k.bits s
  | 20 => strikeMeta (.deep (64 * k.index)) k.bits s
  | _ => s

/-- The disturbances of the running cycle happen. -/
def applyStrikes (s : State) : State :=
  let due (k : Strike) : Bool := decide (k.cycle ≤ s.cycle)
  (s.strikes.filter due).foldl strike { s with strikes := s.strikes.filter (fun k => !due k) }

end Sys2Proof.Machine
end

