-- ==== Sys2Proof/Machine/Late.lean ====
section
/-! DEFINITION. Late accesses of timed strands, which hold the VCC (12 R242, 13 R276): what is late in a tick, judged on the state
that the tick leaves (log entry 35). -/

namespace Sys2Proof.Machine

/-- The slot runs a timed block, which has a static schedule. -/
def inBlock (s : State) (slot : Nat) : Bool := (s.slot slot).timed && (s.slot slot).block.any (fun b => !b.checked)

/-- The slots that do. -/
def blockSlots (s : State) : List Nat := (s.slots.map (fun (e : Nat × Slot) => e.1)).filter (inBlock s)

/-- The next instruction of a role, where its line is in the cache. -/
def nextInstr (s : State) (slot : Nat) (r : Role) : Option Instr :=
  let c := s.role slot r
  match cachedLine s (coreOf slot) (s.slot slot).domain (lineOf c.pc) c.sup with
  | none => none
  | some d =>
    let w := wordOf c.pc
    match decode (lineWord d w) (lineWord d (w + 1)) with
    | .ok i => some i
    | .error _ => none

/-- The major opcode of the role's next instruction; 0 where there is none. -/
def nextMajor (s : State) (slot : Nat) (r : Role) : Nat := (nextInstr s slot r).elim 0 (fun i => majorOf (encode i).1)

/-- A wait of a timed strand on a token is late where only a copy is to give it: every other signal is in the static schedule. -/
def copyOnly (s : State) (slot t : Nat) : Bool :=
  let c := s.core (coreOf slot)
  tokenNow s slot t = 0 && !willSignal s slot t &&
    !(c.vq ++ c.mq).any (fun m => m.slot = slot && !m.nullified && signalToken m.w1 = some t) &&
    (s.slot slot).journal.any (fun e => !e.discarded && signalToken e.w1 = some t)

/-- A result, or what fills a queue entry, is not delivered at its timed latency. -/
def resultsLate (s : State) (slot : Nat) : Bool :=
  let now := s.clock slot
  let late (l : Late) : Bool := decide (l.due ≤ now) && !l.arrived now
  allRoles.any (fun r => (s.role slot r).vpend.any (fun p => late p.late)) ||
    (List.range 6).any (fun q => (s.queue slot q).any late)

/-- The full queue of an engine would have room without the other slots' commands. -/
def crowded (s : State) (slot : Nat) (r : Role) : Bool :=
  let c := s.core (coreOf slot)
  let full (l : List Cmd) : Bool := decide (16 ≤ l.length) && decide ((l.filter (fun m => m.slot = slot)).length < 16)
  match nextMajor s slot r with
  | 0x60 => full c.vq
  | 0x61 => full c.vq
  | 0x62 => full c.mq
  | m => m = 0x63

/-- No other role of the strand goes on, which could end the role's wait by the schedule. -/
def goesAlone (s : State) (slot : Nat) (r : Role) : Bool :=
  allRoles.all (fun q =>
    let c := s.role slot q
    q = r || !c.runs || c.bend || c.reason = 7 || c.reason = 8)

/-- A copy of the strand is to arrive at the barrier that the role waits on. -/
def copyArrives (s : State) (slot : Nat) (r : Role) : Bool :=
  (s.role slot r).barWait.any (fun b => (s.slot slot).journal.any (fun e => !e.discarded && e.vc = b.va))

/-- The role has not issued in the tick for a reason that its static schedule does not hold (02 R21, 12 R242): a code line, a token that
a copy gives, a queue that other slots' commands fill or that copies empty, another strand's signal, an open router group, a full undo log,
a fence behind copies. -/
def roleLate (s : State) (slot : Nat) (r : Role) : Bool :=
  let c := s.role slot r
  c.runs &&
    (match c.reason with
     | 4 => crowded s slot r
     | 5 =>
       match nextInstr s slot r with
       | some (.tkwait _ n) => copyOnly s slot n.toNat
       | _ => false
     | 6 => true
     | 7 => goesAlone s slot r
     | 8 => goesAlone s slot r || copyArrives s slot r
     | 10 =>
       routerHas s (fun _ m => m.slot = slot) || (List.range 4).any (fun d => !undoRoom s d) ||
         (r = .computer && !commandsLeft s slot && (s.slot slot).journal.any (fun e => e.role = .computer && !e.discarded))
     | 11 => true
     | _ => false)

/-- The core with the other slots' commands gone. -/
def Core.onlyOf (c : Core) (slot : Nat) : Core :=
  { c with vq := c.vq.filter (fun m => m.slot = slot), mq := c.mq.filter (fun m => m.slot = slot),
           vrun := c.vrun.filter (fun r => r.cmd.slot = slot), mrun := c.mrun.filter (fun r => r.cmd.slot = slot) }

/-- The token of a command that a copy alone is to signal, as if the copy had. -/
def withCopyToken (s : State) (m : Cmd) : State :=
  match waitToken m.w1 with
  | some t => if copyOnly s m.slot t then setToken s m.slot t 1 else s
  | none => s

/-- A vector command of the slot that has not started in the tick would have, had no other slot's command and no copy stood in its
way (08 R153). -/
def vectorLate (s : State) (slot : Nat) : Bool :=
  let s1 := s.modCore (coreOf slot) (fun c => c.onlyOf slot)
  match (s1.core (coreOf slot)).vq with
  | [] => false
  | m :: _ => (startSlot (withCopyToken s1 m) slot 0).2 != 0

/-- So for a matrix command (09 R193). -/
def matrixLate (s : State) (slot : Nat) : Bool :=
  let s1 := s.modCore (coreOf slot) (fun c => c.onlyOf slot)
  let c := s1.core (coreOf slot)
  match c.mq with
  | [] => false
  | m :: _ =>
    ripe s1 m && pathFree s1 m && mxReady s1 m && tokenReady (withCopyToken s1 m) m && !c.mrun.any (fun r => r.start = s1.cycle)

/-- Something of the slot that belongs to the tick has not happened in it. -/
def slotLate (s : State) (slot : Nat) : Bool :=
  resultsLate s slot || vectorLate s slot || matrixLate s slot || allRoles.any (roleLate s slot)

/-! ### Translations (13 R276) -/

/-- The micro-TLB misses of a timed strand in a tick: the translations begin, or are joined, and the VCC holds until they are there.
What does not translate at all is not waited for. -/
def newWalks (s : State) (l : List (Nat × Nat × Nat × Word)) : State :=
  l.foldl
    (fun acc e =>
      let (core, slot, dom, va) := e
      let need (w : Walk) : Bool := w.serves core dom va.toNat
      let s1 := if acc.walks.any need then acc else (lookup acc core dom va.toNat slot).1
      { s1 with walks := s1.walks.map (fun w => if need w then { w with timed := true } else w) })
    s

/-- LATE_ACCESS_PAUSE: a unit reports that the next tick is affected, and the VCC holds before it. -/
def execLateAccessPause (s : State) : Result :=
  if !s.holdsVcc.contains 2 && s.late then .next (holdVcc s 2) else .next s

/-- LATE_ACCESS_RESUME: the tick can proceed. The reports come ahead, so that the pause is the lateness (DEDUCED from 23, whose
run pauses 250 cycles for a copy 250 cycles late; log entry 35). -/
def execLateAccessResume (s : State) : Result :=
  if s.holdsVcc.contains 2 && !s.late then .next (freeVcc s 2) else .next s

end Sys2Proof.Machine
end

