-- ==== Sys2Proof/Machine/Cycle.lean ====
section
/-! DEFINITION. What a step does around an instruction: the choice of a context, the fetch with checks 1 to 3
(03 R63), and what begins a cycle. -/

namespace Sys2Proof.Machine

/-- The trap of a word that is no instruction (03 R64). -/
def illegalWord (s : State) (v : Word) : State := (s.trapNow 1 v).mark

/-- The decoded instruction of a line that is at hand, checks 1 to 3 made (03 R63). -/
def decodeAt (s : State) (d : BitVec 512) : State × Option Instr :=
  let c := s.myRole
  let link := lineWord d 0
  if (link.extractLsb' 28 4).toNat ≠ roleNum s.cur.role then (illegalWord s (BitVec.setWidth 64 link), none)
  else
    let s1 := s.modMe (fun x => { x with link := link })
    let w := wordOf c.pc
    let first := lineWord d w
    let second := if isAssignedLong first then lineWord d (w + 1) else 0
    if isLongMajor first && 15 ≤ w then
      -- the second word of an assigned pair is not in the line: that half is open
      let (v, s2) := takeFree s1 32
      let hi : BitVec 32 := if isAssignedLong first then v else 0
      (illegalWord s2 (hi ++ first), none)
    else
      match decode first second with
      | .error _ => (illegalWord s1 (second ++ first), none)
      | .ok i => (s1, some i)

/-- The line of the context's next instruction is not at hand: the role waits for it, or, where it cannot be fetched, traps as it is to
issue (02 R29). A line of the ROM that nothing is placed in is waited for. -/
def lineMissing (s : State) (line : Nat) : State :=
  if isRom line then s.blocked 6
  else
    match codeFill s s.me line s.myRole.sup with
    | (_, .ok _) => s.blocked 6
    | (s1, .error e) => (fetchTrap s1 line e.1 e.2).mark

/-- The next instruction of the context, checks 1 to 3 made; `none` where the role is blocked or has trapped. -/
def fetchInstr (s : State) : State × Option Instr :=
  match blockedBy s s.me s.cur.role with
  | some why => (s.blocked why, none)
  | none =>
    let c := s.myRole
    let line := lineOf c.pc
    if line = endLine then (illegalWord s (BitVec.setWidth 64 c.link), none)
    else
      match cachedLine s (coreOf s.me) (s.slot s.me).domain line c.sup with
      | none => (lineMissing s line, none)
      | some d => decodeAt (codeCheck s s.me line c.sup) d

/-- The roles a position serves: 0 the loader, 1 and 2 the computer, 3 the storer (02 R20). -/
def positionRole (pos : Nat) : Role :=
  match pos with
  | 0 => .loader
  | 3 => .storer
  | _ => .computer

/-- The slots of a core in the order a position prefers them: by priority, then round robin (02 R20). -/
def positionOrder (s : State) (core pos : Nat) : List Nat :=
  let start := (s.core core).robin.get pos 0
  let round := (List.range 4).map (fun j => 4 * core + (start + j) % 4)
  let prio (k : Nat) : Nat :=
    match (s.slot k).strand with
    | some t => if t.prioAt = some s.cycle then t.prioOld else t.prio
    | none => 64
  let some' := round.filter (fun k => (s.slot k).strand.isSome)
  some'.foldl
    (fun l k => (l.takeWhile (fun j => decide (prio j ≤ prio k))) ++ k :: l.dropWhile (fun j => decide (prio j ≤ prio k)))
    []

/-- The position has served a slot: the next one is first at the next turn. -/
def servedBy (s : State) (core pos slot : Nat) : State :=
  s.modCore core (fun c => { c with robin := c.robin.put pos ((slot + 1) % 4) 0 })

/-! ### A cycle (log entry 1) -/

/-- A step without a word in the context of a slot's role. -/
def slotEvent (i : Instr) (r : Role) (slot : Nat) : Act := .event (contextOf slot r) i

/-- The slots that hold anything, and the clusters of the cores that do. -/
def usedSlots (s : State) : List Nat := s.slots.map (fun (e : Nat × Slot) => e.1)
def usedClusters (s : State) : List Nat :=
  (usedCores s).foldl (fun l k => if l.contains (k / 4) then l else l ++ [k / 4]) []

/-- What lands as a cycle begins: results, and the commands of the copy units that are done, whose signals come before the waits of the
cycle (17 R344). -/
def landingActs (s : State) : List Act :=
  (usedSlots s).flatMap (fun k => [slotEvent .variableResultLand .loader k, slotEvent .copySettle .loader k])

/-- The segment stream, whose staging writes the ports take first (13 R269); a buffer that a frame gives up is free for the decode that
starts with it (18 R388). -/
def stagingActs : List Act :=
  [.segmentArrival, .decodeComplete, .segmentCurrent, .decodeStart].map (fun i => slotEvent i .computer 0)

/-- The timetable of the running frame. -/
def frameActs : List Act := [.entrySlip, .timetableRelease].map (fun i => slotEvent i .computer 0)

/-- The commands of a core's engines, in the order in which its port takes their accesses (13 R269) and its waits are served (17 R344): the
matrix engine's reads, then the vector engine. -/
def engineActs (c : Nat) : List Act :=
  [slotEvent .matrixCommandComplete .loader (4 * c),
    .event ⟨BitVec.ofNat 8 (4 * c), .loader, 1, 0, .up, 0⟩ .matrixCommandStart,
    slotEvent .vectorCommandLand .loader (4 * c), slotEvent .vectorCommandStart .loader (4 * c),
    slotEvent .matrixCommandStart .loader (4 * c)]

/-- The commands of a core's copy unit, which writes other cores' scratchpads too, behind every engine (13 R269). -/
def copyActs (c : Nat) : List Act :=
  let copy (q : BitVec 1) : Act := .event ⟨BitVec.ofNat 8 (4 * c), .loader, q, 0, .up, 0⟩ .copyCommandStart
  [copy 0, copy 1, .chunk c 0, .chunk c 1]

/-- The groups that leave a cluster's router. -/
def routerActs (s : State) : List Act := (usedClusters s).map (fun c => slotEvent .routerMergeDepart .loader (16 * c))

/-- What a slot does beside issuing: preemption, kills, suspensions, hangs, barrier polls, staging holds. -/
def slotActs (k : Nat) : List Act :=
  [slotEvent .preemptDrainEnd .computer k, slotEvent .killPointStop .computer k, slotEvent .suspensionComplete .computer k,
    slotEvent .hangTimeout .computer k] ++
    allRoles.map (fun r => slotEvent .tbwaitPoll r k) ++ [slotEvent .holdDrop .loader k, slotEvent .blockCheck .computer k]

/-- The scheduler of a cluster, and the pick-ups of its slots. -/
def clusterActs (c : Nat) : List Act :=
  [slotEvent .eventOverflowScan .computer (16 * c), slotEvent .pollWake .computer (16 * c),
    slotEvent .placementRetry .computer (16 * c), slotEvent .spillRefill .computer (16 * c),
    slotEvent .preemptTrigger .computer (16 * c)] ++
    (List.range 16).map (fun j => slotEvent .strandPickup .computer (16 * c + j))

/-- The lines that a core's roles lack. -/
def fillActs (c : Nat) : List Act :=
  (List.range 4).flatMap (fun j => allRoles.map (fun r => slotEvent .codeLineFill r (4 * c + j)))

/-- The host's partners: firmware under way, the heartbeat, launches, a silent neighbour, a release under way; scrubbing, one line a die
in 64 cycles (20 R427). -/
def hostActs (s : State) : List Act :=
  let one (i : Instr) : Act := slotEvent i .computer 0
  (if bootState s = 1 then [one .fwDownload] else []) ++
    (if s.cycle % cyclesPerMs = 0 then [.event { contextOf 0 .computer with pos := BitVec.ofNat 8 s.ringPos } .heartbeatSend] else []) ++
    (if bootState s = 4 then [one .launchRecordRead, one .indexGrant, one .launchPoolRetry, one .launchCompletion] else []) ++
    (([.up, .down] : List Port).filter (silentNeighbour s)).map (fun p => .event { contextOf 0 .computer with port := p } .heartbeatTimeout) ++
    (if s.ring.releasing.isSome then [one .graftTrainTimeout] else []) ++
    (if s.cycle % 64 = 0 then (List.range 4).map (fun d => slotEvent .eccScrub .computer (64 * d)) else [])

/-- All a cycle does, in order (log entry 1). A synchronous trap of a cycle goes before an asynchronous one, which is taken after the
issue positions (20 R408); a block is checked in the tick of its last start (23 R461); late accesses of the next tick and the end of a
compute frame come last. -/
def cycleActs (s : State) : List Act :=
  stagingActs ++ landingActs s ++ frameActs ++ (usedCores s).flatMap engineActs ++ (usedCores s).flatMap copyActs ++
    (usedSlots s).flatMap slotActs ++ (usedClusters s).flatMap clusterActs ++ routerActs s ++ (usedCores s).map .issuing ++
    (usedSlots s).map (slotEvent .trapEntry .computer) ++ (usedCores s).flatMap fillActs ++ hostActs s ++
    [.lookAhead, slotEvent .lateAccessPause .computer 0, slotEvent .lateAccessResume .computer 0,
      slotEvent .computeFrameEnd .computer 0]

/-- What a slot's instructions of the last cycle left for this one: token counts (17 R344), sys.ctl, sys.domain and the index of sys.hang
(04 R96). -/
def openSlot (s : State) (k : Nat) : State :=
  (landTokens s k).modSlot k (fun x =>
    { x with ctl := x.ctlNext.getD x.ctl, domain := x.domNext.getD x.domain, hangIndex := x.hangNext.getD x.hangIndex,
             ctlNext := none, domNext := none, hangNext := none })

/-- The events of a cluster change, and its wait table is evaluated (11 R224, R225). -/
def openCluster (s : State) (c : Nat) : State := evalWaitTable (applyEventChanges s c) c

/-- The inputs that are due act first. -/
def dueInputs (s : State) : State × List Act :=
  ({ s with inputs := s.inputs.filter (fun e => !decide (e.1 ≤ s.cycle)) },
   (s.inputs.filter (fun e => decide (e.1 ≤ s.cycle))).map (fun e => .event e.2.1 e.2.2))

/-- The cycles by which the cores see the VCC late (12 R240; log entry 82). -/
def vccDelay : Nat := 8

/-- A new cycle begins: the progress counters take the last one, the counters advance, a ring that stands still holds its frames, stored
bits are struck, and what the cycle does is listed. -/
def beginCycle (s : State) : State :=
  let s0 := countProgress s
  let s1 := { s0 with cycle := s0.cycle + 1 }
  let ticks := s1.holdsVcc.isEmpty && decide (vccDelay < s1.cycle)
  let s2 := { s1 with ticks := ticks, vcc := if ticks then s1.vcc + 1 else s1.vcc }
  let s3 := applyStrikes (holdRing s2)
  let s4 := (usedSlots s3).foldl openSlot s3
  let s5 := (usedClusters s4).foldl openCluster s4
  let s6 := latchSnapshot s5
  let r := dueInputs s6
  { r.1 with agenda := r.2 ++ cycleActs r.1 }

/-- The 512-bit line that holds `w0`, `w1` in words 1 and 2 behind a link word of role `r` that ends the chain. -/
def placedLine (r : Role) (w0 w1 : InstrWord) : BitVec 512 :=
  let link : InstrWord := BitVec.ofNat 32 (roleNum r * 2 ^ 28 + endLine)
  ((0 : BitVec 416) ++ w1 ++ w0 ++ link)

/-- The role that may issue an instruction: the computer, or the loader or the storer for what only they may issue
(03 R59, R60). -/
def issuerOf (w0 : InstrWord) : Role :=
  let m := majorOf w0
  if m = 0x3D then .storer
  else if (0x30 ≤ m && m ≤ 0x3C) || m = 0x40 || (0x42 ≤ m && m ≤ 0x45) || m = 0x64 then .loader
  else if m = 0x4A && (w0.extractLsb' 0 7).toNat < 0x10 then .loader
  else if m = 0x4B && (w0.extractLsb' 0 7).toNat < 2 then .loader
  else .computer

/-- A word is placed where the next step fetches: in the ROM line, in a role that may issue it. -/
def placeWord (s : State) (w0 w1 : InstrWord) : State :=
  let r := issuerOf w0
  let s1 := s.modRole 0 r (fun c => { c with present := true, pc := codeAddr 0xFFFF000 1 })
  { s1 with rom := s1.rom.set 0xFFFF000 (placedLine r w0 w1), agenda := [.issue 0 r] }

end Sys2Proof.Machine
end

