-- ==== Sys2Proof/Machine/Dispatch.lean ====
section
/-! DEFINITION. The meaning of every instruction and step, one arm a constructor. -/

namespace Sys2Proof.Machine

def exec (i : Instr) (s : State) : Host.Outcome State Fault Refusal :=
  match i with
  | .add st d a b => Sys2Proof.Machine.execAdd st d a b s
  | .sub st d a b => Sys2Proof.Machine.execSub st d a b s
  | .and st d a b => Sys2Proof.Machine.execAnd st d a b s
  | .or st d a b => Sys2Proof.Machine.execOr st d a b s
  | .xor st d a b => Sys2Proof.Machine.execXor st d a b s
  | .andn st d a b => Sys2Proof.Machine.execAndn st d a b s
  | .orn st d a b => Sys2Proof.Machine.execOrn st d a b s
  | .shl st d a b => Sys2Proof.Machine.execShl st d a b s
  | .shr st d a b => Sys2Proof.Machine.execShr st d a b s
  | .sar st d a b => Sys2Proof.Machine.execSar st d a b s
  | .rotl st d a b => Sys2Proof.Machine.execRotl st d a b s
  | .min st d a b => Sys2Proof.Machine.execMin st d a b s
  | .max st d a b => Sys2Proof.Machine.execMax st d a b s
  | .minu st d a b => Sys2Proof.Machine.execMinu st d a b s
  | .maxu st d a b => Sys2Proof.Machine.execMaxu st d a b s
  | .slt st d a b => Sys2Proof.Machine.execSlt st d a b s
  | .sltu st d a b => Sys2Proof.Machine.execSltu st d a b s
  | .seq st d a b => Sys2Proof.Machine.execSeq st d a b s
  | .sne st d a b => Sys2Proof.Machine.execSne st d a b s
  | .mul st d a b => Sys2Proof.Machine.execMul st d a b s
  | .mulh st d a b => Sys2Proof.Machine.execMulh st d a b s
  | .mulhu st d a b => Sys2Proof.Machine.execMulhu st d a b s
  | .div st d a b => Sys2Proof.Machine.execDiv st d a b s
  | .divu st d a b => Sys2Proof.Machine.execDivu st d a b s
  | .rem st d a b => Sys2Proof.Machine.execRem st d a b s
  | .remu st d a b => Sys2Proof.Machine.execRemu st d a b s
  | .clz st d a => Sys2Proof.Machine.execClz st d a s
  | .ctz st d a => Sys2Proof.Machine.execCtz st d a s
  | .popc st d a => Sys2Proof.Machine.execPopc st d a s
  | .brev st d a => Sys2Proof.Machine.execBrev st d a s
  | .bswap st d a => Sys2Proof.Machine.execBswap st d a s
  | .sel st f d a b => Sys2Proof.Machine.execSel st f d a b s
  | .addImm st d a imm => Sys2Proof.Machine.execAddImm st d a imm s
  | .andImm st d a imm => Sys2Proof.Machine.execAndImm st d a imm s
  | .orImm st d a imm => Sys2Proof.Machine.execOrImm st d a imm s
  | .xorImm st d a imm => Sys2Proof.Machine.execXorImm st d a imm s
  | .shlImm st d a imm => Sys2Proof.Machine.execShlImm st d a imm s
  | .shrImm st d a imm => Sys2Proof.Machine.execShrImm st d a imm s
  | .sarImm st d a imm => Sys2Proof.Machine.execSarImm st d a imm s
  | .rotlImm st d a imm => Sys2Proof.Machine.execRotlImm st d a imm s
  | .sltImm st d a imm => Sys2Proof.Machine.execSltImm st d a imm s
  | .sltuImm st d a imm => Sys2Proof.Machine.execSltuImm st d a imm s
  | .seqImm st d a imm => Sys2Proof.Machine.execSeqImm st d a imm s
  | .sneImm st d a imm => Sys2Proof.Machine.execSneImm st d a imm s
  | .minImm st d a imm => Sys2Proof.Machine.execMinImm st d a imm s
  | .maxImm st d a imm => Sys2Proof.Machine.execMaxImm st d a imm s
  | .mulImm st d a imm => Sys2Proof.Machine.execMulImm st d a imm s
  | .exts st d a w p => Sys2Proof.Machine.execExts st d a w p s
  | .extz st d a w p => Sys2Proof.Machine.execExtz st d a w p s
  | .ins st d a w p => Sys2Proof.Machine.execIns st d a w p s
  | .alignup st d a n => Sys2Proof.Machine.execAlignup st d a n s
  | .lea st d a b k => Sys2Proof.Machine.execLea st d a b k s
  | .wrap st d a b k => Sys2Proof.Machine.execWrap st d a b k s
  | .movi st d imm => Sys2Proof.Machine.execMovi st d imm s
  | .fcmp st f a b cond => Sys2Proof.Machine.execFcmp st f a b cond s
  | .flog st fd fa fb op => Sys2Proof.Machine.execFlog st fd fa fb op s
  | .nul st f n => Sys2Proof.Machine.execNul st f n s
  | .beq st a b off tw => Sys2Proof.Machine.execBeq st a b off tw s
  | .bne st a b off tw => Sys2Proof.Machine.execBne st a b off tw s
  | .blt st a b off tw => Sys2Proof.Machine.execBlt st a b off tw s
  | .bge st a b off tw => Sys2Proof.Machine.execBge st a b off tw s
  | .bltu st a b off tw => Sys2Proof.Machine.execBltu st a b off tw s
  | .bgeu st a b off tw => Sys2Proof.Machine.execBgeu st a b off tw s
  | .bf st f off tw => Sys2Proof.Machine.execBf st f off tw s
  | .bfN st f off tw => Sys2Proof.Machine.execBfN st f off tw s
  | .loop st a off tw => Sys2Proof.Machine.execLoop st a off tw s
  | .j st off tw => Sys2Proof.Machine.execJ st off tw s
  | .jl st off tw => Sys2Proof.Machine.execJl st off tw s
  | .ji st d a => Sys2Proof.Machine.execJi st d a s
  | .ldB st t base stream disp => Sys2Proof.Machine.execLdB st t base stream disp s
  | .ldBu st t base stream disp => Sys2Proof.Machine.execLdBu st t base stream disp s
  | .ldH st t base stream disp => Sys2Proof.Machine.execLdH st t base stream disp s
  | .ldHu st t base stream disp => Sys2Proof.Machine.execLdHu st t base stream disp s
  | .ldW st t base stream disp => Sys2Proof.Machine.execLdW st t base stream disp s
  | .ldWu st t base stream disp => Sys2Proof.Machine.execLdWu st t base stream disp s
  | .ldD st t base stream disp => Sys2Proof.Machine.execLdD st t base stream disp s
  | .stB st t base stream disp => Sys2Proof.Machine.execStB st t base stream disp s
  | .stH st t base stream disp => Sys2Proof.Machine.execStH st t base stream disp s
  | .stW st t base stream disp => Sys2Proof.Machine.execStW st t base stream disp s
  | .stD st t base stream disp => Sys2Proof.Machine.execStD st t base stream disp s
  | .ldq st q base stream disp => Sys2Proof.Machine.execLdq st q base stream disp s
  | .stq st q base stream disp => Sys2Proof.Machine.execStq st q base stream disp s
  | .ldo st d a ord sx w => Sys2Proof.Machine.execLdo st d a ord sx w s
  | .sto st a b ord w => Sys2Proof.Machine.execSto st a b ord w s
  | .fence st ord sco => Sys2Proof.Machine.execFence st ord sco s
  | .xfence st mask => Sys2Proof.Machine.execXfence st mask s
  | .aaddW st d a b ord => Sys2Proof.Machine.execAaddW st d a b ord s
  | .aandW st d a b ord => Sys2Proof.Machine.execAandW st d a b ord s
  | .aorW st d a b ord => Sys2Proof.Machine.execAorW st d a b ord s
  | .axorW st d a b ord => Sys2Proof.Machine.execAxorW st d a b ord s
  | .aminSW st d a b ord => Sys2Proof.Machine.execAminSW st d a b ord s
  | .amaxSW st d a b ord => Sys2Proof.Machine.execAmaxSW st d a b ord s
  | .aminUW st d a b ord => Sys2Proof.Machine.execAminUW st d a b ord s
  | .amaxUW st d a b ord => Sys2Proof.Machine.execAmaxUW st d a b ord s
  | .afaddW st d a b ord => Sys2Proof.Machine.execAfaddW st d a b ord s
  | .aexchW st d a b ord => Sys2Proof.Machine.execAexchW st d a b ord s
  | .aincwW st d a b ord => Sys2Proof.Machine.execAincwW st d a b ord s
  | .adecwW st d a b ord => Sys2Proof.Machine.execAdecwW st d a b ord s
  | .aaddD st d a b ord => Sys2Proof.Machine.execAaddD st d a b ord s
  | .aandD st d a b ord => Sys2Proof.Machine.execAandD st d a b ord s
  | .aorD st d a b ord => Sys2Proof.Machine.execAorD st d a b ord s
  | .axorD st d a b ord => Sys2Proof.Machine.execAxorD st d a b ord s
  | .aminSD st d a b ord => Sys2Proof.Machine.execAminSD st d a b ord s
  | .amaxSD st d a b ord => Sys2Proof.Machine.execAmaxSD st d a b ord s
  | .aminUD st d a b ord => Sys2Proof.Machine.execAminUD st d a b ord s
  | .amaxUD st d a b ord => Sys2Proof.Machine.execAmaxUD st d a b ord s
  | .aexchD st d a b ord => Sys2Proof.Machine.execAexchD st d a b ord s
  | .aincwD st d a b ord => Sys2Proof.Machine.execAincwD st d a b ord s
  | .adecwD st d a b ord => Sys2Proof.Machine.execAdecwD st d a b ord s
  | .waitaW st d a b => Sys2Proof.Machine.execWaitaW st d a b s
  | .waitaD st d a b => Sys2Proof.Machine.execWaitaD st d a b s
  | .phnew st d a => Sys2Proof.Machine.execPhnew st d a s
  | .phregS st d a b => Sys2Proof.Machine.execPhregS st d a b s
  | .phregW st d a b => Sys2Proof.Machine.execPhregW st d a b s
  | .phregSw st d a b => Sys2Proof.Machine.execPhregSw st d a b s
  | .phdrop st a => Sys2Proof.Machine.execPhdrop st a s
  | .phsig st a => Sys2Proof.Machine.execPhsig st a s
  | .phwait st a => Sys2Proof.Machine.execPhwait st a s
  | .phnext st a => Sys2Proof.Machine.execPhnext st a s
  | .phlink st d a b => Sys2Proof.Machine.execPhlink st d a b s
  | .phqry st d a => Sys2Proof.Machine.execPhqry st d a s
  | .spawn st d a b => Sys2Proof.Machine.execSpawn st d a b s
  | .spawnj st d a b => Sys2Proof.Machine.execSpawnj st d a b s
  | .join st a => Sys2Proof.Machine.execJoin st a s
  | .exit st => Sys2Proof.Machine.execExit st s
  | .yield st => Sys2Proof.Machine.execYield st s
  | .susp st => Sys2Proof.Machine.execSusp st s
  | .self st d => Sys2Proof.Machine.execSelf st d s
  | .prio st d a => Sys2Proof.Machine.execPrio st d a s
  | .evset st a b => Sys2Proof.Machine.execEvset st a b s
  | .evclr st a b => Sys2Proof.Machine.execEvclr st a b s
  | .evwait st a b => Sys2Proof.Machine.execEvwait st a b s
  | .evtest st d a => Sys2Proof.Machine.execEvtest st d a s
  | .twait st a => Sys2Proof.Machine.execTwait st a s
  | .frameq st d a => Sys2Proof.Machine.execFrameq st d a s
  | .bend st => Sys2Proof.Machine.execBend st s
  | .scope st d a b => Sys2Proof.Machine.execScope st d a b s
  | .cancel st a => Sys2Proof.Machine.execCancel st a s
  | .scqry st d a => Sys2Proof.Machine.execScqry st d a s
  | .scack st d a b => Sys2Proof.Machine.execScack st d a b s
  | .tbinit st a b => Sys2Proof.Machine.execTbinit st a b s
  | .tbexp st a b => Sys2Proof.Machine.execTbexp st a b s
  | .tbarv st d a b => Sys2Proof.Machine.execTbarv st d a b s
  | .tbwait st d a b => Sys2Proof.Machine.execTbwait st d a b s
  | .tksig st n => Sys2Proof.Machine.execTksig st n s
  | .tkwait st n => Sys2Proof.Machine.execTkwait st n s
  | .seghdr st d a => Sys2Proof.Machine.execSeghdr st d a s
  | .stgq st q => Sys2Proof.Machine.execStgq st q s
  | .stgrel st => Sys2Proof.Machine.execStgrel st s
  | .parkSet st d a b => Sys2Proof.Machine.execParkSet st d a b s
  | .nop st => Sys2Proof.Machine.execNop st s
  | .eret st => Sys2Proof.Machine.execEret st s
  | .halt st => Sys2Proof.Machine.execHalt st s
  | .brk st => Sys2Proof.Machine.execBrk st s
  | .tick st d => Sys2Proof.Machine.execTick st d s
  | .sysr st d reg => Sys2Proof.Machine.execSysr st d reg s
  | .sysw st d reg => Sys2Proof.Machine.execSysw st d reg s
  | .trap st code => Sys2Proof.Machine.execTrap st code s
  | .jrnlStore st d a b => Sys2Proof.Machine.execJrnlStore st d a b s
  | .replay st d => Sys2Proof.Machine.execReplay st d s
  | .snap st d => Sys2Proof.Machine.execSnap st d s
  | .ckptClose st d a => Sys2Proof.Machine.execCkptClose st d a s
  | .tlbinv st a b => Sys2Proof.Machine.execTlbinv st a b s
  | .vld st v => Sys2Proof.Machine.execVld st v s
  | .vst st v => Sys2Proof.Machine.execVst st v s
  | .vmov st v => Sys2Proof.Machine.execVmov st v s
  | .vbcst st v => Sys2Proof.Machine.execVbcst st v s
  | .viota st v => Sys2Proof.Machine.execViota st v s
  | .vadd st v => Sys2Proof.Machine.execVadd st v s
  | .vsub st v => Sys2Proof.Machine.execVsub st v s
  | .vmul st v => Sys2Proof.Machine.execVmul st v s
  | .vfma st v => Sys2Proof.Machine.execVfma st v s
  | .vfms st v => Sys2Proof.Machine.execVfms st v s
  | .vmin st v => Sys2Proof.Machine.execVmin st v s
  | .vmax st v => Sys2Proof.Machine.execVmax st v s
  | .vabs st v => Sys2Proof.Machine.execVabs st v s
  | .vneg st v => Sys2Proof.Machine.execVneg st v s
  | .vdiv st v => Sys2Proof.Machine.execVdiv st v s
  | .vsqrt st v => Sys2Proof.Machine.execVsqrt st v s
  | .vrsq st v => Sys2Proof.Machine.execVrsq st v s
  | .vrcp st v => Sys2Proof.Machine.execVrcp st v s
  | .vexp2 st v => Sys2Proof.Machine.execVexp2 st v s
  | .vlog2 st v => Sys2Proof.Machine.execVlog2 st v s
  | .vand st v => Sys2Proof.Machine.execVand st v s
  | .vor st v => Sys2Proof.Machine.execVor st v s
  | .vxor st v => Sys2Proof.Machine.execVxor st v s
  | .vshl st v => Sys2Proof.Machine.execVshl st v s
  | .vshr st v => Sys2Proof.Machine.execVshr st v s
  | .vsar st v => Sys2Proof.Machine.execVsar st v s
  | .vcmp st v => Sys2Proof.Machine.execVcmp st v s
  | .vsel st v => Sys2Proof.Machine.execVsel st v s
  | .vpop st v => Sys2Proof.Machine.execVpop st v s
  | .vmlog st v => Sys2Proof.Machine.execVmlog st v s
  | .vshuf st v => Sys2Proof.Machine.execVshuf st v s
  | .vrot st v => Sys2Proof.Machine.execVrot st v s
  | .vext st v => Sys2Proof.Machine.execVext st v s
  | .vins st v => Sys2Proof.Machine.execVins st v s
  | .vred st v => Sys2Proof.Machine.execVred st v s
  | .vscan st v => Sys2Proof.Machine.execVscan st v s
  | .vcvt st v => Sys2Proof.Machine.execVcvt st v s
  | .vqnt st v => Sys2Proof.Machine.execVqnt st v s
  | .vdeq st v => Sys2Proof.Machine.execVdeq st v s
  | .vtag st v => Sys2Proof.Machine.execVtag st v s
  | .vhad st v => Sys2Proof.Machine.execVhad st v s
  | .vcon st v => Sys2Proof.Machine.execVcon st v s
  | .vopld st v => Sys2Proof.Machine.execVopld st v s
  | .bld st v => Sys2Proof.Machine.execBld st v s
  | .bst st v => Sys2Proof.Machine.execBst st v s
  | .brow st v => Sys2Proof.Machine.execBrow st v s
  | .bfill st v => Sys2Proof.Machine.execBfill st v s
  | .bpopr st v => Sys2Proof.Machine.execBpopr st v s
  | .bpopc st v => Sys2Proof.Machine.execBpopc st v s
  | .btrn st v => Sys2Proof.Machine.execBtrn st v s
  | .bcomp st v => Sys2Proof.Machine.execBcomp st v s
  | .bclos st v => Sys2Proof.Machine.execBclos st v s
  | .blog st v => Sys2Proof.Machine.execBlog st v s
  | .vselb st v => Sys2Proof.Machine.execVselb st v s
  | .mlds st m => Sys2Proof.Machine.execMlds st m s
  | .mflip st m => Sys2Proof.Machine.execMflip st m s
  | .mstr st m => Sys2Proof.Machine.execMstr st m s
  | .mzero st m => Sys2Proof.Machine.execMzero st m s
  | .mpset st m => Sys2Proof.Machine.execMpset st m s
  | .mpget st m => Sys2Proof.Machine.execMpget st m s
  | .mdrain st m => Sys2Proof.Machine.execMdrain st m s
  | .ocld st m => Sys2Proof.Machine.execOcld st m s
  | .ocmp st m => Sys2Proof.Machine.execOcmp st m s
  | .cpy st x => Sys2Proof.Machine.execCpy st x s
  | .cpyt st x => Sys2Proof.Machine.execCpyt st x s
  | .kvget st x => Sys2Proof.Machine.execKvget st x s
  | .kvputStore st x => Sys2Proof.Machine.execKvputStore st x s
  | .kvputRetain st x => Sys2Proof.Machine.execKvputRetain st x s
  | .kvputRelease st x => Sys2Proof.Machine.execKvputRelease st x s
  | .msg st x => Sys2Proof.Machine.execMsg st x s
  | .dtld st x => Sys2Proof.Machine.execDtld st x s
  | .acas st x => Sys2Proof.Machine.execAcas st x s
  | .aaddb st x => Sys2Proof.Machine.execAaddb st x s
  | .movl st d imm => Sys2Proof.Machine.execMovl st d imm s
  | .lhi st d imm => Sys2Proof.Machine.execLhi st d imm s
  | .diagdRead st d => Sys2Proof.Machine.execDiagdRead st d s
  | .diagdWrite st d => Sys2Proof.Machine.execDiagdWrite st d s
  | .snapArm st d => Sys2Proof.Machine.execSnapArm st d s
  | .einjArm st d => Sys2Proof.Machine.execEinjArm st d s
  | .mgmtRegWrite off v => Sys2Proof.Machine.execMgmtRegWrite off v s
  | .messageDelivery src => Sys2Proof.Machine.execMessageDelivery src s
  | .kvOwnerLookup src => Sys2Proof.Machine.execKvOwnerLookup src s
  | .parkClear st d a b => Sys2Proof.Machine.execParkClear st d a b s
  | .parkRead st d a b => Sys2Proof.Machine.execParkRead st d a b s
  | .jrnlLoad st d a b => Sys2Proof.Machine.execJrnlLoad st d a b s
  | .jrnlAbandon st d a b => Sys2Proof.Machine.execJrnlAbandon st d a b s
  | .ckptRollback st d a => Sys2Proof.Machine.execCkptRollback st d a s
  | .ckptQuery st d a => Sys2Proof.Machine.execCkptQuery st d a s
  | .errorLogClear st d => Sys2Proof.Machine.execErrorLogClear st d s
  | .eventsClear mask => Sys2Proof.Machine.execEventsClear mask s
  | .attestRequest addr => Sys2Proof.Machine.execAttestRequest addr s
  | .frameset v => Sys2Proof.Machine.execFrameset v s
  | .translationWalk va => Sys2Proof.Machine.execTranslationWalk va s
  | .tier1RemoteAccess acc => Sys2Proof.Machine.execTier1RemoteAccess acc s
  | .linkFlitReceive seq crcOk flit => Sys2Proof.Machine.execLinkFlitReceive seq crcOk flit s
  | .snapExternalTrigger => Sys2Proof.Machine.execSnapExternalTrigger s
  | .powerUpReset => Sys2Proof.Machine.execPowerUpReset s
  | .fwDownload => Sys2Proof.Machine.execFwDownload s
  | .dispatcherElection => Sys2Proof.Machine.execDispatcherElection s
  | .leaderFailover => Sys2Proof.Machine.execLeaderFailover s
  | .launchRecordRead => Sys2Proof.Machine.execLaunchRecordRead s
  | .indexGrant => Sys2Proof.Machine.execIndexGrant s
  | .launchPoolRetry => Sys2Proof.Machine.execLaunchPoolRetry s
  | .launchCompletion => Sys2Proof.Machine.execLaunchCompletion s
  | .coreRestart => Sys2Proof.Machine.execCoreRestart s
  | .frameModeEnable => Sys2Proof.Machine.execFrameModeEnable s
  | .frameModeDisable => Sys2Proof.Machine.execFrameModeDisable s
  | .graftDeclare => Sys2Proof.Machine.execGraftDeclare s
  | .graftRelease => Sys2Proof.Machine.execGraftRelease s
  | .graftTrainTimeout => Sys2Proof.Machine.execGraftTrainTimeout s
  | .swapGo => Sys2Proof.Machine.execSwapGo s
  | .swapPause => Sys2Proof.Machine.execSwapPause s
  | .swapResume => Sys2Proof.Machine.execSwapResume s
  | .heartbeatSend => Sys2Proof.Machine.execHeartbeatSend s
  | .heartbeatTimeout => Sys2Proof.Machine.execHeartbeatTimeout s
  | .packagePowerLoss => Sys2Proof.Machine.execPackagePowerLoss s
  | .linkRetrain => Sys2Proof.Machine.execLinkRetrain s
  | .retrainComplete => Sys2Proof.Machine.execRetrainComplete s
  | .segmentArrival => Sys2Proof.Machine.execSegmentArrival s
  | .refillComplete => Sys2Proof.Machine.execRefillComplete s
  | .ringSlotForward => Sys2Proof.Machine.execRingSlotForward s
  | .decodeStart => Sys2Proof.Machine.execDecodeStart s
  | .decodeComplete => Sys2Proof.Machine.execDecodeComplete s
  | .segmentCurrent => Sys2Proof.Machine.execSegmentCurrent s
  | .computeFrameEnd => Sys2Proof.Machine.execComputeFrameEnd s
  | .timetableRelease => Sys2Proof.Machine.execTimetableRelease s
  | .entrySlip => Sys2Proof.Machine.execEntrySlip s
  | .lateAccessPause => Sys2Proof.Machine.execLateAccessPause s
  | .lateAccessResume => Sys2Proof.Machine.execLateAccessResume s
  | .blockCheck => Sys2Proof.Machine.execBlockCheck s
  | .holdDrop => Sys2Proof.Machine.execHoldDrop s
  | .strandPickup => Sys2Proof.Machine.execStrandPickup s
  | .suspensionComplete => Sys2Proof.Machine.execSuspensionComplete s
  | .eventOverflowScan => Sys2Proof.Machine.execEventOverflowScan s
  | .spillRefill => Sys2Proof.Machine.execSpillRefill s
  | .placementRetry => Sys2Proof.Machine.execPlacementRetry s
  | .preemptTrigger => Sys2Proof.Machine.execPreemptTrigger s
  | .preemptDrainEnd => Sys2Proof.Machine.execPreemptDrainEnd s
  | .pollWake => Sys2Proof.Machine.execPollWake s
  | .killPointStop => Sys2Proof.Machine.execKillPointStop s
  | .trapEntry => Sys2Proof.Machine.execTrapEntry s
  | .hangTimeout => Sys2Proof.Machine.execHangTimeout s
  | .codeLineFill => Sys2Proof.Machine.execCodeLineFill s
  | .variableResultLand => Sys2Proof.Machine.execVariableResultLand s
  | .routerMergeDepart => Sys2Proof.Machine.execRouterMergeDepart s
  | .eccScrub => Sys2Proof.Machine.execEccScrub s
  | .vectorCommandStart => Sys2Proof.Machine.execVectorCommandStart s
  | .vectorCommandLand => Sys2Proof.Machine.execVectorCommandLand s
  | .matrixCommandStart => Sys2Proof.Machine.execMatrixCommandStart s
  | .matrixCommandComplete => Sys2Proof.Machine.execMatrixCommandComplete s
  | .copyCommandStart => Sys2Proof.Machine.execCopyCommandStart s
  | .copySettle => Sys2Proof.Machine.execCopySettle s
  | .tbwaitPoll => Sys2Proof.Machine.execTbwaitPoll s
  | .accessPerformed => Sys2Proof.Machine.execAccessPerformed s
  | .mirrorDieFailure => Sys2Proof.Machine.execMirrorDieFailure s

end Sys2Proof.Machine
end

