-- ==== Sys2Proof/Machine/Ahead.lean ====
section
/-! DEFINITION. The acts of a cycle: issuing by a core's positions (02 R20), and the look ahead at the next tick, by which late accesses
are found (12 R242). -/

namespace Sys2Proof.Machine

/-- The context takes its opportunity: its next instruction is fetched, decoded and run. -/
def runContext (c : Context) (s : State) : Host.Outcome State Fault Refusal :=
  match fetchInstr { s with cur := c, issued := false } with
  | (s1, none) => .next s1
  | (s1, some i) => exec i s1

/-! ### The positions of a core (02 R20) -/

/-- A context that a position has tried: the position, the slot, whether it took the opportunity. -/
structure Try where
  pos : Nat
  slot : Nat
  took : Bool
deriving DecidableEq, Repr

/-- A position tries its contexts in order until one takes the opportunity: the state then, and the tries. -/
def tryPosition (core pos : Nat) (order : List Nat) (s : State) : State × List Try :=
  match order with
  | [] => (s, [])
  | k :: rest =>
    match runContext (contextOf k (positionRole pos)) s with
    | .next t =>
      if t.issued then (servedBy t core pos k, [⟨pos, k, true⟩])
      else
        let r := tryPosition core pos rest t
        (r.1, ⟨pos, k, false⟩ :: r.2)
    | _ => (s, [⟨pos, k, true⟩])

/-- The tries of the four positions of a core; the two computer positions serve different slots. -/
def coreTries (s : State) (core : Nat) : List Try :=
  ((List.range 4).foldl
    (fun (acc : State × List Try) p =>
      let taken (k : Nat) : Bool := acc.2.any (fun t => t.took && t.slot = k && positionRole t.pos = positionRole p)
      let r := tryPosition core p ((positionOrder acc.1 core p).filter (fun k => !taken k)) acc.1
      (r.1, acc.2 ++ r.2))
    (s, [])).2

/-- A context that took its position's opportunity issues. -/
def runTaken (core : Nat) (o : Host.Outcome State Fault Refusal) (t : Try) : Host.Outcome State Fault Refusal :=
  match o with
  | .next s =>
    match runContext (contextOf t.slot (positionRole t.pos)) s with
    | .next s1 => .next (if s1.issued then servedBy s1 core t.pos t.slot else s1)
    | other => other
  | other => other

/-- A context that its position found blocked: why, and what waiting does, but it does not issue. -/
def runBlocked (o : Host.Outcome State Fault Refusal) (t : Try) : Host.Outcome State Fault Refusal :=
  match o with
  | .next s =>
    match runContext (contextOf t.slot (positionRole t.pos)) s with
    | .next s1 => .next (if s1.issued then s else s1)
    | _ => .next s
  | other => other

/-- A context that its position did not come to, the opportunity taken by another slot: it is blocked, or it is not (20 R431). -/
def runIdle (o : Host.Outcome State Fault Refusal) (t : Try) : Host.Outcome State Fault Refusal :=
  match o with
  | .next s =>
    match runContext (contextOf t.slot (positionRole t.pos)) s with
    | .next s1 => .next (if s1.issued then s.modRole t.slot (positionRole t.pos) (fun c => { c with reason := 0 }) else s1)
    | _ => .next s
  | other => other

/-- The contexts of a core that no position has tried. -/
def untried (s : State) (core : Nat) (l : List Try) : List Try :=
  ([0, 1, 3] : List Nat).flatMap (fun p =>
    ((positionOrder s core p).filter (fun k => !l.any (fun t => t.slot = k && positionRole t.pos = positionRole p))).map
      (fun k => ⟨p, k, false⟩))

/-- The accesses of a slot's roles that were under way and whose time has come are performed. -/
def runAccesses (o : Host.Outcome State Fault Refusal) (k : Nat) : Host.Outcome State Fault Refusal :=
  allRoles.foldl
    (fun o r =>
      match o with
      | .next s => exec .accessPerformed { s with cur := contextOf k r }
      | other => other)
    o

/-- What a slot of a core does: its accesses, then the contexts of it that the positions have chosen. -/
def runSlot (core : Nat) (l : List Try) (o : Host.Outcome State Fault Refusal) (j : Nat) : Host.Outcome State Fault Refusal :=
  (l.filter (fun t => t.took && t.slot = 4 * core + j)).foldl (runTaken core) (runAccesses o (4 * core + j))

/-- The positions of a core choose, each slot's accesses having been performed, and the chosen contexts issue by ascending slot, each behind
its slot's accesses: so the port takes them (13 R269), and so their commands are in core push order (09 R185). -/
def runCore (core : Nat) (s : State) : Host.Outcome State Fault Refusal :=
  let l := coreTries (Result.state ((List.range 4).foldl (fun o j => runAccesses o (4 * core + j)) (.next s)) s) core
  let o := (l.filter (fun t => !t.took)).foldl runBlocked ((List.range 4).foldl (runSlot core l) (.next s))
  (untried s core l).foldl runIdle o

/-! ### The next tick -/

/-- One act of the agenda. -/
def runAct (a : Act) (s : State) : Host.Outcome State Fault Refusal :=
  match a with
  | .issue slot r => runContext (contextOf slot r) s
  | .issuing core => runCore core s
  | .event c i => exec i { s with cur := c }
  | .chunk core q => .next (copyPart s core q)
  | .lookAhead => .next s

/-- The acts of the agenda are run, at most `fuel` of them. -/
def runActs (fuel : Nat) (s : State) : State :=
  match fuel with
  | 0 => s
  | n + 1 =>
    match s.agenda with
    | [] => s
    | a :: rest =>
      match runAct a { s with agenda := rest } with
      | .next t => runActs n t
      | _ => s

/-- The state with what a look ahead observes cleared: reasons of the roles, micro-TLB misses, holds of the VCC. -/
def unobserved (s : State) : State :=
  { s with
    agenda := [], holdsVcc := [],
    slots := s.slots.map (fun e => (e.1, e.2.modRoles (fun c => { c with reason := 0 }))),
    cores := s.cores.map (fun e => (e.1, { e.2 with misses := [] })) }

/-- The next cycle, as it would be as a tick. -/
def nextTick (s : State) : State :=
  let t := beginCycle (unobserved s)
  runActs (t.agenda.length + 1024) t

/-- The micro-TLB misses of the slots of `slots` in a tick, each with its core, slot, domain and address. -/
def missesOf (t : State) (slots : List Nat) : List (Nat × Nat × Nat × Word) :=
  t.cores.flatMap (fun e => (e.2.misses.filter (fun m => slots.contains m.1)).map (fun m => (e.1, m)))

/-- At the end of a cycle: walks that are over fill the TLBs; then the next tick is run, to see what would be late in it. While a slip
holds the VCC no tick comes, and nothing is late. -/
def lookAhead (s : State) : State :=
  let s1 := finishWalks s
  let slots := blockSlots s1
  if slots.isEmpty || s1.holdsVcc.contains 1 then { s1 with late := false }
  else
    let t := nextTick s1
    let s2 := newWalks s1 (missesOf t slots)
    { s2 with late := s2.walks.any (·.timed) || slots.any (fun k => inBlock t k && slotLate t k) }

end Sys2Proof.Machine
end

