-- ==== Sys2Proof/Machine/Step.lean ====
section
/-! DEFINITION. One step of the machine: the next thing the agenda lists, or the beginning of the next cycle. -/

namespace Sys2Proof.Machine

/-- Without power the package waits for the POWER_UP_RESET that the inputs hold next; what comes before it finds no package. -/
def powerUp (s : State) (l : List (Nat × Context × Instr)) : Host.Outcome State Fault Refusal :=
  match l with
  | [] => .fault .powerLost
  | (t, c, .powerUpReset) :: rest =>
    exec .powerUpReset { s with inputs := rest, cycle := Nat.max s.cycle t, cur := c }
  | _ :: rest => powerUp s rest

/-- One step. -/
def step (s : State) : Host.Outcome State Fault Refusal :=
  if !s.powered then powerUp s s.inputs
  else
    match s.agenda with
    | [] => .next (beginCycle s)
    | .lookAhead :: rest => .next (lookAhead { s with agenda := rest })
    | a :: rest => runAct a { s with agenda := rest }

/-- The state with an instruction placed where the next step fetches: the table numbers its bits from the first word;
bits above `nbits` are zero. -/
def State.withFetchWord (s : State) (nbits w : Nat) : State :=
  placeWord s (BitVec.ofNat 32 (w % 2 ^ nbits)) (BitVec.ofNat 32 (w % 2 ^ nbits / 2 ^ 32))

end Sys2Proof.Machine
end

