-- ==== Sys2Proof/Safety.lean ====
section
/-! DEFINITION. The terms the statements are written in: when an instruction may issue, what issuing leaves behind, what a reader of
a register, a queue or a byte sees, and the canonical form of the memories. -/

namespace Sys2Proof.Machine

/-! ### Before an instruction -/

/-- The issuing role may take its next instruction, and no NUL window is open over it (02 R21, 04 R80). -/
def Free (s : State) : Prop := blockedBy s s.me s.cur.role = none ∧ s.myRole.nul = 0

/-- The issuing role may take its next instruction, and a NUL window is open over it (04 R80, R81). -/
def Nullified (s : State) : Prop := blockedBy s s.me s.cur.role = none ∧ s.myRole.nul ≠ 0

/-- The state as an instruction finds it: what is due in the slot has landed. -/
def State.found (s : State) : State := landSlot s s.me

/-- The clock of the issuing slot. -/
def State.now (s : State) : Nat := s.clock s.me

/-- An instruction that reads and writes what `u` says has its operands and a place for its result: no result of variable
latency is due for them, every popped queue entry is filled and free of stored errors, a pushed queue has room, and the checking
scoreboard, where CHK is 1, finds no write still open (02 R21, R24, R32, R33, 20 R427). -/
def Supplied (u : Use) (s : State) : Prop :=
  lateBlocks s.found u = false ∧ popsReady s.found u = true ∧ pushReady s.found u = true ∧
    ((s.found.slot s.me).ctl.getLsbD 0 = true → stallHazard s.found u = false) ∧ popsSound s.found u = true

/-- The `k`th source value (02 R22, R23, R31). -/
def sourceOf (u : Use) (s : State) (k : Nat) : Word :=
  (sourceVals s.found u.srcs (if u.early then s.now - 1 else s.now) []).getD k 0

/-- The slot's strand is TIMED (02 R34). -/
def isTimed (s : State) : Prop := (s.slot s.me).timed = true

/-! ### What issuing leaves -/

/-- Instruction `i` has issued (02 R30): its role goes on at `pc` with `nul` instructions to nullify, its next issue waits for the
stall count, and the block of a TIMED strand has counted its words (12 R252). -/
structure Issued (i : Instr) (pc : BitVec 32) (nul : Nat) (s t : State) : Prop where
  issued : t.issued = true
  context : t.cur = s.cur
  pc : t.myRole.pc = pc
  nul : t.myRole.nul = nul
  next : t.myRole.nextIssue = s.now + 1 + stallOf i
  words : (t.slot s.me).block = (s.found.slot s.me).block.map (Block.counted s.vcc (roleNum s.cur.role) (wordList i))

/-- Every flag of the role reads as found. -/
def FlagsKept (s t : State) : Prop := ∀ f at', t.myRole.flag f at' = s.found.myRole.flag f at'

/-- Every scalar register of the role but `d` reads as found. -/
def RegsKept (d : Option (BitVec 5)) (s t : State) : Prop :=
  ∀ n at', d.all (fun x => x.toNat ≠ n) = true → t.myRole.reg n at' = s.found.myRole.reg n at'

/-- Register `d` holds `v` from `due` on and what it held before then, `due` being `lat` after the issue, or later only behind
an earlier write of `d` that is still open (02 R31, R33); s0 and the ports keep no value. -/
def RegWritten (d : BitVec 5) (lat : Nat) (v : Word) (s t : State) : Prop :=
  if d = 0 ∨ pushesQueue s.cur.role d ≠ none then
    ∀ at', t.myRole.reg d.toNat at' = s.found.myRole.reg d.toNat at'
  else
    ∃ due, s.now + lat ≤ due ∧
      ((∀ p ∈ s.found.myRole.pend, p.dst = .sreg d.toNat → p.due ≤ s.now + lat) → due = s.now + lat) ∧
      ∀ at', t.myRole.reg d.toNat at' = if due ≤ at' then v else s.found.myRole.reg d.toNat at'

/-- Flag `f` holds `b` from `due` on, one cycle after the issue or behind an earlier open write of it (02 R25, R31). -/
def FlagWritten (f : BitVec 3) (b : Bool) (s t : State) : Prop :=
  ∃ due, s.now + 1 ≤ due ∧
    ((∀ p ∈ s.found.myRole.pend, p.dst = .flag f.toNat → p.due ≤ s.now + 1) → due = s.now + 1) ∧
    (∀ at', t.myRole.flag f.toNat at' = if due ≤ at' then b else s.found.myRole.flag f.toNat at') ∧
    ∀ g at', g ≠ f.toNat → t.myRole.flag g at' = s.found.myRole.flag g at'

/-- Every data queue of the slot: what the sources popped is gone from its head, and the store queue that the destination names
has `e` at its tail (02 R23, R24). -/
def QueuesMoved (u : Use) (e : List QEntry) (s t : State) : Prop :=
  ∀ q, t.queue s.me q = (s.found.queue s.me q).drop ((popList s u).count q) ++
    (if u.dst.bind (pushesQueue s.cur.role) = some q then e else [])

/-- The role context without what an issue changes. -/
def RoleCtx.bare (c : RoleCtx) : RoleCtx := { c with pc := 0, nul := 0, nextIssue := 0, reason := 0, pend := [], vpend := [] }

/-- A block without the words it has counted. -/
def Block.bare (b : Block) : Block := { b with words := [] }

/-- The slot without what an issue of role `r` changes: besides the role's part, its queues, what counts its progress and block words. -/
def Slot.bare (r : Role) (x : Slot) : Slot :=
  { (x.modRole r RoleCtx.bare) with queues := [], progress := 0, moved := false, block := x.block.map Block.bare }

/-- The state without what an issue of the current role changes: besides its slot's part, the timing choices left and the mark of
the issue. -/
def bare (s : State) : State := { (s.modSlot s.me (Slot.bare s.cur.role)) with issued := false, delays := [] }

/-- Everything else is as found: memory, every other role, slot, core and cluster, every special register, every accumulator and
every exception register. -/
def RestKept (s t : State) : Prop := bare t = bare s.found

/-- Every byte of every memory reads as in `s`. -/
def BytesKept (s t : State) : Prop := ∀ p : Place, rawRead t p 1 = rawRead s p 1

/-- An instruction `i` of sources and destination `u` gives the value `v` with fixed latency `lat`, goes on behind itself, and
changes nothing else. -/
structure Computes (i : Instr) (u : Use) (d : BitVec 5) (lat : Nat) (v : Word) (s t : State) : Prop where
  issued : Issued i (linkOf s.myRole i) 0 s t
  written : RegWritten d lat v s t
  queues : QueuesMoved u [{ val := v, due := s.now + lat }] s t
  regs : RegsKept (some d) s t
  flags : FlagsKept s t
  late : t.myRole.vpend = s.found.myRole.vpend
  rest : RestKept s t
  bytes : BytesKept s t

/-- An instruction that gives no result goes on at `pc` with `nul` instructions to nullify, and changes nothing else. -/
structure GoesOn (i : Instr) (u : Use) (pc : BitVec 32) (nul : Nat) (s t : State) : Prop where
  issued : Issued i pc nul s t
  queues : QueuesMoved u [] s t
  regs : RegsKept none s t
  flags : FlagsKept s t
  late : t.myRole.vpend = s.found.myRole.vpend
  rest : RestKept s t
  bytes : BytesKept s t

/-- A value of variable latency is on its way to register or queue `d`: at `due`, which is `lat` after the issue in a TIMED strand; in
any other the rules promise no latency (02 R32). -/
def LateWritten (u : Use) (d : BitVec 5) (lat : Nat) (v : Word) (s t : State) : Prop :=
  ∃ due, (isTimed s → due = s.now + lat) ∧
    (if pushesQueue s.cur.role d = none then
      t.myRole.vpend = s.found.myRole.vpend ++ [⟨.sreg d.toNat, { val := v, due := due }⟩] ∧ QueuesMoved u [] s t
    else t.myRole.vpend = s.found.myRole.vpend ∧ QueuesMoved u [{ val := v, due := due }] s t)

/-! ### Memory -/

/-- The byte at a place lies outside the `n` bytes from `p`. -/
def Outside (q p : Place) (n : Nat) : Prop := ∀ i, i < n → q ≠ p.plus i

/-- The memories have their canonical form. -/
def State.canonical (s : State) : Prop :=
  s.deep.wf = true ∧ s.host.wf = true ∧ (∀ e ∈ s.remote, Mem.wf e.2 = true) ∧ ∀ e ∈ s.cores, e.2.spad.wf = true

/-- A run is safe where the machine goes on. -/
def State.goesOn (s : State) : Prop := ∃ t, step s = .next t

end Sys2Proof.Machine
end

