-- ==== Sys2Proof/Certificates/Slice0/Obligations.lean ====
section
/-! DEFINITION. The statements: what the spec's rules say the instructions and the machine do, each as a proposition about `exec`,
`step` or the decoder. `Free`, `Supplied`, `Computes` and the like are defined in Sys2Proof/Safety.lean. -/

open Sys2Proof Sys2Proof.Machine

/-! ### The tables of the statements -/

namespace Sys2Proof.Said

/-- The use of a three-register form. -/
def rr (d a b : BitVec 5) : Use := { srcs := [a, b], dst := some d }

/-- The use of a two-register form. -/
def ru (d a : BitVec 5) : Use := { srcs := [a], dst := some d }

/-- 1 where a condition holds, else 0. -/
def truth (p : Prop) [Decidable p] : Word := if p then 1 else 0

/-- The three-register forms of fixed latency, with their latency and what they compute of A and B (04 R69, R71, R72, R77). -/
def twoSource (st : BitVec 3) (d a b : BitVec 5) (k : BitVec 3) (m : BitVec 7) : List (Instr × Nat × (Word → Word → Word)) :=
  [(.add st d a b, 1, fun x y => BitVec.ofNat 64 (x.toNat + y.toNat)),
   (.sub st d a b, 1, fun x y => BitVec.ofInt 64 (x.toNat - y.toNat)),
   (.and st d a b, 1, fun x y => x &&& y),
   (.or st d a b, 1, fun x y => x ||| y),
   (.xor st d a b, 1, fun x y => x ^^^ y),
   (.andn st d a b, 1, fun x y => x &&& ~~~y),
   (.orn st d a b, 1, fun x y => x ||| ~~~y),
   (.shl st d a b, 1, fun x y => BitVec.ofNat 64 (x.toNat * 2 ^ (y.toNat % 64))),
   (.shr st d a b, 1, fun x y => BitVec.ofNat 64 (x.toNat / 2 ^ (y.toNat % 64))),
   (.sar st d a b, 1, fun x y => BitVec.ofInt 64 (x.toInt / 2 ^ (y.toNat % 64))),
   (.rotl st d a b, 1, fun x y => x.rotateLeft (y.toNat % 64)),
   (.slt st d a b, 1, fun x y => truth (x.toInt < y.toInt)),
   (.sltu st d a b, 1, fun x y => truth (x.toNat < y.toNat)),
   (.seq st d a b, 1, fun x y => truth (x = y)),
   (.sne st d a b, 1, fun x y => truth (x ≠ y)),
   (.min st d a b, 1, fun x y => if x.toInt ≤ y.toInt then x else y),
   (.max st d a b, 1, fun x y => if y.toInt ≤ x.toInt then x else y),
   (.minu st d a b, 1, fun x y => if x.toNat ≤ y.toNat then x else y),
   (.maxu st d a b, 1, fun x y => if y.toNat ≤ x.toNat then x else y),
   (.mul st d a b, 3, fun x y => BitVec.ofNat 64 (x.toNat * y.toNat)),
   (.mulh st d a b, 3, fun x y => BitVec.ofInt 64 (x.toInt * y.toInt / 2 ^ 64)),
   (.mulhu st d a b, 3, fun x y => BitVec.ofNat 64 (x.toNat * y.toNat / 2 ^ 64)),
   (.lea st d a b k, 1, fun x y => BitVec.ofNat 64 (x.toNat + y.toNat * 2 ^ k.toNat)),
   (.wrap st d a b m, 1, fun x y => BitVec.ofNat 64 (x.toNat / 2 ^ m.toNat * 2 ^ m.toNat + (x.toNat + y.toNat) % 2 ^ m.toNat))]

/-- The immediate forms, with their latency and what they compute of A (04 R69, R71, R72). -/
def immediate (st : BitVec 3) (d a : BitVec 5) (imm : BitVec 12) : List (Instr × Nat × (Word → Word)) :=
  [(.addImm st d a imm, 1, fun x => BitVec.ofInt 64 (x.toInt + imm.toInt)),
   (.andImm st d a imm, 1, fun x => x &&& imm.signExtend 64),
   (.orImm st d a imm, 1, fun x => x ||| imm.signExtend 64),
   (.xorImm st d a imm, 1, fun x => x ^^^ imm.signExtend 64),
   (.shlImm st d a imm, 1, fun x => BitVec.ofNat 64 (x.toNat * 2 ^ imm.toNat)),
   (.shrImm st d a imm, 1, fun x => BitVec.ofNat 64 (x.toNat / 2 ^ imm.toNat)),
   (.sarImm st d a imm, 1, fun x => BitVec.ofInt 64 (x.toInt / 2 ^ imm.toNat)),
   (.rotlImm st d a imm, 1, fun x => x.rotateLeft imm.toNat),
   (.sltImm st d a imm, 1, fun x => truth (x.toInt < imm.toInt)),
   (.sltuImm st d a imm, 1, fun x => truth (x.toNat < (imm.signExtend 64).toNat)),
   (.seqImm st d a imm, 1, fun x => truth (x.toInt = imm.toInt)),
   (.sneImm st d a imm, 1, fun x => truth (x.toInt ≠ imm.toInt)),
   (.minImm st d a imm, 1, fun x => if x.toInt ≤ imm.toInt then x else imm.signExtend 64),
   (.maxImm st d a imm, 1, fun x => if imm.toInt ≤ x.toInt then x else imm.signExtend 64),
   (.mulImm st d a imm, 3, fun x => BitVec.ofInt 64 (x.toInt * imm.toInt))]

/-- The bits [lo + w - 1 : lo] of a word as a number. -/
def field (x : Word) (lo w : Nat) : Nat := x.toNat / 2 ^ lo % 2 ^ w

/-- The unary forms and the bit fields, with what they compute of A (04 R73, R74, R77); `w` is the encoded width. -/
def bitForms (st : BitVec 3) (d a : BitVec 5) (w p n : BitVec 6) : List (Instr × (Word → Word → Prop)) :=
  [(.clz st d a, fun x y => y.toNat ≤ 64 ∧ (∀ i, i < y.toNat → x.getMsbD i = false) ∧ (y.toNat < 64 → x.getMsbD y.toNat = true)),
   (.ctz st d a, fun x y => y.toNat ≤ 64 ∧ (∀ i, i < y.toNat → x.getLsbD i = false) ∧ (y.toNat < 64 → x.getLsbD y.toNat = true)),
   (.popc st d a, fun x y => y.toNat = ((List.range 64).filter (fun i => x.getLsbD i)).length),
   (.brev st d a, fun x y => ∀ i, i < 64 → y.getLsbD i = x.getLsbD (63 - i)),
   (.bswap st d a, fun x y => ∀ i, i < 8 → field y (8 * i) 8 = field x (8 * (7 - i)) 8),
   (.exts st d a w p, fun x y => y = BitVec.ofInt 64 (BitVec.ofNat (w.toNat + 1) (field x p.toNat (w.toNat + 1))).toInt),
   (.extz st d a w p, fun x y => y.toNat = field x p.toNat (w.toNat + 1)),
   (.alignup st d a n, fun x y => y.toNat = (x.toNat + 2 ^ n.toNat - 1) / 2 ^ n.toNat * 2 ^ n.toNat % 2 ^ 64)]

/-- The forms without a source register, with their value (04 R76, R101, 11 R239). -/
def constants (st : BitVec 3) (d : BitVec 5) (i17 : BitVec 17) (i32 : BitVec 32) (s : State) : List (Instr × Word) :=
  [(.movi st d i17, BitVec.ofInt 64 i17.toInt),
   (.movl st d i32, BitVec.ofInt 64 i32.toInt),
   (.tick st d, BitVec.ofNat 64 s.cycle),
   (.self st d, (match (s.slot s.me).strand with
     | some t => t.ref.va
     | none => 0))]

end Sys2Proof.Said

open Sys2Proof.Said

/-! ### Scalar results -/

/-- 04 R69, R71, R72, R77 with 02 R31, R33: a three-register instruction of fixed latency gives what its table row computes, after
its latency, and changes nothing else: no other register or flag, no special register, no byte of memory. WRAP takes k from 1
to 63. A destination s0 keeps nothing, and a store-queue port of the computer takes the value as its entry. -/
def Obligations.TwoSourceResults : Prop :=
  ∀ (st : BitVec 3) (d a b : BitVec 5) (k : BitVec 3) (m : BitVec 7) (s : State), 1 ≤ m.toNat → m.toNat ≤ 63 →
    ∀ row ∈ twoSource st d a b k m, Free s → dstOk d s.cur.role = true → Supplied (rr d a b) s →
      ∃ t, exec row.1 s = .next t ∧
        Computes row.1 (rr d a b) d row.2.1 (row.2.2 (sourceOf (rr d a b) s 0) (sourceOf (rr d a b) s 1)) s t

/-- 04 R67, R69, R71, R72: an immediate form gives what its table row computes, and changes nothing else; the shift counts of the
immediate forms run from 0 to 63. -/
def Obligations.ImmediateResults : Prop :=
  ∀ (st : BitVec 3) (d a : BitVec 5) (imm : BitVec 12) (s : State),
    ∀ row ∈ immediate st d a imm, row.1.wellFormed = true → Free s → dstOk d s.cur.role = true → Supplied (ru d a) s →
      ∃ t, exec row.1 s = .next t ∧ Computes row.1 (ru d a) d row.2.1 (row.2.2 (sourceOf (ru d a) s 0)) s t

/-- 04 R73, R74, R77: the unary bit instructions, EXTS, EXTZ and ALIGNUP give what the rules say of A, with latency 1, and change
nothing else. -/
def Obligations.BitFieldResults : Prop :=
  ∀ (st : BitVec 3) (d a : BitVec 5) (w p n : BitVec 6) (s : State),
    ∀ row ∈ bitForms st d a w p n, row.1.wellFormed = true → Free s → dstOk d s.cur.role = true → Supplied (ru d a) s →
      ∃ t v, exec row.1 s = .next t ∧ row.2 (sourceOf (ru d a) s 0) v ∧ Computes row.1 (ru d a) d 1 v s t

/-- 04 R76, R101, 11 R239: MOVI and MOVL give their sign-extended constants, TICK the count of cycles since reset, SELF the address
of the issuing strand's record (0 for the boot strand, which has none: the model's choice, log entry 13), with latency 1, and
change nothing else. -/
def Obligations.ConstantResults : Prop :=
  ∀ (st : BitVec 3) (d : BitVec 5) (i17 : BitVec 17) (i32 : BitVec 32) (s : State),
    ∀ row ∈ constants st d i17 i32 s, Free s → dstOk d s.cur.role = true → Supplied { dst := some d } s →
      ∃ t, exec row.1 s = .next t ∧ Computes row.1 { dst := some d } d 1 row.2 s t

/-- 04 R72, R74, R75, R76: INS replaces the field [p + w - 1 : p] of its destination by the low bits of A, LHI the high half by its
constant, and all other bits are kept; in the computer role neither runs on a port. SEL gives A where flag f is 1, else B. Nothing
else changes. -/
def Obligations.ReadModifyResults : Prop :=
  ∀ (st f : BitVec 3) (d a b : BitVec 5) (w p : BitVec 6) (imm : BitVec 32) (s : State), Free s →
    (noPort d s.cur.role = true → (Instr.ins st d a w p).wellFormed = true → Supplied { srcs := [d, a], dst := some d } s →
      ∃ t v, exec (.ins st d a w p) s = .next t ∧ Computes (.ins st d a w p) { srcs := [d, a], dst := some d } d 1 v s t ∧
        ∀ i, i < 64 → v.getLsbD i =
          if p.toNat ≤ i ∧ i ≤ p.toNat + w.toNat then (sourceOf { srcs := [d, a], dst := some d } s 1).getLsbD (i - p.toNat)
          else (sourceOf { srcs := [d, a], dst := some d } s 0).getLsbD i) ∧
    (noPort d s.cur.role = true → Supplied { srcs := [d], dst := some d } s →
      ∃ t v, exec (.lhi st d imm) s = .next t ∧ Computes (.lhi st d imm) { srcs := [d], dst := some d } d 1 v s t ∧
        field v 32 32 = imm.toNat ∧ field v 0 32 = field (sourceOf { srcs := [d], dst := some d } s 0) 0 32) ∧
    (dstOk d s.cur.role = true → Supplied { srcs := [a, b], flags := [f], dst := some d } s →
      ∃ t, exec (.sel st f d a b) s = .next t ∧
        Computes (.sel st f d a b) { srcs := [a, b], flags := [f], dst := some d } d 1
          (if s.found.myRole.flag f.toNat s.now then sourceOf { srcs := [a, b], flags := [f], dst := some d } s 0
           else sourceOf { srcs := [a, b], flags := [f], dst := some d } s 1) s t)

namespace Sys2Proof.Said

/-- The divisions, each with whether it is signed and whether it gives the remainder. -/
def divisions (st : BitVec 3) (d a b : BitVec 5) : List (Instr × Bool × Bool) :=
  [(.div st d a b, true, false), (.divu st d a b, false, false), (.rem st d a b, true, true), (.remu st d a b, false, true)]

/-- The quotient and the remainder of 04 R70. -/
def divided (signed : Bool) (x y : Word) : Word × Word :=
  if y = 0 then (0xFFFFFFFFFFFFFFFF, x)
  else if signed = true ∧ x = 0x8000000000000000 ∧ y = 0xFFFFFFFFFFFFFFFF then (0x8000000000000000, 0)
  else
    let q : Int := if signed then x.toInt.tdiv y.toInt else (x.toNat / y.toNat : Nat)
    (BitVec.ofInt 64 q, BitVec.ofInt 64 ((if signed then x.toInt else x.toNat) - q * (if signed then y.toInt else y.toNat)))

/-- Where a result of variable latency waits: in the register's list of results under way, or in the pushed queue. -/
def Delivers (u : Use) (d : BitVec 5) (v : Word) (due : Nat) (s t : State) : Prop :=
  if pushesQueue s.cur.role d = none then
    t.myRole.vpend = s.found.myRole.vpend ++ [⟨.sreg d.toNat, { val := v, due := due }⟩] ∧ QueuesMoved u [] s t
  else t.myRole.vpend = s.found.myRole.vpend ∧ QueuesMoved u [{ val := v, due := due }] s t

end Sys2Proof.Said

/-- 04 R70: a divide gives the quotient or the remainder of the rule, a zero divisor giving all ones or A without a trap. In a TIMED
strand it arrives exactly 40 ticks after issue; otherwise 12 to 40 cycles after it where the divider is not busy longer, and never
before an earlier divide of the core. Only the issuing role's context and the core's divider change. -/
def Obligations.DivideResults : Prop :=
  ∀ (st : BitVec 3) (d a b : BitVec 5) (s : State), ∀ row ∈ divisions st d a b, Free s → dstOk d s.cur.role = true →
    Supplied (rr d a b) s →
      ∃ t due v, exec row.1 s = .next t ∧ Issued row.1 (linkOf s.myRole row.1) 0 s t ∧
        v = (if row.2.2 then (divided row.2.1 (sourceOf (rr d a b) s 0) (sourceOf (rr d a b) s 1)).2
             else (divided row.2.1 (sourceOf (rr d a b) s 0) (sourceOf (rr d a b) s 1)).1) ∧
        Delivers (rr d a b) d v due s t ∧
        (isTimed s → due = s.now + 40 ∧ RestKept s t) ∧
        (¬ isTimed s → s.cycle + 12 ≤ due ∧ (s.core (coreOf s.me)).divider ≤ due ∧
          ((s.core (coreOf s.me)).divider ≤ s.cycle + 40 → due ≤ s.cycle + 40) ∧
          RestKept s { t with cores := s.cores } ∧
          (∀ k, k ≠ coreOf s.me → t.core k = s.core k) ∧
          t.core (coreOf s.me) = { s.core (coreOf s.me) with divider := due }) ∧
        RegsKept none s t ∧ FlagsKept s t ∧ BytesKept s t

/-! ### Flags and nullification -/

namespace Sys2Proof.Said

/-- The conditions of FCMP by number (04 R78). -/
def compares (cond : Nat) (x y : Word) : Prop :=
  match cond with
  | 0 => x = y
  | 1 => x ≠ y
  | 2 => x.toInt < y.toInt
  | 3 => y.toInt ≤ x.toInt
  | 4 => x.toNat < y.toNat
  | _ => y.toNat ≤ x.toNat

/-- The operations of FLOG by number (04 R79). -/
def combines (op : Nat) (x y : Bool) : Bool :=
  match op with
  | 0 => x && y
  | 1 => x || y
  | 2 => xor x y
  | 3 => x && !y
  | 4 => !x
  | 5 => x
  | 6 => false
  | _ => true

/-- The flags FLOG reads. -/
def combinesOf (op : Nat) (fa fb : BitVec 3) : List (BitVec 3) := if op ≤ 3 then [fa, fb] else if op ≤ 5 then [fa] else []

/-- An instruction that writes flag `f` and nothing else. -/
structure SetsFlag (i : Instr) (u : Use) (f : BitVec 3) (b : Bool) (s t : State) : Prop where
  issued : Issued i (linkOf s.myRole i) 0 s t
  written : FlagWritten f b s t
  queues : QueuesMoved u [] s t
  regs : RegsKept none s t
  late : t.myRole.vpend = s.found.myRole.vpend
  rest : RestKept s t
  bytes : BytesKept s t

end Sys2Proof.Said

/-- 04 R78, R79, R80: FCMP writes to its flag, with latency 1, whether its condition holds of A and B, FLOG its combination of flags;
NUL opens a window over the next n instructions of the role where its flag is 0, and none where it is 1. Nothing else changes. -/
def Obligations.FlagResults : Prop :=
  ∀ (st f fa fb : BitVec 3) (a b : BitVec 5) (cond op : BitVec 7) (n : BitVec 4) (s : State), Free s →
    (cond.toNat ≤ 5 → Supplied { srcs := [a, b], dstFlag := some f } s →
      ∃ t v, exec (.fcmp st f a b cond) s = .next t ∧
        SetsFlag (.fcmp st f a b cond) { srcs := [a, b], dstFlag := some f } f v s t ∧
        (v = true ↔ compares cond.toNat (sourceOf { srcs := [a, b], dstFlag := some f } s 0)
          (sourceOf { srcs := [a, b], dstFlag := some f } s 1))) ∧
    (op.toNat ≤ 7 → Supplied { flags := combinesOf op.toNat fa fb, dstFlag := some f } s →
      ∃ t, exec (.flog st f fa fb op) s = .next t ∧
        SetsFlag (.flog st f fa fb op) { flags := combinesOf op.toNat fa fb, dstFlag := some f } f
          (combines op.toNat (s.found.myRole.flag fa.toNat s.now) (s.found.myRole.flag fb.toNat s.now)) s t) ∧
    (Supplied { flags := [f] } s →
      ∃ t, exec (.nul st f n) s = .next t ∧
        GoesOn (.nul st f n) { flags := [f] } (linkOf s.myRole (.nul st f n))
          (if s.found.myRole.flag f.toNat s.now then 0 else n.toNat) s t)

/-! ### Control flow -/

namespace Sys2Proof.Said

/-- The branches on two registers, with the condition of A and B they test (04 R83). -/
def branches (st : BitVec 3) (a b : BitVec 5) (off : BitVec 8) (tw : BitVec 4) : List (Instr × (Word → Word → Bool)) :=
  [(.beq st a b off tw, fun x y => decide (x = y)), (.bne st a b off tw, fun x y => decide (x ≠ y)),
   (.blt st a b off tw, fun x y => decide (x.toInt < y.toInt)), (.bge st a b off tw, fun x y => decide (y.toInt ≤ x.toInt)),
   (.bltu st a b off tw, fun x y => decide (x.toNat < y.toNat)), (.bgeu st a b off tw, fun x y => decide (y.toNat ≤ x.toNat))]

/-- The code address of word `tw` of the line `off` lines from the role's own (03 R52, 02 R28). -/
def aim (s : State) (off : Int) (tw : BitVec 4) : BitVec 32 :=
  BitVec.ofInt 32 (tw.toNat * 2 ^ 28 + ((s.myRole.pc.toNat % 2 ^ 28 : Nat) + off))

/-- The target names word 1 to 15 of a line from 0 to 0x0FFF_FFFE (03 R52). -/
def aimOk (s : State) (off : Int) (tw : BitVec 4) : Prop :=
  tw ≠ 0 ∧ 0 ≤ (s.myRole.pc.toNat % 2 ^ 28 : Nat) + off ∧ (s.myRole.pc.toNat % 2 ^ 28 : Nat) + off ≤ 0xFFFFFFE

end Sys2Proof.Said

/-- 04 R83, 03 R52: a branch goes to its target where its condition holds of A and B, BF where its flag is 1, BF.n where it is 0, and
otherwise on behind itself; nothing else changes. Their majors are 0x20 to 0x26. -/
def Obligations.BranchesGoWhereTaken : Prop :=
  (∀ (st f : BitVec 3) (a b : BitVec 5) (off : BitVec 8) (tw : BitVec 4),
    (branches st a b off tw).map (fun row => (encode row.1).1.extractLsb' 25 7) = [0x20#7, 0x21#7, 0x22#7, 0x23#7, 0x24#7, 0x25#7] ∧
      (encode (.bf st f off tw)).1.extractLsb' 25 7 = 0x26#7 ∧ (encode (.bf st f off tw)).1.extractLsb' 21 1 = 0#1 ∧
      (encode (.bfN st f off tw)).1.extractLsb' 25 7 = 0x26#7 ∧ (encode (.bfN st f off tw)).1.extractLsb' 21 1 = 1#1) ∧
  ∀ (st f : BitVec 3) (a b : BitVec 5) (off : BitVec 8) (tw : BitVec 4) (s : State), Free s → aimOk s off.toInt tw →
    (∀ row ∈ branches st a b off tw, Supplied { srcs := [a, b] } s →
      ∃ t, exec row.1 s = .next t ∧ GoesOn row.1 { srcs := [a, b] }
        (if row.2 (sourceOf { srcs := [a, b] } s 0) (sourceOf { srcs := [a, b] } s 1) then aim s off.toInt tw
         else linkOf s.myRole row.1) 0 s t) ∧
    (Supplied { flags := [f] } s →
      (∃ t, exec (.bf st f off tw) s = .next t ∧ GoesOn (.bf st f off tw) { flags := [f] }
        (if s.found.myRole.flag f.toNat s.now = true then aim s off.toInt tw else linkOf s.myRole (.bf st f off tw)) 0 s t) ∧
      ∃ t, exec (.bfN st f off tw) s = .next t ∧ GoesOn (.bfN st f off tw) { flags := [f] }
        (if s.found.myRole.flag f.toNat s.now = false then aim s off.toInt tw else linkOf s.myRole (.bfN st f off tw)) 0 s t)

/-- 04 R87: LOOP decrements its register, and goes to its target until the register reaches 0; nothing else changes. -/
def Sys2Proof.Said.LoopCountsDown : Prop :=
  ∀ (st : BitVec 3) (a : BitVec 5) (off : BitVec 8) (tw : BitVec 4) (s : State), Free s → aimOk s off.toInt tw →
    noPort a s.cur.role = true → Supplied { srcs := [a], dst := some a } s →
      ∃ t, exec (.loop st a off tw) s = .next t ∧
        Issued (.loop st a off tw)
          (if sourceOf { srcs := [a], dst := some a } s 0 = 1 then linkOf s.myRole (.loop st a off tw) else aim s off.toInt tw) 0 s t ∧
        RegWritten a 1 (sourceOf { srcs := [a], dst := some a } s 0 - 1) s t ∧ RegsKept (some a) s t ∧ FlagsKept s t ∧
        QueuesMoved {} [] s t ∧ t.myRole.vpend = s.found.myRole.vpend ∧ RestKept s t ∧ BytesKept s t

/-- 04 R85, R86: J goes to its target; JL also writes its link, the address behind it, to s27; JI goes to the code address its register
holds, which must name a word 1 to 15 of a code line in its low 32 bits, and writes its link to d. Nothing else changes. -/
def Sys2Proof.Said.JumpsGoAndLink : Prop :=
  ∀ (st : BitVec 3) (off : BitVec 18) (tw : BitVec 4) (d a : BitVec 5) (s : State), Free s →
    (aimOk s off.toInt tw →
      (Supplied {} s → ∃ t, exec (.j st off tw) s = .next t ∧ GoesOn (.j st off tw) {} (aim s off.toInt tw) 0 s t) ∧
      (Supplied { dst := some 27 } s → ∃ t, exec (.jl st off tw) s = .next t ∧
        Issued (.jl st off tw) (aim s off.toInt tw) 0 s t ∧
        RegWritten 27 1 (BitVec.ofNat 64 (linkOf s.myRole (.jl st off tw)).toNat) s t ∧ RegsKept (some 27) s t ∧
        FlagsKept s t ∧ QueuesMoved {} [] s t ∧ t.myRole.vpend = s.found.myRole.vpend ∧ RestKept s t ∧ BytesKept s t)) ∧
    (dstOk d s.cur.role = true → Supplied (ru d a) s →
      (sourceOf (ru d a) s 0).toNat < 2 ^ 32 → field (sourceOf (ru d a) s 0) 28 4 ≠ 0 →
      field (sourceOf (ru d a) s 0) 0 28 ≠ 0xFFFFFFF →
        ∃ t, exec (.ji st d a) s = .next t ∧
          Issued (.ji st d a) (BitVec.ofNat 32 (sourceOf (ru d a) s 0).toNat) 0 s t ∧
          RegWritten d 1 (BitVec.ofNat 64 (linkOf s.myRole (.ji st d a)).toNat) s t ∧ RegsKept (some d) s t ∧
          FlagsKept s t ∧
          QueuesMoved (ru d a) [{ val := BitVec.ofNat 64 (linkOf s.myRole (.ji st d a)).toNat, due := s.now + 1 }] s t ∧
          t.myRole.vpend = s.found.myRole.vpend ∧ RestKept s t ∧ BytesKept s t)

/-- 04 R84 to R87: LOOP counts down and branches; the jumps go to their target and, where they link, leave their link. -/
def Obligations.JumpsAndLoops : Prop := LoopCountsDown ∧ JumpsGoAndLink

/-! ### Memory accesses -/

namespace Sys2Proof.Said

/-- An access of `n` bytes at `va` passes the checks of its address and leads to `p` (04 R89, 13 R268, R274); `s1` is the state after
the translation, whose caches it may have filled. A management register is accessed as one doubleword (22 R440). -/
def Reaches (s : State) (va : Word) (n : Nat) (k : AccKind) (s1 : State) (p : Place) : Prop :=
  va.toNat % n = 0 ∧
    translate s.found (coreOf s.me) (s.found.slot s.me).domain va.toNat k s.found.myRole.sup s.me = (s1, .ok p) ∧
    ∀ o, p = .window o → n = 8

/-- No earlier access of the issuing role is on its way. -/
def Idle (s : State) : Prop := s.found.myRole.outst = [] ∧ inGroup s.found s.me s.cur.role none = false

/-- No earlier access and no earlier event change of the issuing role is on its way (11 R224, R234). -/
def Settled (s : State) : Prop := Idle s ∧ s.myRole.evAt ≤ s.cycle

/-- The unit at `p` and the metadata of its line hold no error (14 R293, 20 R427). -/
abbrev Sound (s1 : State) (p : Place) : Prop := errAt s1 p = 0 ∧ metaErrAt s1 p = 0 ∧ metaBad (metaAt s1 p) = false

/-- A plain access passes the stamp check of its line (14 R296). -/
def Stamped (s s1 : State) (p : Place) : Prop :=
  p.stamped = true → stampAllows (metaAt s1 p) s.me (s.found.slot s.me).dphaser = true

/-- What holds an access to `va` that leaves an untimed role, once it is translated: the timing choice (log entry 2), and the translation
that is still under way (13 R276). -/
def heldFor (s s1 : State) (va : Word) : Nat := (takeDelay s1).1 + transWait s1 (coreOf s.me) (s.slot s.me).domain va.toNat

/-- An access to `va` that leaves its role is performed at once: the strand is TIMED, or nothing holds it. -/
def AtOnce (s s1 : State) (va : Word) : Prop := isTimed s ∨ heldFor s s1 va = 0

/-- A write at `p` has no side but its own: no monitor waits anywhere, no armed injection names the line, its unit and line hold no
error, nor any unit of a line that the undo log reads first; the undo log does not stall it; and it is no management write, nor an
address beyond the 16 GiB of the deep store (13 R271). -/
def Plainly (s s1 : State) (p : Place) : Prop :=
  monitorCount s1 = 0 ∧ einjMatches s1 (coreOf s.me) p = false ∧ Sound s1 p ∧ undoStalls s1 p = false ∧
    (∀ o, p ≠ .window o) ∧
    ∀ a, p = .deep a → a < 2 ^ 34 ∧ (undoFirst s1 a = true → ∀ j, j < 8 → errAt s1 (.deep (a / 64 * 64 + 8 * j)) = 0)

/-- No other slot has a plain store to the line of `p` on its way: the model performs such stores before it judges the line's stamp for
this one (log entry 59). -/
def Unraced (s s1 : State) (p : Place) : Prop := ∀ k r, k ≠ s.me → lineStreams (s1.role k r) p = []

/-- The byte at `q` lies in the undo record that the first write to the line of `p` in the interval makes (20 R432). -/
def InUndoRecord (s1 : State) (p q : Place) : Prop :=
  ∃ a b, p = .deep a ∧ q = .deep b ∧ undoFirst s1 a = true ∧
    undoBase s1 (a / 2 ^ 32) + 128 * (s1.undo.get (a / 2 ^ 32) {}).lines.length ≤ b ∧
    b < undoBase s1 (a / 2 ^ 32) + 128 * (s1.undo.get (a / 2 ^ 32) {}).lines.length + 128

/-- A place that exists: a scratchpad offset lies below 4 MiB (13 R268). -/
def Exists (q : Place) : Prop := ∀ c o, q = .spad c o → o < 2 ^ 22

/-- Every byte outside the `n` stored at `p`, and outside the undo record of that write, reads as in `s1`. -/
def BytesElsewhere (s1 t : State) (p : Place) (n : Nat) : Prop :=
  ∀ q, Exists q → Outside q p n → ¬ InUndoRecord s1 p q → rawRead t q 1 = rawRead s1 q 1

/-- Every byte of every memory reads as in `s1`. -/
def BytesAsIn (s1 t : State) : Prop := ∀ q, rawRead t q 1 = rawRead s1 q 1

/-- Every slot but those that `p` names is as before. -/
def SlotsKept (p : Nat → Prop) (s t : State) : Prop := ∀ j, ¬ p j → t.slot j = s.slot j

/-- Nothing disturbs the hardware's writes into the record at `pa`: its address is a line's, the deep store holds no error, no injection is
armed, no monitor waits on its line, no write stands stalled, and its line is logged or needs no logging. -/
def RecQuiet (s : State) (pa : Nat) : Prop :=
  pa % 64 = 0 ∧ s.deepErr = [] ∧ s.deepMetaErr = [] ∧ metaBad (metaAt s (.deep pa)) = false ∧
    (∀ k, (s.core k).einj.getLsbD 0 = false) ∧ (∀ e ∈ s.clusters, ∀ m ∈ e.2.monitors, m.2 ≠ .deep pa) ∧ s.stalled = [] ∧
    undoFirst s pa = false

/-- Every byte of the stores reads as before; the management window, which shows whether a core has a halted slot, apart. -/
def StoresKept (s t : State) : Prop := ∀ p : Place, (∀ o, p ≠ .window o) → rawRead t p 1 = rawRead s p 1

/-- The special registers, the accumulators and the exception registers of the issuing role and its slot are as found. -/
def SpecialsKept (s t : State) : Prop :=
  let c := s.found.myRole
  let d := t.myRole
  d.fpctl = c.fpctl ∧ d.epc = c.epc ∧ d.cause = c.cause ∧ d.tval = c.tval ∧ d.tvec = c.tvec ∧ d.diaga = c.diaga ∧
    d.sup = c.sup ∧ d.psup = c.psup ∧ (t.slot s.me).ctl = (s.slot s.me).ctl ∧ (t.slot s.me).domain = (s.slot s.me).domain ∧
    (t.slot s.me).dphaser = (s.slot s.me).dphaser ∧ (t.slot s.me).tokens = (s.slot s.me).tokens ∧
    (t.slot s.me).rows = (s.slot s.me).rows ∧ (t.slot s.me).tiles = (s.slot s.me).tiles ∧
    (t.slot s.me).masks = (s.slot s.me).masks ∧ (t.slot s.me).preds = (s.slot s.me).preds

/-- Every other role, every other slot and every core's accumulators are as found. -/
def OthersKept (s t : State) : Prop :=
  (∀ k r, k ≠ s.me ∨ r ≠ s.cur.role → t.role k r = s.found.role k r) ∧
    ∀ k, (t.core k).active = (s.core k).active ∧ (t.core k).shadow = (s.core k).shadow

/-- Little-endian bytes as a register holds them, sign-extended or zero-extended. -/
def extended (n : Nat) (signed : Bool) (v : Nat) : Word :=
  if signed then BitVec.ofInt 64 (BitVec.ofNat (8 * n) v).toInt else BitVec.ofNat 64 v

/-- The plain loads with their size and sign (04 R88). -/
def loads (st : BitVec 3) (t base : BitVec 5) (stream : BitVec 4) (disp : BitVec 8) : List (Instr × Nat × Bool) :=
  [(.ldB st t base stream disp, 1, true), (.ldBu st t base stream disp, 1, false), (.ldH st t base stream disp, 2, true),
   (.ldHu st t base stream disp, 2, false), (.ldW st t base stream disp, 4, true), (.ldWu st t base stream disp, 4, false),
   (.ldD st t base stream disp, 8, false)]

/-- The plain stores with their size (04 R88). -/
def stores (st : BitVec 3) (t base : BitVec 5) (stream : BitVec 4) (disp : BitVec 8) : List (Instr × Nat) :=
  [(.stB st t base stream disp, 1), (.stH st t base stream disp, 2), (.stW st t base stream disp, 4),
   (.stD st t base stream disp, 8)]

/-- The use of a store: the base, then the value. -/
def rs (base t : BitVec 5) : Use := { srcs := [base, t] }

/-- The state after a stored value has reached its home: the bytes stored, the stamp of the writer with PEND as it was, and every
other byte as before. -/
structure Stores (s1 t : State) (p : Place) (n v : Nat) (stamp : BitVec 36) : Prop where
  value : rawRead t p n = v % 2 ^ (8 * n)
  stamp : p.stamped = true → metaAt t p = if pendAt s1 p then stamp ||| 0x800000000#36 else stamp &&& 0x7FFFFFFFF#36
  others : BytesElsewhere s1 t p n

end Sys2Proof.Said

/-- 04 R88, R90, 12 R243: a plain load that passes its checks gives the bytes at its address, sign- or zero-extended, with the latency
of their home; it changes no byte, no other register and no flag. -/
def Obligations.PlainLoadsReturn : Prop :=
  ∀ (st : BitVec 3) (d base : BitVec 5) (stream : BitVec 4) (disp : BitVec 8) (s s1 : State) (p : Place),
    ∀ row ∈ loads st d base stream disp, s.cur.role ≠ .computer → Free s → Supplied (ru d base) s →
      Reaches s (mmAddress (sourceOf (ru d base) s 0) disp row.2.1) row.2.1 .read s1 p → Idle s → Stamped s s1 p →
      Sound s1 p →
        ∃ t, exec row.1 s = .next t ∧ Issued row.1 (linkOf s.myRole row.1) 0 s t ∧
          LateWritten (ru d base) d (accessLatency s.me p) (extended row.2.1 row.2.2 (rawRead s1 p row.2.1)) s t ∧
          RegsKept none s t ∧ FlagsKept s t ∧ SpecialsKept s t ∧ OthersKept s t ∧ BytesAsIn s1 t

/-- 04 R88, 14 R295: a plain store that passes its checks and is performed at once leaves the low bytes of its source at its
address, with the writer's stamp, and every other byte as before; no register and no flag changes. -/
def Sys2Proof.Said.PlainStoresReachMemory : Prop :=
  ∀ (st : BitVec 3) (x base : BitVec 5) (stream : BitVec 4) (disp : BitVec 8) (s s1 : State) (p : Place),
    ∀ row ∈ stores st x base stream disp, s.cur.role ≠ .computer → Free s → Supplied (rs base x) s →
      Reaches s (mmAddress (sourceOf (rs base x) s 0) disp row.2) row.2 .write s1 p → Idle s → Stamped s s1 p →
      AtOnce s s1 (mmAddress (sourceOf (rs base x) s 0) disp row.2) → Plainly s s1 p → Unraced s s1 p →
        ∃ t, exec row.1 s = .next t ∧ Issued row.1 (linkOf s.myRole row.1) 0 s t ∧
          Stores s1 t p row.2 (sourceOf (rs base x) s 1).toNat (stampPlain s.me (s.found.slot s.me).dphaser) ∧
          QueuesMoved (rs base x) [] s t ∧ RegsKept none s t ∧ FlagsKept s t ∧ SpecialsKept s t ∧ OthersKept s t ∧
          t.myRole.vpend = s.found.myRole.vpend ∧ t.myRole.outst = []

/-- 14 R286, 13 R276 (log entry 2): a plain store that its translation or the timing choice holds leaves its role without reaching memory
yet: it waits among the accesses on their way, with its place, bytes and stamp; no byte changes but the line's undo record, which the
model writes already (log entry 40). -/
def Sys2Proof.Said.HeldStoreWaits : Prop :=
  ∀ (st : BitVec 3) (x base : BitVec 5) (stream : BitVec 4) (disp : BitVec 8) (s s1 : State) (p : Place),
    ∀ row ∈ stores st x base stream disp, s.cur.role ≠ .computer → Free s → Supplied (rs base x) s →
      Reaches s (mmAddress (sourceOf (rs base x) s 0) disp row.2) row.2 .write s1 p → Idle s → Stamped s s1 p →
      ¬ isTimed s → 0 < heldFor s s1 (mmAddress (sourceOf (rs base x) s 0) disp row.2) → Plainly s s1 p → Unraced s s1 p →
        ∃ t, exec row.1 s = .next t ∧ Issued row.1 (linkOf s.myRole row.1) 0 s t ∧
          t.myRole.outst = [⟨stream.toNat, p, mmAddress (sourceOf (rs base x) s 0) disp row.2, row.2, 0, sourceOf (rs base x) s 1,
            stampPlain s.me (s.found.slot s.me).dphaser,
            s.cycle + heldFor s s1 (mmAddress (sourceOf (rs base x) s 0) disp row.2)⟩] ∧
          BytesElsewhere s1 t p 0 ∧ RegsKept none s t ∧ FlagsKept s t

/-- 04 R88, 14 R286, R295: a plain store leaves its bytes at its address when it is performed, and waits among the accesses on their way
until then. -/
def Obligations.StoresReachMemory : Prop := PlainStoresReachMemory ∧ HeldStoreWaits

/-- 04 R92, R93, 14 R289: LDQ fills the next entry of its load queue with the doubleword at its address; STQ stores the head of its
store queue, once that is filled, and removes it. -/
def Obligations.QueueAccessesMoveData : Prop :=
  ∀ (st : BitVec 3) (q : BitVec 2) (r : BitVec 1) (base : BitVec 5) (stream : BitVec 4) (disp : BitVec 8) (s s1 : State)
      (p : Place), Free s → Supplied { srcs := [base] } s → Idle s → Stamped s s1 p →
    (s.cur.role = .loader → (s.found.queue s.me q.toNat).length < 16 →
      Reaches s (mmAddress (sourceOf { srcs := [base] } s 0) disp 8) 8 .read s1 p → Sound s1 p →
        ∃ t due, exec (.ldq st q base stream disp) s = .next t ∧
          Issued (.ldq st q base stream disp) (linkOf s.myRole (.ldq st q base stream disp)) 0 s t ∧
          (isTimed s → due = s.now + accessLatency s.me p) ∧
          t.queue s.me q.toNat = s.found.queue s.me q.toNat ++ [{ val := BitVec.ofNat 64 (rawRead s1 p 8), due := due }] ∧
          (∀ j, j ≠ q.toNat → t.queue s.me j = s.found.queue s.me j) ∧ RegsKept none s t ∧ FlagsKept s t ∧
          SpecialsKept s t ∧ OthersKept s t ∧ BytesAsIn s1 t) ∧
    (∀ e rest, s.cur.role = .storer → s.found.queue s.me (4 + r.toNat) = e :: rest → e.arrived s.now = true →
      e.flips = 0 → Reaches s (mmAddress (sourceOf { srcs := [base] } s 0) disp 8) 8 .write s1 p →
      AtOnce s s1 (mmAddress (sourceOf { srcs := [base] } s 0) disp 8) → Plainly s s1 p → Unraced s s1 p →
        ∃ t, exec (.stq st r base stream disp) s = .next t ∧
          Issued (.stq st r base stream disp) (linkOf s.myRole (.stq st r base stream disp)) 0 s t ∧
          Stores s1 t p 8 e.val.toNat (stampPlain s.me (s.found.slot s.me).dphaser) ∧
          t.queue s.me (4 + r.toNat) = rest ∧ (∀ j, j ≠ 4 + r.toNat → t.queue s.me j = s.found.queue s.me j) ∧
          RegsKept none s t ∧ FlagsKept s t ∧ SpecialsKept s t ∧ OthersKept s t)

/-- 15 R305, R306, 14 R295: LDO gives the value at its address, zero- or sign-extended; STO leaves the low bytes of its source
there, ordered. Neither checks the line's stamp. -/
def Obligations.OrderedAccesses : Prop :=
  ∀ (st : BitVec 3) (d a b : BitVec 5) (ord : BitVec 3) (sx : BitVec 1) (w : BitVec 2) (s s1 : State) (p : Place),
    s.cur.role ≠ .computer → Free s → Idle s →
    (Supplied (ru d a) s → Reaches s (sourceOf (ru d a) s 0) (2 ^ w.toNat) .read s1 p → Sound s1 p →
      ∃ t, exec (.ldo st d a ord sx w) s = .next t ∧
        Issued (.ldo st d a ord sx w) (linkOf s.myRole (.ldo st d a ord sx w)) 0 s t ∧
        LateWritten (ru d a) d (accessLatency s.me p) (extended (2 ^ w.toNat) (sx = 1) (rawRead s1 p (2 ^ w.toNat))) s t ∧
        RegsKept none s t ∧ FlagsKept s t ∧ SpecialsKept s t ∧ OthersKept s t ∧ BytesAsIn s1 t) ∧
    (Supplied (rs a b) s → Reaches s (sourceOf (rs a b) s 0) (2 ^ w.toNat) .write s1 p → (ord = 4 ∨ AtOnce s s1 (sourceOf (rs a b) s 0)) →
      Plainly s s1 p →
      ∃ t, exec (.sto st a b ord w) s = .next t ∧
        Issued (.sto st a b ord w) (linkOf s.myRole (.sto st a b ord w)) 0 s t ∧
        Stores s1 t p (2 ^ w.toNat) (sourceOf (rs a b) s 1).toNat (stampOrdered s.me) ∧
        QueuesMoved (rs a b) [] s t ∧ RegsKept none s t ∧ FlagsKept s t ∧ SpecialsKept s t ∧ OthersKept s t)

/-- 04 R94, 15 R308, R309, R310: NOP, a fence of the loader or the storer with no earlier access on its way, of the computer with no
command left, and an XFENCE go on at once and change nothing but their role's address and stall count. NOP's d, a and b fields are zero. -/
def Obligations.NopAndFencesGoOn : Prop :=
  (∀ (st : BitVec 3) (d a b : BitVec 5) (w : InstrWord),
    decode ((0x4C#7) ++ st ++ d ++ a ++ b ++ (0#7)) w = .ok (.nop st) ↔ d = 0 ∧ a = 0 ∧ b = 0) ∧
  ∀ (st ord sco : BitVec 3) (mask : BitVec 16) (s : State), Free s →
    (∃ t, exec (.nop st) s = .next t ∧ GoesOn (.nop st) {} (linkOf s.myRole (.nop st)) 0 s t) ∧
    (Idle s → (s.cur.role = .computer → commandsDone s.found = true) →
      ∃ t, exec (.fence st ord sco) s = .next t ∧
        GoesOn (.fence st ord sco) {} (linkOf s.myRole (.fence st ord sco)) 0 s t) ∧
    (Idle s → s.cur.role ≠ .computer →
      ∃ t, exec (.xfence st mask) s = .next t ∧ GoesOn (.xfence st mask) {} (linkOf s.myRole (.xfence st mask)) 0 s t)

/-! ### Atomics -/

namespace Sys2Proof.Said

/-- The signed value of the low `w` bits. -/
def signed (w x : Nat) : Int := if x % 2 ^ w < 2 ^ (w - 1) then (x % 2 ^ w : Nat) else (x % 2 ^ w : Nat) - (2 ^ w : Nat)

/-- What an atomic leaves of the old value `x` and its operand `b`, both of `w` bits (15 R313). -/
def updated (op w x b : Nat) : Nat :=
  match op with
  | 0 => (x + b) % 2 ^ w
  | 1 => x &&& b
  | 2 => x ||| b
  | 3 => x ^^^ b
  | 4 => if signed w x ≤ signed w b then x else b
  | 5 => if signed w x ≤ signed w b then b else x
  | 6 => Nat.min x b
  | 7 => Nat.max x b
  | 8 => fp32Add x b
  | 9 => b
  | 10 => if b ≤ x then 0 else x + 1
  | _ => if x = 0 ∨ b < x then b else x - 1

/-- The atomics with their size in bytes and operation (15 R312). -/
def atomics (st : BitVec 3) (d a b : BitVec 5) (ord : BitVec 3) : List (Instr × Nat × Nat) :=
  [(.aaddW st d a b ord, 4, 0), (.aandW st d a b ord, 4, 1), (.aorW st d a b ord, 4, 2), (.axorW st d a b ord, 4, 3),
   (.aminSW st d a b ord, 4, 4), (.amaxSW st d a b ord, 4, 5), (.aminUW st d a b ord, 4, 6), (.amaxUW st d a b ord, 4, 7),
   (.afaddW st d a b ord, 4, 8), (.aexchW st d a b ord, 4, 9), (.aincwW st d a b ord, 4, 10), (.adecwW st d a b ord, 4, 11),
   (.aaddD st d a b ord, 8, 0), (.aandD st d a b ord, 8, 1), (.aorD st d a b ord, 8, 2), (.axorD st d a b ord, 8, 3),
   (.aminSD st d a b ord, 8, 4), (.amaxSD st d a b ord, 8, 5), (.aminUD st d a b ord, 8, 6), (.amaxUD st d a b ord, 8, 7),
   (.aexchD st d a b ord, 8, 9), (.aincwD st d a b ord, 8, 10), (.adecwD st d a b ord, 8, 11)]

/-- The atomic passes a router, where it may merge: operations AADD to AMAX.u at relaxed order on the deep store or tier 1
(14 R303, 15 R318). -/
def Routed (op : Nat) (ord : BitVec 3) (p : Place) : Prop := op ≤ 7 ∧ ord = 0 ∧ ((∃ a, p = .deep a) ∨ ∃ k a, p = .remote k a)

end Sys2Proof.Said

/-- 15 R311, R312, R313, 14 R295, 12 R243: an atomic that does not pass a merging router reads, computes and writes its word at the
home in one step: with a destination it returns the old value, in a TIMED strand 16 ticks later than a load would, and without one it
leaves no result. Every other byte is as before. -/
def Obligations.AtomicsUpdateAtHome : Prop :=
  ∀ (st : BitVec 3) (d a b : BitVec 5) (ord : BitVec 3) (s s1 : State) (p : Place), ∀ row ∈ atomics st d a b ord,
    s.cur.role ≠ .computer → Free s → Supplied (rr d a b) s → Reaches s (sourceOf (rr d a b) s 0) row.2.1 .atomic s1 p → Idle s →
    Plainly s s1 p → ¬ Routed row.2.2 ord p → (d ≠ 0 ∨ AtOnce s s1 (sourceOf (rr d a b) s 0)) →
      ∃ t, exec row.1 s = .next t ∧ Issued row.1 (linkOf s.myRole row.1) 0 s t ∧
        Stores s1 t p row.2.1 (updated row.2.2 (8 * row.2.1) (rawRead s1 p row.2.1)
          ((sourceOf (rr d a b) s 1).toNat % 2 ^ (8 * row.2.1))) (stampOrdered s.me) ∧
        (if d = 0 then t.myRole.vpend = s.found.myRole.vpend ∧ QueuesMoved (rr d a b) [] s t
         else LateWritten (rr d a b) d (accessLatency s.me p + 16) (BitVec.ofNat 64 (rawRead s1 p row.2.1)) s t) ∧
        RegsKept none s t ∧ FlagsKept s t ∧ SpecialsKept s t ∧ OthersKept s t

namespace Sys2Proof.Said

/-- The groups of a router after a request `m` of this key: the open group of the key less than 8 cycles old takes it as its last
member, else it opens a group (14 R304). -/
def joined (gs : List Merge) (cycle : Nat) (p : Place) (w op : Nat) (m : Request) : List Merge :=
  let same (g : Merge) : Bool := decide (g.place = p ∧ g.w = w ∧ g.op = op ∧ cycle < g.opened + 8)
  if gs.any same then gs.map (fun g => if same g then { g with members := g.members ++ [m] } else g)
  else gs ++ [⟨p, w, op, cycle, [m]⟩]

end Sys2Proof.Said

/-- 14 R303, R304: a relaxed atomic of a merging operation joins its cluster's router at its core's input; its word is not touched yet,
and a returning form waits under a ticket for the group to come back. The line's undo record is written already (the model's choice,
log entry 40). -/
def Sys2Proof.Said.RoutedAtomicsJoinGroups : Prop :=
  ∀ (st : BitVec 3) (d a b : BitVec 5) (s s1 : State) (p : Place), ∀ row ∈ atomics st d a b 0,
    s.cur.role ≠ .computer → Free s → Supplied (rr d a b) s → Reaches s (sourceOf (rr d a b) s 0) row.2.1 .atomic s1 p → Idle s →
    Plainly s s1 p → Routed row.2.2 0 p →
      ∃ t, exec row.1 s = .next t ∧ Issued row.1 (linkOf s.myRole row.1) 0 s t ∧
        (t.cluster (clusterOf s.me)).groups = joined (s1.cluster (clusterOf s.me)).groups s.cycle p row.2.1 row.2.2
          ⟨coreOf s.me % 4, s.me, s.cur.role, s.seqNo, decide (d ≠ 0), sourceOf (rr d a b) s 1, sourceOf (rr d a b) s 0,
            s.myRole.pc⟩ ∧
        (d = 0 → t.myRole.vpend = s.found.myRole.vpend) ∧
        (d ≠ 0 → ∃ due, (isTimed s → due = s.now + (accessLatency s.me p + 16)) ∧
          t.myRole.vpend = s.found.myRole.vpend ++ [⟨.sreg d.toNat, { val := 0, due := due, ticket := s.seqNo }⟩]) ∧
        QueuesMoved (rr d a b) [] s t ∧ BytesElsewhere s1 t p 0 ∧ RegsKept none s t ∧ FlagsKept s t ∧ SpecialsKept s t ∧
        OthersKept s t

/-- 15 R315, R316, R317: ACAS writes C where the old value is B; AADDB writes the sum where it does not exceed C, exactly, and tells
in f7 whether it was refused. Both return the old value, in a TIMED strand with the latency of their target plus 16 (12 R243); where
they do not write, memory is as before. -/
def Sys2Proof.Said.ConditionalAtomics : Prop :=
  ∀ (st : BitVec 3) (x : ExOps) (s s1 : State) (p : Place), s.cur.role ≠ .computer → Free s → Idle s → Plainly s s1 p →
    let n := casWidth x
    let cut (w : Word) : Nat := w.toNat % 2 ^ (8 * n)
    let u : Use := { srcs := [x.a, x.b, x.c], dst := some x.d }
    let u7 : Use := { srcs := [x.a, x.b, x.c], dst := some x.d, dstFlag := some 7 }
    let old := rawRead s1 p n
    Reaches s (sourceOf u s 0) n .atomic s1 p →
    (Supplied u s → ∃ t due, exec (.acas st x) s = .next t ∧ Issued (.acas st x) (linkOf s.myRole (.acas st x)) 0 s t ∧
      (isTimed s → due = s.now + (accessLatency s.me p + 16)) ∧
      t.myRole.vpend = s.found.myRole.vpend ++ [⟨.sreg x.d.toNat, { val := BitVec.ofNat 64 old, due := due }⟩] ∧
      (if old = cut (sourceOf u s 1) then Stores s1 t p n (cut (sourceOf u s 2)) (stampOrdered s.me) else BytesAsIn s1 t) ∧
      RegsKept none s t ∧ FlagsKept s t ∧ SpecialsKept s t) ∧
    (Supplied u7 s → ∃ t due, exec (.aaddb st x) s = .next t ∧ Issued (.aaddb st x) (linkOf s.myRole (.aaddb st x)) 0 s t ∧
      (isTimed s → due = s.now + (accessLatency s.me p + 16)) ∧
      t.myRole.vpend = s.found.myRole.vpend ++ [⟨.sreg x.d.toNat, { val := BitVec.ofNat 64 old, due := due }⟩,
        ⟨.flag 7, { val := if old + cut (sourceOf u s 1) ≤ cut (sourceOf u s 2) then 0 else 1, due := due }⟩] ∧
      (if old + cut (sourceOf u s 1) ≤ cut (sourceOf u s 2) then
        Stores s1 t p n (old + cut (sourceOf u s 1)) (stampOrdered s.me) else BytesAsIn s1 t) ∧
      RegsKept none s t ∧ FlagsKept s t ∧ SpecialsKept s t)

/-- 14 R304, 15 R315: an atomic that a router may combine joins or opens a merge group; ACAS and AADDB update their word at its home where
their condition holds. -/
def Obligations.RoutedAndConditionalAtomics : Prop := RoutedAtomicsJoinGroups ∧ ConditionalAtomics

namespace Sys2Proof.Said

/-- The forms of WAITA with their size (15 R320). -/
def waits (st : BitVec 3) (d a b : BitVec 5) : List (Instr × Nat) := [(.waitaW st d a b, 4), (.waitaD st d a b, 8)]

/-- A suspension of the issuing role has begun: the slot holds it, and the role's address stays on its instruction (11 R221). -/
def Suspends (i : Instr) (kind : SuspKind) (ptr : BitVec 32) (s t : State) : Prop :=
  Issued i s.myRole.pc 0 s t ∧ (t.slot s.me).susp = some ⟨s.cur.role, kind, ptr, false, false⟩ ∧ RegsKept none s t ∧ FlagsKept s t ∧
    SpecialsKept s t

end Sys2Proof.Said

/-- 15 R319, R320, R321: WAITA gives the value at its address where it differs from B; where it is equal, the strand suspends on the
line, with a monitor armed while the cluster's table has room and the line is this package's own. -/
def Obligations.WaitAddress : Prop :=
  ∀ (st : BitVec 3) (d a b : BitVec 5) (s s1 : State) (p : Place), ∀ row ∈ waits st d a b,
    s.cur.role ≠ .computer → Free s → Supplied (rr d a b) s → ¬ isTimed s → (s.slot s.me).susp = none →
    Reaches s (sourceOf (rr d a b) s 0) row.2 .read s1 p → Idle s → Sound s1 p →
      ∃ t, exec row.1 s = .next t ∧ BytesAsIn s1 t ∧
        (rawRead s1 p row.2 ≠ (sourceOf (rr d a b) s 1).toNat % 2 ^ (8 * row.2) →
          Issued row.1 (linkOf s.myRole row.1) 0 s t ∧
          LateWritten (rr d a b) d (accessLatency s.me p) (BitVec.ofNat 64 (rawRead s1 p row.2)) s t ∧ RegsKept none s t ∧
          FlagsKept s t ∧ SpecialsKept s t) ∧
        (rawRead s1 p row.2 = (sourceOf (rr d a b) s 1).toNat % 2 ^ (8 * row.2) →
          Suspends row.1 (.monitor (sourceOf (rr d a b) s 0) p) s.myRole.pc s t ∧
          (p.stamped = true → (s1.cluster (clusterOf s.me)).monitors.length < 64 →
            (t.cluster (clusterOf s.me)).monitors = (s1.cluster (clusterOf s.me)).monitors ++ [(myRef s.found, p.line)]))

/-! ### Traps -/

namespace Sys2Proof.Said

/-- The vector line of cause `c` for the issuing role (20 R407): the line BASE + c of sys.tvec. -/
def vector (s : State) (c : Nat) : Nat := s.myRole.tvec.toNat % 2 ^ 28 + c

/-- A trap of cause `c` by the issuing role is entered at once from `s`: no other request is under way, no other role's NUL window is
open, the slot's results have landed, and the vector line is a code line of the role that is cached, free of errors. -/
def Vectored (s : State) (c : Nat) : Prop :=
  (s.slot s.me).trap = none ∧ windowsClosed s s.me (some s.cur.role) = true ∧ resultsLanded s s.me = true ∧
    vector s c ≤ 0xFFFFFFE ∧
    (∀ l, codeEntry s (coreOf s.me) (s.slot s.me).domain (vector s c) true = some l → l.err = []) ∧
    ∃ d, cachedLine s (coreOf s.me) (s.slot s.me).domain (vector s c) true = some d ∧
      (lineWord d 0).toNat / 2 ^ 28 = roleNum s.cur.role

/-- What entry of a trap by the issuing role leaves (20 R405, R407): sys.epc holds `at'`, sys.cause the code with SRCROLE, sys.tval `v`;
PSUP is the old SUP and SUP is 1; the NUL window is shut; the entry stands among those whose ERET is to come; the role goes on at word 1
of the vector line; every other running role is held with its sys.epc at its next instruction; registers, data queues, tokens, engine
state and every byte stay. -/
structure Traps (s : State) (c : Nat) (v : Word) (at' : BitVec 32) (t : State) : Prop where
  issued : t.issued = true
  epc : t.myRole.epc = BitVec.setWidth 64 at'
  cause : t.myRole.cause = BitVec.ofNat 64 (roleNum s.cur.role * 256 + c)
  tval : t.myRole.tval = v
  psup : t.myRole.psup = s.myRole.sup
  sup : t.myRole.sup = true
  nul : t.myRole.nul = 0
  opened : (t.slot s.me).handlers = (s.cur.role, c) :: (s.slot s.me).handlers
  pc : t.myRole.pc = codeAddr (vector s c) 1
  held : ∀ r, r ≠ s.cur.role → (s.role s.me r).present = true → (s.role s.me r).exited = false → (s.role s.me r).held = false →
    (t.role s.me r).held = true ∧ (t.role s.me r).epc = BitVec.setWidth 64 (s.role s.me r).pc
  regs : ∀ r n at'', (t.role s.me r).reg n at'' = (s.role s.me r).reg n at''
  queues : ∀ q, t.queue s.me q = s.queue s.me q
  engine : (t.slot s.me).tokens = (s.slot s.me).tokens ∧ (t.slot s.me).rows = (s.slot s.me).rows ∧
    (t.slot s.me).tiles = (s.slot s.me).tiles
  others : ∀ k, k ≠ s.me → t.slot k = s.slot k
  bytes : BytesAsIn s t

end Sys2Proof.Said

/-- 04 R97, R98, 20 R405, R407: BRK takes a trap of cause SW with all ones in sys.tval and its own address in sys.epc; TRAP, whose
d field is zero, takes one with its code in sys.tval and its link in sys.epc. -/
def Obligations.SoftwareTraps : Prop :=
  (∀ (st : BitVec 3) (d : BitVec 5) (code : BitVec 17) (w : InstrWord),
    decode ((0x4C#7) ++ st ++ (0#5) ++ (0#5) ++ (0#5) ++ (3#7)) w = .ok (.brk st) ∧
      (decode ((0x4F#7) ++ st ++ d ++ code) w = .ok (.trap st code) ↔ d = 0)) ∧
  ∀ (st : BitVec 3) (code : BitVec 17) (s : State), Free s → Vectored s.found 17 →
    (∃ t, exec (.brk st) s = .next t ∧ Traps s.found 17 (BitVec.allOnes 64) s.myRole.pc t) ∧
    ∃ t, exec (.trap st code) s = .next t ∧
      Traps s.found 17 (BitVec.ofNat 64 code.toNat) (linkOf s.myRole (.trap st code)) t

namespace Sys2Proof.Said

/-- A queue access can be made: of the loader, LDQ finds a free entry; of the storer, STQ finds a filled one without error (04 R92, R93,
20 R427). -/
def QueueReady (s : State) (q : BitVec 2) : Prop := s.cur.role = .loader ∧ (s.found.queue s.me q.toNat).length < 16

/-- See `QueueReady`. -/
def QueueFilled (s : State) (r : BitVec 1) : Prop :=
  s.cur.role = .storer ∧ ∃ e rest, s.found.queue s.me (4 + r.toNat) = e :: rest ∧ e.arrived s.now = true ∧ e.flips = 0

/-- The plain accesses, queue accesses among them, with what they use, their size and kind, where they can be made: for a full or an
empty queue their role waits first (02 R21, 04 R88, R92, R93). -/
def accesses (st : BitVec 3) (x base : BitVec 5) (stream : BitVec 4) (disp : BitVec 8) (q : BitVec 2) (r : BitVec 1) (s : State) :
    List (Instr × Use × Nat × AccKind × Prop) :=
  (loads st x base stream disp).map (fun row => (row.1, ru x base, row.2.1, .read, s.cur.role ≠ .computer)) ++
    (stores st x base stream disp).map (fun row => (row.1, rs base x, row.2, .write, s.cur.role ≠ .computer)) ++
    [(.ldq st q base stream disp, { srcs := [base] }, 8, .read, QueueReady s q),
     (.stq st r base stream disp, { srcs := [base] }, 8, .write, QueueFilled s r)]

end Sys2Proof.Said

/-- 04 R89, 20 R404, R407: a plain access, LDQ and STQ among them, whose address is not a multiple of its size traps ALIGN before it has
any effect, with the address in sys.tval. -/
def Sys2Proof.Said.MisalignedAccessTraps : Prop :=
  ∀ (st : BitVec 3) (x base : BitVec 5) (stream : BitVec 4) (disp : BitVec 8) (q : BitVec 2) (r : BitVec 1) (s : State),
    Free s → Vectored s.found 3 → ∀ row ∈ accesses st x base stream disp q r s, row.2.2.2.2 → Supplied row.2.1 s →
      (mmAddress (sourceOf row.2.1 s 0) disp row.2.2.1).toNat % row.2.2.1 ≠ 0 →
        ∃ t, exec row.1 s = .next t ∧ Traps s.found 3 (mmAddress (sourceOf row.2.1 s 0) disp row.2.2.1) s.myRole.pc t

/-- 13 R282, 04 R89: an aligned plain access, LDQ and STQ among them, whose address does not translate traps XLATE before it has any
effect, with the address in sys.tval, and its reason enters the cluster's error log as a record of KIND 4. -/
def Sys2Proof.Said.FailedTranslationTraps : Prop :=
  ∀ (st : BitVec 3) (x base : BitVec 5) (stream : BitVec 4) (disp : BitVec 8) (q : BitVec 2) (r : BitVec 1) (s s1 : State)
      (reason : Nat), Free s → Vectored s1 4 →
    ∀ row ∈ accesses st x base stream disp q r s, row.2.2.2.2 → Supplied row.2.1 s →
      let va := mmAddress (sourceOf row.2.1 s 0) disp row.2.2.1
      va.toNat % row.2.2.1 = 0 →
      translate s.found (coreOf s.me) (s.found.slot s.me).domain va.toNat row.2.2.2.1 s.found.myRole.sup s.me =
        (s1, .error reason) →
        ∃ t, exec row.1 s = .next t ∧ Traps s1 4 va s.myRole.pc t ∧
          (let g := t.cluster (clusterOf s.me)
           let g1 := s1.cluster (clusterOf s.me)
           g.logHead = (g1.logHead + 1) % 256 ∧ ((g.log.get g1.logHead 0).extractLsb' 56 8).toNat = 4 ∧
             ((g.log.get g1.logHead 0).extractLsb' 24 16).toNat = reason % 65536 ∧
             (g.log.get g1.logHead 0).extractLsb' 64 64 = va)

/-- 04 R89, 13 R282, 20 R404, R407: a plain access that is misaligned, or whose address does not translate, traps before it has any
effect. -/
def Obligations.RefusedAccessesTrap : Prop := MisalignedAccessTraps ∧ FailedTranslationTraps

namespace Sys2Proof.Said

/-- The supervisor instructions (04 R95, R96, R99, R100, 17 R371, 20 R419 to R423). -/
def privileged (st : BitVec 3) (d a b : BitVec 5) (x : ExOps) : List Instr :=
  [.eret st, .halt st, .jrnlStore st d a b, .replay st d, .snap st d, .ckptClose st d a, .tlbinv st a b,
   .sysr st d 0, .sysr st d 3, .sysr st d 4, .sysr st d 5, .sysr st d 6, .sysr st d 10, .sysr st d 11, .sysr st d 13,
   .sysr st d 14, .sysr st d 15, .sysr st d 16, .diagdRead st d,
   .sysw st d 0, .sysw st d 3, .sysw st d 4, .sysw st d 5, .sysw st d 6, .sysw st d 10, .sysw st d 11, .sysw st d 13,
   .sysw st d 16, .diagdWrite st d, .snapArm st d, .einjArm st d, .dtld st x]

/-- The instructions that the computer may not issue: plain and ordered accesses, XFENCE, atomics, WAITA, ACAS and AADDB, and the
barrier instructions (03 R59, R60, 04 R88, 15 R305, R312, R315, R320, 17 R355). -/
def notComputer (st : BitVec 3) (d a b : BitVec 5) (stream : BitVec 4) (disp : BitVec 8) (ord : BitVec 3) (w : BitVec 2) (sx : BitVec 1)
    (mask : BitVec 16) (x : ExOps) : List Instr :=
  (loads st d a stream disp).map (·.1) ++ (stores st d a stream disp).map (·.1) ++ (atomics st d a b ord).map (·.1) ++
    (waits st d a b).map (·.1) ++
    [.ldo st d a ord sx w, .sto st a b ord w, .xfence st mask, .acas st x, .aaddb st x, .tbinit st a b, .tbexp st a b,
     .tbarv st d a b, .tbwait st d a b]

/-- The instructions that the computer alone may issue: STGREL, and every vector, bit-tile and matrix instruction (03 R59, R60). -/
def onlyOfComputer (st : BitVec 3) (v : VxOps) (m : MxOps) : List Instr :=
  [.stgrel st, .vld st v, .vst st v, .vmov st v, .vbcst st v, .viota st v, .vadd st v, .vsub st v, .vmul st v, .vfma st v,
   .vfms st v, .vmin st v, .vmax st v, .vabs st v, .vneg st v, .vdiv st v, .vsqrt st v, .vrsq st v, .vrcp st v, .vexp2 st v,
   .vlog2 st v, .vand st v, .vor st v, .vxor st v, .vshl st v, .vshr st v, .vsar st v, .vcmp st v, .vsel st v, .vpop st v,
   .vmlog st v, .vshuf st v, .vrot st v, .vext st v, .vins st v, .vred st v, .vscan st v, .vcvt st v, .vqnt st v, .vdeq st v,
   .vtag st v, .vhad st v, .vcon st v, .vopld st v, .bld st v, .bst st v, .brow st v, .bfill st v, .bpopr st v, .bpopc st v,
   .btrn st v, .bcomp st v, .bclos st v, .blog st v, .vselb st v, .mlds st m, .mflip st m, .mstr st m, .mzero st m,
   .mpset st m, .mpget st m, .mdrain st m, .ocld st m, .ocmp st m]

/-- Instructions with a role that may not issue them (03 R59, R60). -/
def wrongRole (st : BitVec 3) (d a b : BitVec 5) (q : BitVec 2) (r : BitVec 1) (stream : BitVec 4) (disp : BitVec 8) (ord : BitVec 3)
    (w : BitVec 2) (sx : BitVec 1) (mask : BitVec 16) (x : ExOps) (v : VxOps) (m : MxOps) : List (Instr × Role) :=
  (notComputer st d a b stream disp ord w sx mask x).map (fun i => (i, .computer)) ++
    (onlyOfComputer st v m).flatMap (fun i => [(i, .loader), (i, .storer)]) ++
    [(.ldq st q a stream disp, .computer), (.ldq st q a stream disp, .storer), (.seghdr st d a, .computer),
     (.seghdr st d a, .storer), (.stgq st q, .computer), (.stgq st q, .storer), (.stq st r a stream disp, .loader),
     (.stq st r a stream disp, .computer)]

end Sys2Proof.Said

/-- 03 R62, R63, R64, 20 R407: a supervisor instruction that a user role meets, nullified or not, traps PRIV with its words in
sys.tval; an instruction that the role may not run traps ILL with them. Neither has any effect of its own. -/
def Obligations.PrivilegeAndRoleTraps : Prop :=
  ∀ (st : BitVec 3) (d a b : BitVec 5) (q : BitVec 2) (r : BitVec 1) (stream : BitVec 4) (disp : BitVec 8) (ord : BitVec 3)
      (w : BitVec 2) (sx : BitVec 1) (mask : BitVec 16) (x : ExOps) (v : VxOps) (m : MxOps) (s : State),
    blockedBy s s.me s.cur.role = none →
    (∀ i ∈ privileged st d a b x, s.myRole.sup = false → noPort d s.cur.role = true → Vectored s 2 →
      ∃ t, exec i s = .next t ∧ Traps s 2 (wordsOf i) s.myRole.pc t) ∧
    ∀ row ∈ wrongRole st d a b q r stream disp ord w sx mask x v m, s.cur.role = row.2 → Vectored s 1 →
      ∃ t, exec row.1 s = .next t ∧ Traps s 1 (wordsOf row.1) s.myRole.pc t

/-- 04 R99, 20 R409: ERET of a supervisor role whose sys.epc names a code word goes on there with SUP from PSUP and its NUL window
shut, and releases every held role to its own sys.epc; every register and every byte stays. It closes the role's latest trap entry where
it returns to supervisor code, and all of the role's where it returns to user code (20 R408; log entry 87, DEDUCED, the model's reading
of which entries an ERET ends). -/
def Obligations.EretReturns : Prop :=
  ∀ (st : BitVec 3) (s : State), Free s → s.myRole.sup = true → badTarget s.found.myRole.epc = false →
    (s.slot s.me).journal.any (·.discarded) = false → (s.slot s.me).lift = [] →
    (∀ r, r ≠ s.cur.role → (s.found.role s.me r).held = true → badTarget (s.found.role s.me r).epc = false) →
      ∃ t, exec (.eret st) s = .next t ∧ Issued (.eret st) (BitVec.setWidth 32 s.found.myRole.epc) 0 s t ∧
        t.myRole.sup = s.found.myRole.psup ∧
        (∀ c rest, (s.slot s.me).handlers = (s.cur.role, c) :: rest →
          (s.found.myRole.psup = true → (t.slot s.me).handlers = rest) ∧
          (s.found.myRole.psup = false → ∀ e ∈ (t.slot s.me).handlers, e.1 ≠ s.cur.role)) ∧
        (∀ r, r ≠ s.cur.role → (s.found.role s.me r).held = true →
          (t.role s.me r).held = false ∧ (t.role s.me r).pc = BitVec.setWidth 32 (s.found.role s.me r).epc ∧
          (t.role s.me r).sup = (s.found.role s.me r).sup) ∧
        (∀ r n at', (t.role s.me r).reg n at' = (s.found.role s.me r).reg n at') ∧
        (∀ q, t.queue s.me q = s.found.queue s.me q) ∧ BytesAsIn s t

/-- 04 R100: HALT of a supervisor role stops its slot once no other role's NUL window is open: its strand and its data queues are gone,
and the slot is halted once the commands pushed before have completed. Its record and every other byte, the registers of its roles and
every other slot stay as they are, and its scope counts one strand less; a ready record for which it was being preempted may cause another
preemption (11 R229). -/
def Obligations.HaltStopsTheSlot : Prop :=
  ∀ (st : BitVec 3) (s : State) (x : Strand), Free s → s.myRole.sup = true → unfinishedBlock s.found = none →
    (s.slot s.me).strand = some x → windowsClosed s.found s.me (some s.cur.role) = true →
      ∃ t, exec (.halt st) s = .next t ∧ t.issued = true ∧ (t.slot s.me).strand = none ∧ (∀ q, t.queue s.me q = []) ∧
        (commandsLeft s.found s.me = false → copiesLeft s.found s.me = false →
          (t.slot s.me).halted = true ∧ (t.slot s.me).halting = false) ∧
        (commandsLeft s.found s.me = true ∨ copiesLeft s.found s.me = true →
          (t.slot s.me).halted = false ∧ (t.slot s.me).halting = true) ∧
        (∀ r n at', (t.role s.me r).reg n at' = (s.found.role s.me r).reg n at') ∧
        (∀ v, (s.slot s.me).victimOf = some v → ∀ e ∈ (t.cluster (clusterOf s.me)).ready, e.ref.va = v → e.busy = false) ∧
        ((∀ r, (s.found.role s.me r).outst = []) → (s.slot s.me).pending = [] → (s.slot s.me).saveArea = none →
          (x.boot = false → (s.scope x.scope).state = scLive) →
          (∀ c, t.scope c = if x.boot = false ∧ c = x.scope then { s.scope c with live := (s.scope c).live - 1 } else s.scope c) ∧
          (∀ k, k ≠ s.me → t.slot k = s.slot k) ∧ StoresKept s t)

/-! ### System registers -/

namespace Sys2Proof.Said

/-- The system registers that a read returns with latency 1, by number, as the tables give them (02 R37 to R45, 07 R133, 12 R240, R245,
20 R405, R406, R428). -/
def systemRegister (s : State) : List (BitVec 17 × Word) :=
  let x := s.found.slot s.me
  let c := s.found.myRole
  [(0x0, x.ctl), (0x1, c.fpctl),
   (0x2, BitVec.ofNat 64 (4 * roleNum s.cur.role + (if c.psup then 2 else 0) + (if c.sup then 1 else 0))),
   (0x3, c.cause), (0x4, c.epc), (0x5, c.tval), (0x6, c.tvec), (0x7, BitVec.ofNat 64 s.vcc),
   (0x8, BitVec.setWidth 64 s.frameCtr), (0x9, BitVec.ofNat 64 s.me), (0xA, BitVec.ofNat 64 x.domain), (0xB, c.diaga),
   (0xD, (s.core (coreOf s.me)).summary), (0xE, (s.core (coreOf s.me)).einj)]

/-- The engine-state registers, which a read returns with the latency of engine state (04 R95, 20 R429, R431). -/
def engineRegister (s : State) : List (BitVec 17 × Word) :=
  [(0xF, s.snap),
   (0x10, if (s.found.slot s.me).hangIndex < 16 then (s.found.slot s.me).hangRec.get (s.found.slot s.me).hangIndex 0 else 0)]

/-- The registers that a user role may read (02 R37). -/
def userReads (n : BitVec 17) : Bool := n = 1 || n = 2 || n = 7 || n = 8 || n = 9

end Sys2Proof.Said

/-- 02 R37, R38, R39, 04 R95: SYSR returns the value of its register, with latency 1, or of an engine-state register with the latency of
engine state, 8; nothing else changes. A user role reads sys.fpctl, sys.status, sys.vcc, sys.frame and sys.slot alone. -/
def Obligations.SystemReads : Prop :=
  ∀ (st : BitVec 3) (d : BitVec 5) (s : State), Free s → dstOk d s.cur.role = true → Supplied { dst := some d } s →
    (∀ row ∈ systemRegister s, (userReads row.1 = false → s.myRole.sup = true) →
      ∃ t, exec (.sysr st d row.1) s = .next t ∧ Computes (.sysr st d row.1) { dst := some d } d 1 row.2 s t) ∧
    (∀ row ∈ engineRegister s, s.myRole.sup = true →
      ∃ t, exec (.sysr st d row.1) s = .next t ∧ Issued (.sysr st d row.1) (linkOf s.myRole (.sysr st d row.1)) 0 s t ∧
        LateWritten { dst := some d } d 8 row.2 s t ∧ RegsKept none s t ∧ FlagsKept s t ∧ RestKept s t ∧ BytesKept s t) ∧
    (diagOk s.found false = true → s.myRole.sup = true →
      ∃ t, exec (.diagdRead st d) s = .next t ∧ Issued (.diagdRead st d) (linkOf s.myRole (.diagdRead st d)) 0 s t ∧
        LateWritten { dst := some d } d 8 (diagRead s.found) s t ∧ RegsKept none s t ∧ FlagsKept s t ∧ RestKept s t ∧
        BytesKept s t)

namespace Sys2Proof.Said

/-- An instruction that writes a register of its role, its slot, its core or the package, as `P` says, and changes no general register,
flag, queue or byte. -/
def WritesOnly (i : Instr) (u : Use) (s t : State) : Prop :=
  Issued i (linkOf s.myRole i) 0 s t ∧ QueuesMoved u [] s t ∧ RegsKept none s t ∧ FlagsKept s t ∧
    t.myRole.vpend = s.found.myRole.vpend ∧ BytesKept s t

/-- The per-role registers with the bits that a write of `v` leaves, and how the role shows them (02 R37, R43, 07 R133, 20 R405, R406). -/
def roleRegister : List (BitVec 17 × Word × (RoleCtx → Word)) :=
  [(0x3, 0x80000000000003FF, RoleCtx.cause), (0x4, 0xFFFFFFFF, RoleCtx.epc), (0x5, 0xFFFFFFFFFFFFFFFF, RoleCtx.tval),
   (0x6, 0xFFFFFFF, RoleCtx.tvec), (0xB, 0xF0000000000FFFFF, RoleCtx.diaga)]

end Sys2Proof.Said

/-- 02 R37, R38, R43, R45, 04 R96, 07 R133, R134, 20 R405, R406, R428, R429: SYSW leaves in its register the bits of its source that the
register's map marks writable. sys.ctl, sys.domain and INDEX of sys.hang count from the next cycle on; that the slot holds INDEX and that it
counts from the next cycle on is the model's choice (log entry 72). General registers, flags, queues and bytes stay. -/
def Obligations.SystemWrites : Prop :=
  ∀ (st : BitVec 3) (d : BitVec 5) (s : State), Free s → noPort d s.cur.role = true → Supplied { srcs := [d] } s →
    let v := sourceOf { srcs := [d] } s 0
    (∀ row ∈ roleRegister, s.myRole.sup = true →
      ∃ t, exec (.sysw st d row.1) s = .next t ∧ WritesOnly (.sysw st d row.1) { srcs := [d] } s t ∧
        row.2.2 t.myRole = v &&& row.2.1 ∧
        ∀ other ∈ roleRegister, other.1 ≠ row.1 → other.2.2 t.myRole = other.2.2 s.found.myRole) ∧
    (field v 0 3 ≤ 4 → (s.cur.role = .computer → landedFlags s.found s.me = 0) →
      ∃ t, exec (.sysw st d 1) s = .next t ∧ WritesOnly (.sysw st d 1) { srcs := [d] } s t ∧
        t.myRole.fpctl = v &&& 0x3F1F) ∧
    (s.myRole.sup = true →
      (∃ t, exec (.sysw st d 0) s = .next t ∧ WritesOnly (.sysw st d 0) { srcs := [d] } s t ∧
        (t.slot s.me).ctl = (s.slot s.me).ctl ∧ (t.slot s.me).ctlNext = some (v &&& 0xF3)) ∧
      (∃ t, exec (.sysw st d 0xA) s = .next t ∧ WritesOnly (.sysw st d 0xA) { srcs := [d] } s t ∧
        (t.slot s.me).domain = (s.slot s.me).domain ∧ (t.slot s.me).domNext = some (field v 0 4)) ∧
      (∃ t, exec (.sysw st d 0xD) s = .next t ∧ WritesOnly (.sysw st d 0xD) { srcs := [d] } s t ∧
        (t.core (coreOf s.me)).summary = v &&& 0xC0FFFFFF) ∧
      (∃ t, exec (.sysw st d 0x10) s = .next t ∧ WritesOnly (.sysw st d 0x10) { srcs := [d] } s t ∧
        (t.slot s.me).hangIndex = (s.slot s.me).hangIndex ∧ (t.slot s.me).hangNext = some (field v 0 6)) ∧
      (∃ t, exec (.einjArm st d) s = .next t ∧ WritesOnly (.einjArm st d) { srcs := [d] } s t ∧
        (t.core (coreOf s.me)).einj = v &&& 0xFFFFFFFF0000FFF1) ∧
      ∃ t, exec (.snapArm st d) s = .next t ∧ WritesOnly (.snapArm st d) { srcs := [d] } s t ∧
        field t.snap 32 32 = field v 32 32 ∧ t.snap.getLsbD 0 = v.getLsbD 0 ∧ t.snap.getLsbD 2 = v.getLsbD 2 ∧
        t.snap.getLsbD 3 = (s.snap.getLsbD 3 && !v.getLsbD 0) ∧ field t.snap 16 16 = field s.snap 16 16)

/-- 02 R43, R44, 20 R427: through the diagnostic window SYSW of sys.diagd writes the repair word of a bank, and the 64-bit word of a
scratchpad row as it stands in the array, which an injection armed for its line meets, with its record of KIND 10 (20 R428); a write of 0
to word 0x400 of space 6 empties the cluster's error log. -/
def Obligations.DiagnosticWrites : Prop :=
  ∀ (st : BitVec 3) (d : BitVec 5) (s : State), Free s → noPort d s.cur.role = true → Supplied { srcs := [d] } s →
    s.myRole.sup = true →
    let v := sourceOf { srcs := [d] } s 0
    let a := s.found.myRole.diaga
    (field a 60 4 = 2 → field a 0 20 < 32 →
      ∃ t, exec (.diagdWrite st d) s = .next t ∧ Issued (.diagdWrite st d) (linkOf s.myRole (.diagdWrite st d)) 0 s t ∧
        (t.core (coreOf s.me)).repair.get (field a 0 20) 0 = v &&& 0x87FF87FF87FF87FF ∧
        ∀ b, b ≠ field a 0 20 → (t.core (coreOf s.me)).repair.get b 0 = (s.core (coreOf s.me)).repair.get b 0) ∧
    (field a 60 4 = 0 → field a 3 12 < 2052 → (s.core (coreOf s.me)).einj.getLsbD 0 = false →
      ∃ t, exec (.diagdWrite st d) s = .next t ∧ Issued (.diagdWrite st d) (linkOf s.myRole (.diagdWrite st d)) 0 s t ∧
        Mem.readNat (t.core (coreOf s.me)).spad ((field a 15 5 * 2052 + field a 3 12) * 64 + 8 * field a 0 3) 8 = v.toNat ∧
        ∀ i, i < (field a 15 5 * 2052 + field a 3 12) * 64 + 8 * field a 0 3 ∨
            (field a 15 5 * 2052 + field a 3 12) * 64 + 8 * field a 0 3 + 8 ≤ i →
          (t.core (coreOf s.me)).spad.byte i = (s.core (coreOf s.me)).spad.byte i) ∧
    (∀ l, field a 60 4 = 0 → field a 3 12 < 2052 → rawLine (s.core (coreOf s.me)) (field a 15 5) (field a 3 12) = some l →
      einjMatches s (coreOf s.me) (.spad (coreOf s.me) (64 * l)) = true → monitorCount s = 0 →
      ∃ t, exec (.diagdWrite st d) s = .next t ∧ Issued (.diagdWrite st d) (linkOf s.myRole (.diagdWrite st d)) 0 s t ∧
        (t.core (coreOf s.me)).einj = (s.core (coreOf s.me)).einj &&& ~~~1#64 ∧
        (let g := s.cluster (clusterOf s.me)
         ((t.cluster (clusterOf s.me)).log.get g.logHead 0).extractLsb' 56 8 = 10#8)) ∧
    (field a 60 4 = 6 → field a 0 20 = 0x400 → v = 0 →
      ∃ t, exec (.errorLogClear st d) s = .next t ∧ t.issued = true ∧
        (∀ n, (t.cluster (clusterOf s.me)).log.get n 0 = 0) ∧ BytesKept s t)

/-! ### Strands -/

namespace Sys2Proof.Said

/-- The record at `a` passes the checks of its address (11 R232, R233), and nothing disturbs the writes into it. -/
def Record (s : State) (a : Word) (s1 : State) (ref : RecRef) : Prop :=
  a.toNat % 64 = 0 ∧
    translateRecord s.found (coreOf s.me) (s.found.slot s.me).domain a.toNat s.found.myRole.sup s.me = (s1, .ok ref) ∧
    RecQuiet s1 ref.pa

/-- Every byte but the record's 64 reads as in `s1`. -/
def BytesButRecord (s1 t : State) (pa : Nat) : Prop := ∀ q, Outside q (.deep pa) 64 → rawRead t q 1 = rawRead s1 q 1

/-- The record is placed in its cluster's ready queue. -/
def Placed (s s1 t : State) (ref : RecRef) (fresh : Bool) : Prop :=
  ∃ e, (t.cluster (clusterOf s.me)).ready = (s1.cluster (clusterOf s.me)).ready ++ [e] ∧ e.ref = ref ∧ e.fresh = fresh ∧
    e.prio = recPrio s1 ref.pa

/-- The use of SPAWN and SPAWNJ: the address, s[b], and the registers s1 to s5 that the record takes. -/
def spawnUse (d a b : BitVec 5) : Use := { srcs := [a, b, 1, 2, 3, 4, 5], dst := some d }

/-- The status that SPAWN and SPAWNJ return, until which the role issues nothing more; in a TIMED strand it comes 64 ticks later
(11 R231). -/
def Replies (i : Instr) (u : Use) (d : BitVec 5) (v : Nat) (s t : State) : Prop :=
  Issued i (linkOf s.myRole i) 0 s t ∧ RegsKept none s t ∧ FlagsKept s t ∧
    ∃ due, (isTimed s → due = s.now + 64) ∧ Delivers u d (BitVec.ofNat 64 v) due s t ∧
      t.myRole.blockUntil = due

end Sys2Proof.Said

/-- 11 R231, R232, 12 R260: SPAWN of a READY record of a live scope whose event condition holds, with room on chip, gives status 0: the
record is RUNNING with join count 0, s[b] in s1 and the issuer's s2 to s5, it stands last in the ready queue, and its scope counts it.
SPAWN of a DORMANT record puts s[b] in s1 and leaves the other registers: with a join count of 0 it runs as a resume, status 0, else it is
WAITJOIN, status 2, and its scope counts a dormant strand no more while it waits. SPAWNJ with a nonzero count leaves the record WAITJOIN
with that count and the issuer's s1 to s5, status 2. A record that is neither READY nor DORMANT gives status 4, one of a cancelling or
cancelled scope status 3, and stays. No other byte changes. -/
def Obligations.SpawnPlacesRecord : Prop :=
  ∀ (st : BitVec 3) (d a b : BitVec 5) (s s1 : State) (ref : RecRef), Free s → dstOk d s.cur.role = true →
    Supplied (spawnUse d a b) s → Settled s → Record s (sourceOf (spawnUse d a b) s 0) s1 ref →
    let v (k : Nat) : Word := sourceOf (spawnUse d a b) s k
    let ready : Prop := recState s1 ref.pa = stReady ∧ (s.myRole.sup = true ∨ 8 ≤ recPrio s1 ref.pa)
    let live : Prop := (s1.scope (recScope s1 ref.pa)).state < scCancelling
    let counted : Bool := s1.dormant.any (fun e => e.1.pa = ref.pa)
    (ready → live → recEventHolds s1 (clusterOf s.me) ref.pa = true → (s1.cluster (clusterOf s.me)).ready.length < 960 →
      ∃ t, exec (.spawn st d a b) s = .next t ∧ Replies (.spawn st d a b) (spawnUse d a b) d 0 s t ∧
        recState t ref.pa = stRunning ∧ recJoinc t ref.pa = 0 ∧ recReg t ref.pa 1 = v 1 ∧
        (∀ k, 2 ≤ k → k ≤ 5 → recReg t ref.pa k = v (k + 1)) ∧
        (t.scope (recScope s1 ref.pa)).live = ((s1.scope (recScope s1 ref.pa)).live + 1) % 2 ^ 24 ∧
        Placed s s1 t ref true ∧ BytesButRecord s1 t ref.pa) ∧
    (recState s1 ref.pa = stDormant → (s.myRole.sup = true ∨ 8 ≤ recPrio s1 ref.pa) → live →
      (recJoinc s1 ref.pa = 0 → recEventHolds s1 (clusterOf s.me) ref.pa = true →
        (s1.cluster (clusterOf s.me)).ready.length < 1024 →
        ∃ t, exec (.spawn st d a b) s = .next t ∧ Replies (.spawn st d a b) (spawnUse d a b) d 0 s t ∧
          recState t ref.pa = stRunning ∧ recReg t ref.pa 1 = v 1 ∧
          (t.scope (recScope s1 ref.pa)).live =
            (if counted then (s1.scope (recScope s1 ref.pa)).live else ((s1.scope (recScope s1 ref.pa)).live + 1) % 2 ^ 24) ∧
          (∀ k, 2 ≤ k → k ≤ 5 → recReg t ref.pa k = recReg s1 ref.pa k) ∧ Placed s s1 t ref false ∧
          BytesButRecord s1 t ref.pa) ∧
      (recJoinc s1 ref.pa ≠ 0 →
        ∃ t, exec (.spawn st d a b) s = .next t ∧ Replies (.spawn st d a b) (spawnUse d a b) d 2 s t ∧
          recState t ref.pa = stWaitJoin ∧ recJoinc t ref.pa = recJoinc s1 ref.pa ∧ recReg t ref.pa 1 = v 1 ∧
          (t.scope (recScope s1 ref.pa)).live =
            (if counted then (s1.scope (recScope s1 ref.pa)).live - 1 else (s1.scope (recScope s1 ref.pa)).live) ∧
          (t.cluster (clusterOf s.me)).ready = (s1.cluster (clusterOf s.me)).ready ∧ BytesButRecord s1 t ref.pa)) ∧
    (ready → live → v 1 ≠ 0 → (v 1).toNat ≤ 65535 →
      ∃ t, exec (.spawnj st d a b) s = .next t ∧ Replies (.spawnj st d a b) (spawnUse d a b) d 2 s t ∧
        recState t ref.pa = stWaitJoin ∧ recJoinc t ref.pa = (v 1).toNat ∧
        (∀ k, 1 ≤ k → k ≤ 5 → recReg t ref.pa k = v (k + 1)) ∧
        (t.cluster (clusterOf s.me)).ready = (s1.cluster (clusterOf s.me)).ready ∧ BytesButRecord s1 t ref.pa) ∧
    (recState s1 ref.pa ≠ stReady → recState s1 ref.pa ≠ stDormant →
      ∃ t, exec (.spawn st d a b) s = .next t ∧ Replies (.spawn st d a b) (spawnUse d a b) d 4 s t ∧ BytesAsIn s1 t) ∧
    (ready → ¬ live →
      ∃ t, exec (.spawn st d a b) s = .next t ∧ Replies (.spawn st d a b) (spawnUse d a b) d 3 s t ∧ BytesAsIn s1 t)

/-- 11 R231, R233: JOIN lowers the count of a WAITJOIN record; at 0, the record, whose scope lives and whose event condition holds,
runs as a resume of the cluster. The role issues nothing more until the reply, which in a TIMED strand takes 64 ticks. -/
def Obligations.JoinCountsDown : Prop :=
  ∀ (st : BitVec 3) (a : BitVec 5) (s s1 : State) (ref : RecRef), Free s → Supplied { srcs := [a] } s → Settled s →
    Record s (sourceOf { srcs := [a] } s 0) s1 ref → recState s1 ref.pa = stWaitJoin →
    (s1.scope (recScope s1 ref.pa)).state < scCancelling →
    (1 < recJoinc s1 ref.pa →
      ∃ t, exec (.join st a) s = .next t ∧ Issued (.join st a) (linkOf s.myRole (.join st a)) 0 s t ∧
        (isTimed s → t.myRole.blockUntil = s.now + 64) ∧ recJoinc t ref.pa = recJoinc s1 ref.pa - 1 ∧ recState t ref.pa = stWaitJoin ∧
        BytesButRecord s1 t ref.pa ∧ RegsKept none s t ∧ FlagsKept s t) ∧
    (recJoinc s1 ref.pa = 1 → recEventHolds s1 (clusterOf s.me) ref.pa = true →
      (s1.cluster (clusterOf s.me)).ready.length < 1024 →
      ∃ t, exec (.join st a) s = .next t ∧ Issued (.join st a) (linkOf s.myRole (.join st a)) 0 s t ∧
        (isTimed s → t.myRole.blockUntil = s.now + 64) ∧ recJoinc t ref.pa = 0 ∧ recState t ref.pa = stRunning ∧ Placed s s1 t ref false ∧
        BytesButRecord s1 t ref.pa ∧ RegsKept none s t ∧ FlagsKept s t)

/-- 11 R235: EXIT of a role with no result and no access on its way stops that role alone while another still runs; of the last, the
strand leaves its slot, whose data queues are discarded: its record is FREE with FLAGS 0, its SMASK bits are set in its event group, its
scope counts one strand less, and no other byte and no other slot changes. -/
def Obligations.ExitStopsRole : Prop :=
  ∀ (st : BitVec 3) (s : State) (x : Strand), Free s → Settled s → s.found.myRole.vpend = [] → queueResultDue s.found = false →
    unfinishedBlock s.found = none → (s.slot s.me).strand = some x →
    ((∃ r, r ≠ s.cur.role ∧ (s.found.role s.me r).runs = true) →
      ∃ t, exec (.exit st) s = .next t ∧ Issued (.exit st) (linkOf s.myRole (.exit st)) 0 s t ∧ t.myRole.exited = true ∧
        (t.slot s.me).strand = (s.slot s.me).strand ∧ (∀ r, r ≠ s.cur.role → t.role s.me r = s.found.role s.me r) ∧
        (∀ q, t.queue s.me q = s.found.queue s.me q) ∧ RegsKept none s t ∧ FlagsKept s t ∧ BytesKept s t) ∧
    ((∀ r, r ≠ s.cur.role → (s.found.role s.me r).runs = false) →
      ∃ t, exec (.exit st) s = .next t ∧ t.issued = true ∧ (t.slot s.me).strand = none ∧ (∀ q, t.queue s.me q = []) ∧
        (x.boot = false → x.timed = false → RecQuiet s x.ref.pa → (∀ r, (s.found.role s.me r).outst = []) →
          (s.slot s.me).pending = [] → (s.slot s.me).saveArea = none → (s.slot s.me).victimOf = none →
          (∀ m ∈ s.members, m.record ≠ x.ref.pa) → (s.scope x.scope).state = scLive →
          recState t x.ref.pa = stFree ∧ recFlags t x.ref.pa = 0 ∧
            (t.scope x.scope).live = (s.scope x.scope).live - 1 ∧ (∀ c, c ≠ x.scope → t.scope c = s.scope c) ∧
            (t.cluster (clusterOf s.me)).changes = (s.cluster (clusterOf s.me)).changes ++
              (if x.smask = 0 then [] else [(s.cycle, true, field (BitVec.setWidth 64 x.groups) 0 4, x.smask)]) ∧
            SlotsKept (· = s.me) s t ∧ ∀ q, q ≠ .deep (x.ref.pa + 15) → rawRead t q 1 = rawRead s q 1))

namespace Sys2Proof.Said

/-- The instructions that suspend without a condition, with the state their record will take (11 R236). -/
def suspending (st : BitVec 3) : List (Instr × SuspKind) := [(.yield st, .yield), (.susp st, .dormant)]

end Sys2Proof.Said

/-- 11 R221, R236, R237, 12 R257: YIELD and SUSP suspend the strand with its next address behind them; EVWAIT goes on where every bit
of its mask is set in its group, and TWAIT where the frame counter has reached its threshold, and otherwise they suspend the
strand. -/
def Obligations.WaitsSuspend : Prop :=
  ∀ (st : BitVec 3) (a b : BitVec 5) (s : State), Free s → ¬ isTimed s → (s.slot s.me).susp = none →
    (∀ row ∈ suspending st,
      (row.2 = .yield → s.cur.role = .computer → (s.slot s.me).handlers.head? ≠ some (.computer, 14)) →
      ∃ t, exec row.1 s = .next t ∧ Suspends row.1 row.2 (linkOf s.myRole row.1) s t) ∧
    (Supplied { srcs := [a, b] } s →
      let g := sourceOf { srcs := [a, b] } s 0
      let m := sourceOf { srcs := [a, b] } s 1
      g.toNat < 16 → m.toNat < 65536 → groupOwner s (clusterOf s.me) g.toNat = (s.slot s.me).domain →
      ((eventGroup s (clusterOf s.me) g.toNat).toNat &&& m.toNat = m.toNat →
        ∃ t, exec (.evwait st a b) s = .next t ∧
          GoesOn (.evwait st a b) { srcs := [a, b] } (linkOf s.myRole (.evwait st a b)) 0 s t) ∧
      ((eventGroup s (clusterOf s.me) g.toNat).toNat &&& m.toNat ≠ m.toNat →
        ∃ t, exec (.evwait st a b) s = .next t ∧
          Suspends (.evwait st a b) (.event (BitVec.ofNat 16 m.toNat) g.toNat) (linkOf s.myRole (.evwait st a b)) s t)) ∧
    (Supplied { srcs := [a] } s →
      let th : BitVec 48 := BitVec.ofNat 48 (sourceOf { srcs := [a] } s 0).toNat
      (0 ≤ (s.frameCtr - th).toInt →
        ∃ t, exec (.twait st a) s = .next t ∧ GoesOn (.twait st a) { srcs := [a] } (linkOf s.myRole (.twait st a)) 0 s t) ∧
      ((s.frameCtr - th).toInt < 0 →
        ∃ t, exec (.twait st a) s = .next t ∧ Suspends (.twait st a) (.frame th) (linkOf s.myRole (.twait st a)) s t))

/-- 11 R239: PRIO gives the strand its new priority, 0 to 63 and below 8 for a supervisor alone, and returns the old one. -/
def Sys2Proof.Said.PrioReturnsOld : Prop :=
  ∀ (st : BitVec 3) (d a : BitVec 5) (s : State) (x : Strand), Free s → dstOk d s.cur.role = true → Supplied (ru d a) s →
    ¬ isTimed s → (s.slot s.me).strand = some x → (sourceOf (ru d a) s 0).toNat ≤ 63 →
    (s.myRole.sup = true ∨ 8 ≤ (sourceOf (ru d a) s 0).toNat) →
      ∃ t, exec (.prio st d a) s = .next t ∧ Issued (.prio st d a) (linkOf s.myRole (.prio st d a)) 0 s t ∧
        RegWritten d 1 (BitVec.ofNat 64 x.prio) s t ∧ RegsKept (some d) s t ∧ FlagsKept s t ∧
        ((t.slot s.me).strand.map (·.prio)) = some (sourceOf (ru d a) s 0).toNat ∧ BytesKept s t

namespace Sys2Proof.Said

/-- A change of the kind `set` is due by cycle `at'` for bit `i` of group `g`. -/
def ChangeDue (c : Cluster) (at' : Nat) (set : Bool) (g i : Nat) : Prop :=
  ∃ e ∈ c.changes, e.1 ≤ at' ∧ e.2.1 = set ∧ e.2.2.1 = g ∧ e.2.2.2.getLsbD i = true

/-- The value of an EVTEST that is still to be bound: its group, as it stands in cycle `at'`. -/
def testOf (g at' due : Nat) : Late := { val := 0, due := due, events := some (g, at') }

end Sys2Proof.Said

/-- 11 R224, R238: EVSET and EVCLR of a group that the domain owns change the bits of their mask 2 cycles after issue; EVTEST returns
its group as it stands then, into a register or a store queue, with the timed latency 4. As a cycle begins, the changes due in it take
effect, a set before a clear of one bit; an EVTEST whose cycle has come takes its group's bits. -/
def Sys2Proof.Said.EventsChangeLater : Prop :=
  (∀ (st : BitVec 3) (d a b : BitVec 5) (s : State), Free s →
    (Supplied { srcs := [a, b] } s → Idle s →
      let g := sourceOf { srcs := [a, b] } s 0
      let m := sourceOf { srcs := [a, b] } s 1
      g.toNat < 16 → m.toNat < 65536 → groupOwner s (clusterOf s.me) g.toNat = (s.slot s.me).domain →
      ∀ row ∈ [(Instr.evset st a b, true), (Instr.evclr st a b, false)],
        ∃ t, exec row.1 s = .next t ∧ Issued row.1 (linkOf s.myRole row.1) 0 s t ∧
          (t.cluster (clusterOf s.me)).changes =
            (s.cluster (clusterOf s.me)).changes ++ [(s.cycle + 2, row.2, g.toNat, BitVec.ofNat 16 m.toNat)] ∧
          (t.cluster (clusterOf s.me)).events = (s.cluster (clusterOf s.me)).events ∧ RegsKept none s t ∧ FlagsKept s t ∧
          BytesKept s t) ∧
    (Supplied (ru d a) s → dstOk d s.cur.role = true → (sourceOf (ru d a) s 0).toNat < 16 →
      groupOwner s (clusterOf s.me) (sourceOf (ru d a) s 0).toNat = (s.slot s.me).domain →
        ∃ t due, exec (.evtest st d a) s = .next t ∧ Issued (.evtest st d a) (linkOf s.myRole (.evtest st d a)) 0 s t ∧
          (isTimed s → due = s.now + 4) ∧
          (let l := testOf (sourceOf (ru d a) s 0).toNat (s.cycle + 2) due
           if pushesQueue s.cur.role d = none then
             t.myRole.vpend = s.found.myRole.vpend ++ [⟨.sreg d.toNat, l⟩] ∧ QueuesMoved (ru d a) [] s t
           else t.myRole.vpend = s.found.myRole.vpend ∧ QueuesMoved (ru d a) [l] s t) ∧
          RegsKept none s t ∧ FlagsKept s t ∧ BytesKept s t)) ∧
  (∀ (s : State) (k g i : Nat), s.powered = true → s.agenda = [] → s.strikes = [] → 16 * k ∈ usedSlots s → k < 16 → g < 16 →
    i < 16 → (∀ j, (s.cluster j).wait = []) →
      ∃ t, step s = .next t ∧ t.cycle = s.cycle + 1 ∧
        ((eventGroup t k g).getLsbD i = true ↔
          ChangeDue (s.cluster k) (s.cycle + 1) true g i ∨
            (eventGroup s k g).getLsbD i = true ∧ ¬ ChangeDue (s.cluster k) (s.cycle + 1) false g i)) ∧
  (∀ (s : State) (r : Role) (n q g at' due : Nat), at' ≤ s.cycle → due ≤ s.clock s.me →
    ((s.role s.me r).vpend = [⟨.sreg n, testOf g at' due⟩] → n ≠ 0 → (s.role s.me r).pend = [] →
      ∃ t, exec .variableResultLand s = .next t ∧ (t.role s.me r).vpend = [] ∧
        ∀ j now, (t.role s.me r).reg j now =
          if j = n then BitVec.setWidth 64 (eventGroup s (clusterOf s.me) g) else (s.role s.me r).reg j now) ∧
    (s.queue s.me q = [testOf g at' due] →
      ∃ t, exec .variableResultLand s = .next t ∧
        t.queue s.me q = [{ val := BitVec.setWidth 64 (eventGroup s (clusterOf s.me) g), due := due }]))

/-- 11 R224, R238, R239: PRIO changes the strand's priority; the event instructions change and read event groups. -/
def Obligations.PrioritiesAndEvents : Prop := PrioReturnsOld ∧ EventsChangeLater

/-! ### Phasers -/

namespace Sys2Proof.Said

/-- The key of the issuing strand's memberships. -/
def mine (s : State) : Nat := myKey s

/-- A phaser instruction's operand names a live phaser of the domain, in a strand that is not TIMED (15 R328). -/
def PhaserOk (s : State) (a : Word) : Prop :=
  a.toNat < 256 ∧ (s.phaser a.toNat).live = true ∧ (s.phaser a.toNat).dom = (s.slot s.me).domain ∧ ¬ isTimed s

/-- The phase of the phaser does not stand empty (15 R324). -/
def Open (s : State) (p : Nat) : Prop := (s.phaser p).out ≠ 0 ∨ (s.phaser p).held = true

/-- An instruction with a destination that returns `v` with the timed latency `lat`. -/
def Returns (i : Instr) (u : Use) (d : BitVec 5) (lat : Nat) (v : Word) (s t : State) : Prop :=
  Issued i (linkOf s.myRole i) 0 s t ∧ LateWritten u d lat v s t ∧ RegsKept none s t ∧ FlagsKept s t

/-- The registrations with their mode: 1 signals, 2 waits, 3 both (15 R330). -/
def registrations (st : BitVec 3) (d a b : BitVec 5) : List (Instr × Nat) :=
  [(.phregS st d a b, 1), (.phregW st d a b, 2), (.phregSw st d a b, 3)]

end Sys2Proof.Said

/-- 15 R329, R330: PHNEW makes the lowest free phaser live at phase 0, its creator a member in the mode named; PHREG makes its strand
a member, which signals from the phase after the running one and waits from the running one. Each returns its status, and no byte
changes. -/
def Obligations.PhaserCreationAndRegistration : Prop :=
  ∀ (st : BitVec 3) (d a b : BitVec 5) (s : State), Free s → dstOk d s.cur.role = true → ¬ isTimed s →
    (∀ p, Supplied (ru d a) s → (sourceOf (ru d a) s 0).toNat < 4 → p < 256 → (s.phaser p).live = false →
      (∀ j, j < p → (s.phaser j).live = true) → s.members.length < 4096 →
      let mode := (sourceOf (ru d a) s 0).toNat
      ∃ t, exec (.phnew st d a) s = .next t ∧ Returns (.phnew st d a) (ru d a) d 16 (BitVec.ofNat 64 p) s t ∧
        (t.phaser p).live = true ∧ (t.phaser p).dom = (s.slot s.me).domain ∧ (t.phaser p).phase = 0 ∧
        (t.phaser p).ns = (if mode = 1 ∨ mode = 3 then 1 else 0) ∧ (t.phaser p).out = (if mode = 1 ∨ mode = 3 then 1 else 0) ∧
        t.members = s.members ++ (if mode = 0 then [] else [⟨mine s, p, mode, 0, 0, false⟩]) ∧ BytesKept s t) ∧
    (∀ row ∈ registrations st d a b, Supplied (rr d a b) s → PhaserOk s (sourceOf (rr d a b) s 0) →
      sourceOf (rr d a b) s 1 = 0 → memberOf s (mine s) (sourceOf (rr d a b) s 0).toNat = none → s.members.length < 4096 →
      let p := (sourceOf (rr d a b) s 0).toNat
      ∃ t, exec row.1 s = .next t ∧ Returns row.1 (rr d a b) d 16 0 s t ∧
        t.members = s.members ++ [⟨mine s, p, row.2, if row.2 = 1 ∨ row.2 = 3 then (s.phaser p).phase + 1 else 0,
          if row.2 = 2 ∨ row.2 = 3 then (s.phaser p).phase else 0, false⟩] ∧
        (t.phaser p).ns = (s.phaser p).ns + (if row.2 = 1 ∨ row.2 = 3 then 1 else 0) ∧
        (t.phaser p).phase = (s.phaser p).phase ∧ BytesKept s t)

/-- 15 R331, R332, R333: PHSIG of a member whose MP is the running phase, not the last signaller of it, raises MP and lowers the count
of signals awaited; PHDROP of such a member that only waits removes it; PHWAIT and, for a member that has signalled, PHNEXT pass
once the phase is beyond WP, and otherwise suspend the strand. -/
def Obligations.PhaserSignalsAndWaits : Prop :=
  ∀ (st : BitVec 3) (a : BitVec 5) (s : State) (m : Member), Free s → Idle s → Supplied { srcs := [a] } s →
    PhaserOk s (sourceOf { srcs := [a] } s 0) → (s.slot s.me).susp = none →
    let p := (sourceOf { srcs := [a] } s 0).toNat
    memberOf s (mine s) p = some m → m.data = false → Open s p →
    (m.signals = true → m.mp = (s.phaser p).phase → 2 ≤ (s.phaser p).out →
      ∃ t, exec (.phsig st a) s = .next t ∧ Issued (.phsig st a) (linkOf s.myRole (.phsig st a)) 0 s t ∧
        (t.phaser p).out = (s.phaser p).out - 1 ∧ (t.phaser p).phase = (s.phaser p).phase ∧
        t.members = s.members.map (fun x => if x.record = m.record ∧ x.phaser = m.phaser then { m with mp := m.mp + 1 } else x) ∧
        RegsKept none s t ∧ FlagsKept s t ∧ BytesKept s t) ∧
    (m.mode = 2 → (s.members.any (fun x => decide (x.phaser = p ∧ x.record ≠ m.record)) = true) →
      ∃ t, exec (.phdrop st a) s = .next t ∧ Issued (.phdrop st a) (linkOf s.myRole (.phdrop st a)) 0 s t ∧
        t.members = s.members.filter (fun x => !decide (x.record = m.record ∧ x.phaser = p)) ∧
        (t.phaser p).out = (s.phaser p).out ∧ (t.phaser p).ns = (s.phaser p).ns ∧ RegsKept none s t ∧ FlagsKept s t ∧
        BytesKept s t) ∧
    (m.waits = true → (m.mode = 3 → m.mp ≠ m.wp) →
      ∀ i ∈ [Instr.phwait st a, Instr.phnext st a],
        (0 < ((s.phaser p).phase - m.wp).toInt →
          ∃ t, exec i s = .next t ∧ Issued i (linkOf s.myRole i) 0 s t ∧
            t.members = s.members.map (fun x => if x.record = m.record ∧ x.phaser = m.phaser then { m with wp := m.wp + 1 } else x) ∧
            RegsKept none s t ∧ FlagsKept s t ∧ BytesKept s t) ∧
        (((s.phaser p).phase - m.wp).toInt ≤ 0 → ∃ t, exec i s = .next t ∧ Suspends i (.phaser p) s.myRole.pc s t ∧ BytesKept s t))

/-- 15 R334, R335: PHLINK links a phaser without a parent below another of the domain with its ratio, and returns 0; PHQRY returns
the phaser's word or, with bit 8 of its operand, the strand's membership, each field in its bits. -/
def Obligations.PhaserLinkAndQuery : Prop :=
  ∀ (st : BitVec 3) (d a b : BitVec 5) (s : State), Free s → dstOk d s.cur.role = true →
    (Supplied (rr d a b) s → PhaserOk s (sourceOf (rr d a b) s 0) →
      let p := (sourceOf (rr d a b) s 0).toNat
      let w := sourceOf (rr d a b) s 1
      w.toNat < 65536 → field w 8 8 ≠ 0 → (s.phaser (field w 0 8)).live = true →
      (s.phaser (field w 0 8)).dom = (s.slot s.me).domain → (s.phaser p).ratio = 0 → badLink s p (field w 0 8) = false →
      p ≠ field w 0 8 →
        ∃ t, exec (.phlink st d a b) s = .next t ∧ Returns (.phlink st d a b) (rr d a b) d 16 0 s t ∧
          (t.phaser p).parent = field w 0 8 ∧ (t.phaser p).ratio = field w 8 8 ∧ (t.phaser p).rcnt = 0 ∧
          (t.phaser (field w 0 8)).ns = (s.phaser (field w 0 8)).ns + 1 ∧ BytesKept s t) ∧
    (Supplied (ru d a) s → (sourceOf (ru d a) s 0).toNat < 512 →
      let p := field (sourceOf (ru d a) s 0) 0 8
      let x := s.phaser p
      ((s.phaser p).live = true → x.dom = (s.slot s.me).domain) →
        ∃ t v, exec (.phqry st d a) s = .next t ∧ Returns (.phqry st d a) (ru d a) d 16 v s t ∧ BytesKept s t ∧
          ((sourceOf (ru d a) s 0).toNat < 256 → x.live = false → v = 0) ∧
          ((sourceOf (ru d a) s 0).toNat < 256 → x.live = true →
            field v 0 16 = x.phase.toNat ∧ field v 16 13 = x.out % 2 ^ 13 ∧ field v 29 13 = x.ns % 2 ^ 13 ∧
            field v 42 8 = x.ratio % 256 ∧ field v 50 8 = x.parent % 256 ∧ field v 58 1 = (if x.held then 1 else 0) ∧
            field v 59 1 = 1 ∧ field v 60 4 = x.dom % 16) ∧
          (256 ≤ (sourceOf (ru d a) s 0).toNat → memberOf s (mine s) p = none → v = 0) ∧
          (256 ≤ (sourceOf (ru d a) s 0).toNat → ∀ m, memberOf s (mine s) p = some m →
            field v 0 16 = (if m.mode = 1 ∨ m.mode = 3 then m.mp.toNat else 0) ∧
            field v 16 16 = (if m.mode = 2 ∨ m.mode = 3 then m.wp.toNat else 0) ∧ field v 32 2 = m.mode % 4 ∧
            field v 34 1 = (if m.data then 1 else 0) ∧ field v 35 29 = 1))

/-! ### Cancel scopes, frames, staging -/

namespace Sys2Proof.Said

/-- Nothing belongs to scope `c`: no strand, command, copy, waiting record or live descendant (12 R260). -/
def Alone (s : State) (c : Nat) : Prop :=
  (∀ e ∈ s.scopes, e.2.state = scLive → inSubtree s c e.1 33 = true → e.1 = c) ∧
    (∀ k x, (s.slot k).strand = some x → x.scope ≠ c) ∧
    (∀ k, (∀ e ∈ (s.slot k).journal, e.scope ≠ c) ∧ ∀ m ∈ (s.slot k).lift, m.scope ≠ c) ∧
    (∀ k, ∀ m ∈ (s.core k).vq ++ (s.core k).mq, m.scope ≠ c) ∧
    (∀ k, k < 16 → recordsOf s [c] k = []) ∧
    (∀ w ∈ s.phWait, recScope s w.1.pa ≠ c) ∧ ∀ w ∈ s.dormant, w.2 ≠ c

end Sys2Proof.Said

/-- 12 R259, R261, R264: SCOPE makes the lowest free entry from 16 up a live child of its parent, of the parent's domain and one
deeper, with the event bit and acknowledgement address of its operand; the parent counts one more. SCQRY returns bits [63:0] of its
entry, 0 for a free one. No byte changes. -/
def Obligations.ScopesCreateAndQuery : Prop :=
  ∀ (st : BitVec 3) (d a b : BitVec 5) (s : State), Free s → dstOk d s.cur.role = true →
    (Supplied (rr d a b) s →
      let p := (sourceOf (rr d a b) s 0).toNat
      let w := sourceOf (rr d a b) s 1
      let x := s.scope p
      ∀ c, p < 16384 → field w 1 2 = 0 → x.dom = (s.slot s.me).domain →
      (w.getLsbD 0 = true → groupOwner s (clusterOf s.me) (field w 60 4) = (s.slot s.me).domain) →
      x.state = scLive → x.depth ≠ 32 → 16 ≤ c → c < 16384 → (s.scope c).state = scFree →
      (∀ j, 16 ≤ j → j < c → (s.scope j).state ≠ scFree) →
        ∃ t, exec (.scope st d a b) s = .next t ∧ Returns (.scope st d a b) (rr d a b) d 32 (BitVec.ofNat 64 c) s t ∧
          t.scope c = { state := scLive, parent := p, live := 0, depth := x.depth + 1, even := w.getLsbD 0, dom := x.dom,
                        ecl := clusterOf s.me, evb := field w 56 8, ack := BitVec.ofNat 56 (field w 3 53 * 8) } ∧
          (t.scope p).live = (x.live + 1) % 2 ^ 24 ∧ (∀ j, j ≠ c → j ≠ p → t.scope j = s.scope j) ∧ BytesKept s t) ∧
    (Supplied (ru d a) s → (sourceOf (ru d a) s 0).toNat < 16384 →
      let x := s.scope (sourceOf (ru d a) s 0).toNat
      (x.state = scLive ∨ x.state = scCancelling → x.dom = (s.slot s.me).domain) →
        ∃ t v, exec (.scqry st d a) s = .next t ∧ Returns (.scqry st d a) (ru d a) d 16 v s t ∧ BytesKept s t ∧
          (x.state = scFree → v = 0) ∧
          (x.state ≠ scFree →
            field v 0 14 = x.parent % 2 ^ 14 ∧ field v 14 2 = x.state % 4 ∧ field v 16 24 = x.live % 2 ^ 24 ∧
            field v 40 6 = x.depth % 64 ∧ field v 46 1 = 0 ∧ field v 47 1 = (if x.even then 1 else 0) ∧
            field v 48 4 = x.dom % 16 ∧ field v 52 4 = x.ecl % 16 ∧ field v 56 8 = x.evb % 256))

/-- 12 R262, R263, R265: CANCEL of a live scope that nothing belongs to leaves it cancelled, its parent counting one less; of a
cancelling or cancelled scope it has no effect. SCACK of a cancelled scope returns the word at its acknowledgement address and, with
bit 0 of s[b], frees the entry; of a scope that is not yet cancelled it suspends the strand on that word. -/
def Obligations.CancelAndAcknowledge : Prop :=
  ∀ (st : BitVec 3) (d a b : BitVec 5) (s : State), Free s →
    (Supplied { srcs := [a] } s → Idle s →
      let c := (sourceOf { srcs := [a] } s 0).toNat
      let x := s.scope c
      c < 16384 → x.state ≠ scFree → x.dom = (s.slot s.me).domain → (16 ≤ c ∨ s.myRole.sup = true) →
      (x.state ≠ scLive →
        ∃ t, exec (.cancel st a) s = .next t ∧ GoesOn (.cancel st a) { srcs := [a] } (linkOf s.myRole (.cancel st a)) 0 s t) ∧
      (x.state = scLive → x.live = 0 → x.depth ≤ 32 → x.ack = 0 → x.even = false → x.parent ≠ c →
        (s.scope x.parent).state = scLive → Alone s c →
        ∃ t, exec (.cancel st a) s = .next t ∧ Issued (.cancel st a) (linkOf s.myRole (.cancel st a)) 0 s t ∧
          t.scope c = { x with state := scCancelled } ∧ (t.scope x.parent).live = (s.scope x.parent).live - 1 ∧
          (∀ j, j ≠ c → j ≠ x.parent → t.scope j = s.scope j) ∧ (∀ q ∈ t.parks, q.scope ≠ c) ∧
          RegsKept none s t ∧ FlagsKept s t ∧ BytesKept s t)) ∧
    (Supplied (rr d a b) s → dstOk d s.cur.role = true → ¬ isTimed s → (s.slot s.me).susp = none →
      let c := (sourceOf (rr d a b) s 0).toNat
      let x := s.scope c
      ∀ s1 p, c < 16384 → x.state ≠ scFree → x.ack ≠ 0 → x.dom = (s.slot s.me).domain →
      Reaches s (BitVec.setWidth 64 x.ack) 8 .read s1 p →
      (x.state = scCancelled → Sound s1 p →
        ∃ t, exec (.scack st d a b) s = .next t ∧
          Returns (.scack st d a b) (rr d a b) d (accessLatency s.me p) (BitVec.ofNat 64 (rawRead s1 p 8)) s t ∧
          t.scope c = (if (sourceOf (rr d a b) s 1).getLsbD 0 then {} else x) ∧ (∀ j, j ≠ c → t.scope j = s.scope j) ∧
          BytesAsIn s1 t) ∧
      (x.state ≠ scCancelled →
        ∃ t, exec (.scack st d a b) s = .next t ∧
          Suspends (.scack st d a b) (.monitor (BitVec.setWidth 64 x.ack) p) s.myRole.pc s t ∧ BytesAsIn s1 t))

namespace Sys2Proof.Said

/-- What FRAMEQ returns by its operand (12 R258). -/
def frameWords (s : State) : List (Nat × Nat) :=
  [(0, s.frameCtr.toNat), (1, s.ring.frameNo % 2 ^ 48), (2, if s.frame.no = 0 then 0 else min 511 (s.vcc - s.frame.start)),
   (3, if s.frame.no = 0 then 0 else field (s.frame.header.extractLsb' 64 64) 0 16), (4, s.slips % 2 ^ 32)]

/-- The header that SEGHDR reads: the last late one, or that of the strand's block or the current frame (18 R396). -/
def headerOf (s : State) (late : Bool) : BitVec 512 :=
  if late then s.lastHeader
  else if (s.slot s.me).timed = true then
    (match (s.slot s.me).block with
     | some b => b.header
     | none => s.frame.header)
  else s.frame.header

/-- The block of a TIMED strand before its check. -/
def InBlock (s : State) (b : Block) : Prop := (s.slot s.me).block = some b ∧ (s.slot s.me).timed = true ∧ b.checked = false

/-- No matrix command of the slot is left. -/
def NoMatrix (s : State) : Prop :=
  (∀ m ∈ (s.core (coreOf s.me)).mq, m.slot ≠ s.me) ∧
    ∀ r ∈ (s.core (coreOf s.me)).mrun, r.cmd.slot ≠ s.me ∨ r.landedAt ≠ 0

/-- A buffer has one hold less; a HELD one whose last it was is FREE (18 R385). -/
def HoldGone (s t : State) (n : Nat) : Prop :=
  if (s.buf n).st = .held ∧ (s.buf n).holds ≤ 1 then (t.buf n).st = .free else (t.buf n).holds = (s.buf n).holds - 1

end Sys2Proof.Said

/-- 12 R258, 18 R396: FRAMEQ returns the frame counter, the ring's frame, the tick of the frame, its timetable index or the count of
slips, with the timed latency 4; SEGHDR of the loader returns a doubleword of a header, with the timed latency 8. No byte
changes. -/
def Sys2Proof.Said.FrameQueries : Prop :=
  ∀ (st : BitVec 3) (d a : BitVec 5) (s : State), Free s → dstOk d s.cur.role = true → Supplied (ru d a) s →
    let v := (sourceOf (ru d a) s 0).toNat
    (∀ row ∈ frameWords s, v = row.1 →
      ∃ t, exec (.frameq st d a) s = .next t ∧ Returns (.frameq st d a) (ru d a) d 4 (BitVec.ofNat 64 row.2) s t ∧
        BytesKept s t) ∧
    (s.cur.role = .loader → v < 16 →
      (s.myRole.sup = true ∨ v < 8 ∧ field ((headerOf s false).extractLsb' 0 64) 8 4 = (s.slot s.me).domain) →
      ∃ t, exec (.seghdr st d a) s = .next t ∧
        Returns (.seghdr st d a) (ru d a) d 8 ((headerOf s (decide (8 ≤ v))).extractLsb' (64 * (v % 8)) 64) s t ∧ BytesKept s t)

/-- 12 R252, R253, R255: BEND holds its role until the block's check; the last BEND of a block whose words and ticks are as its
release expects, with no command of the slot left to start, lets every role go on behind its BEND, and BLOCK_CHECK does so where a
command started later. -/
def Sys2Proof.Said.BlocksEndWithTheirCheck : Prop :=
  ∀ (st : BitVec 3) (s : State) (b : Block), InBlock s b →
    (Free s → s.myRole.bend = false →
      ((∃ r, r ≠ s.cur.role ∧ (s.found.role s.me r).present = true ∧ (s.found.role s.me r).bend = false) →
        ∃ t, exec (.bend st) s = .next t ∧ t.issued = true ∧ t.myRole.bend = true ∧
          t.myRole.pc = linkOf s.myRole (.bend st) ∧ (∀ r, r ≠ s.cur.role → t.role s.me r = s.found.role s.me r) ∧
          (∃ c, (t.slot s.me).block = some c ∧ c.checked = false ∧
            c.words = (b.counted s.vcc (roleNum s.cur.role) (wordList (.bend st))).words) ∧
          RegsKept none s t ∧ FlagsKept s t ∧ BytesKept s t) ∧
      ((∀ r, r ≠ s.cur.role → (s.found.role s.me r).present = true → (s.found.role s.me r).bend = true) →
        (∀ m ∈ (s.core (coreOf s.me)).vq ++ (s.core (coreOf s.me)).mq, m.slot ≠ s.me) →
        BitVec.ofNat 32 (s.vcc - b.tick0) = b.eticks →
        blockCrc (b.counted s.vcc (roleNum s.cur.role) (wordList (.bend st))) = b.ecrc →
        ∃ t, exec (.bend st) s = .next t ∧ t.issued = true ∧ (∀ r, (t.role s.me r).bend = false) ∧
          t.myRole.pc = linkOf s.myRole (.bend st) ∧ (∃ c, (t.slot s.me).block = some c ∧ c.checked = true) ∧
          RegsKept none s t ∧ FlagsKept s t ∧ BytesKept s t)) ∧
    ((∀ r, (s.role s.me r).present = true → (s.role s.me r).bend = true) →
      (∀ m ∈ (s.core (coreOf s.me)).vq ++ (s.core (coreOf s.me)).mq, m.slot ≠ s.me) →
      BitVec.ofNat 32 (s.vcc - b.tick0) = b.eticks → blockCrc b = b.ecrc →
      ∃ t, exec .blockCheck s = .next t ∧ (∀ r, (t.role s.me r).bend = false) ∧
        (t.slot s.me).block = some { b with checked := true } ∧ (∀ r n at', (t.role s.me r).reg n at' = (s.role s.me r).reg n at') ∧
        (∀ k, k ≠ s.me → t.slot k = s.slot k) ∧ BytesKept s t)

/-- 12 R252 to R258, 18 R396: the frame queries return their words, and a block ends with its check. -/
def Obligations.FramesAndBlocks : Prop := FrameQueries ∧ BlocksEndWithTheirCheck

/-- 18 R397, R398, R385: STGQ takes a hold of the strand's staging buffer and puts the buffer's scratchpad offset into its load queue, one
tick later; STGREL gives a hold back, at once where no matrix command of the slot is left, and HOLD_DROP does so where one was. -/
def Obligations.StagingHolds : Prop :=
  ∀ (st : BitVec 3) (q : BitVec 2) (s : State) (n : Nat),
    (∀ b, (s.slot s.me).block = some b → b.buf = some n → (s.slot s.me).timed = true → Free s →
      (Idle s → s.cur.role = .loader → s.frame.running = true → s.frame.no = b.frameNo → (s.slot s.me).holds < 255 →
        (s.found.queue s.me q.toNat).length < 16 →
        ∃ t, exec (.stgq st q) s = .next t ∧ Issued (.stgq st q) (linkOf s.myRole (.stgq st q)) 0 s t ∧
          (t.buf n).holds = (s.buf n).holds + 1 ∧ (t.slot s.me).holds = (s.slot s.me).holds + 1 ∧
          t.queue s.me q.toNat =
            s.found.queue s.me q.toNat ++ [{ val := BitVec.ofNat 64 (s.stgBase + 0x20000 * n), due := s.now + 1 }] ∧
          (∀ j, j ≠ q.toNat → t.queue s.me j = s.found.queue s.me j) ∧ RegsKept none s t ∧ FlagsKept s t ∧ BytesKept s t) ∧
      (s.cur.role = .computer → 0 < (s.slot s.me).holds → (s.slot s.me).drops = [] → NoMatrix s →
        ∃ t, exec (.stgrel st) s = .next t ∧ Issued (.stgrel st) (linkOf s.myRole (.stgrel st)) 0 s t ∧
          (t.slot s.me).holds = (s.slot s.me).holds - 1 ∧ HoldGone s t n ∧ RegsKept none s t ∧ FlagsKept s t ∧
          StoresKept s t)) ∧
    (∀ seq, (s.slot s.me).drops = [(seq, n)] → NoMatrix s →
      ∃ t, exec .holdDrop s = .next t ∧ (t.slot s.me).drops = [] ∧ HoldGone s t n ∧ StoresKept s t)

/-- 18 R399: PARK of a live scope parks it with its rejoin number, or changes that of a scope already parked; with operation 1 it
clears the park, and with operation 2 it returns the park word. Each is a release. -/
def Obligations.ParkRequests : Prop :=
  ∀ (st : BitVec 3) (d a b : BitVec 5) (s : State), Free s → dstOk d s.cur.role = true → Supplied (rr d a b) s → Idle s →
    let c := (sourceOf (rr d a b) s 0).toNat
    let w := sourceOf (rr d a b) s 1
    c < 16384 → field w 24 38 = 0 → ((s.scope c).state ≠ scFree → (s.scope c).dom = (s.slot s.me).domain) →
    (16 ≤ c → field w 62 2 = 0 → (s.scope c).state = scLive → (∀ q ∈ s.parks, q.scope ≠ c) → s.parks.length < 256 →
      ∃ t, exec (.parkSet st d a b) s = .next t ∧ Returns (.parkSet st d a b) (rr d a b) d 16 0 s t ∧
        t.parks = s.parks ++ [⟨c, field w 0 24, false, (s.scope c).dom⟩] ∧ BytesKept s t) ∧
    (∀ q, q ∈ s.parks → q.scope = c → 16 ≤ c → field w 62 2 = 0 → (s.scope c).state = scLive →
      ∃ t, exec (.parkSet st d a b) s = .next t ∧ Returns (.parkSet st d a b) (rr d a b) d 16 0 s t ∧
        t.parks = s.parks.map (fun x => if x.scope = c then { x with rejoin := field w 0 24 } else x) ∧ BytesKept s t) ∧
    (∀ q, q ∈ s.parks → q.scope = c → 16 ≤ c → field w 62 2 = 1 →
      ∃ t, exec (.parkClear st d a b) s = .next t ∧ Returns (.parkClear st d a b) (rr d a b) d 16 0 s t ∧
        (∀ x, x ∈ t.parks ↔ x ∈ s.parks ∧ x.scope ≠ c) ∧ BytesKept s t) ∧
    (field w 62 2 = 2 →
      ∃ t v, exec (.parkRead st d a b) s = .next t ∧ Returns (.parkRead st d a b) (rr d a b) d 16 v s t ∧
        t.parks = s.parks ∧ BytesKept s t ∧ ((∀ q ∈ s.parks, q.scope ≠ c) → v = 0) ∧
        ∀ q l r, s.parks = l ++ q :: r → q.scope = c → (∀ x ∈ l, x.scope ≠ c) →
          field v 0 14 = c ∧ field v 24 24 = q.rejoin % 2 ^ 24 ∧ field v 48 4 = q.dom % 16 ∧
            field v 62 1 = (if q.auto then 1 else 0) ∧ field v 63 1 = 1)

/-! ### Tokens and transaction barriers -/

/-- 17 R343, R344, R360: TKSIG, a release, signals its token from the next cycle on; TKWAIT of a nonzero token takes one count of it
at once. Neither changes anything else. -/
def Sys2Proof.Said.TokenInstructions : Prop :=
  ∀ (st : BitVec 3) (n : BitVec 4) (s : State), Free s →
    (Idle s → tokenCount s s.me n.toNat + ((s.slot s.me).tokPend.filter (fun e => e = (n.toNat, true))).length < 255 →
      ∃ t, exec (.tksig st n) s = .next t ∧ Issued (.tksig st n) (linkOf s.myRole (.tksig st n)) 0 s t ∧
        (t.slot s.me).tokPend = (s.slot s.me).tokPend ++ [(n.toNat, true)] ∧ (t.slot s.me).tokens = (s.slot s.me).tokens ∧
        RegsKept none s t ∧ FlagsKept s t ∧ BytesKept s t) ∧
    (0 < tokenNow s s.me n.toNat →
      ∃ t, exec (.tkwait st n) s = .next t ∧ Issued (.tkwait st n) (linkOf s.myRole (.tkwait st n)) 0 s t ∧
        tokenNow t s.me n.toNat = tokenNow s s.me n.toNat - 1 ∧ (∀ k, k ≠ n.toNat → tokenNow t s.me k = tokenNow s s.me k) ∧
        RegsKept none s t ∧ FlagsKept s t ∧ BytesKept s t)

namespace Sys2Proof.Said

/-- A barrier's address passes its checks and leads to `p` in the package's own stores, whose 16 bytes are free of errors (17 R352,
R355). -/
def AtBarrier (s : State) (va : Word) (k : AccKind) (s1 : State) (p : Place) : Prop :=
  va.toNat % 16 = 0 ∧
    translate s.found (coreOf s.me) (s.found.slot s.me).domain va.toNat k s.found.myRole.sup s.me = (s1, .ok p) ∧
    p.stamped = true ∧ Sound s1 p ∧ Sound s1 (p.plus 8)

/-- The barrier at `p` is `b` now, and every other byte as before. -/
def BarrierIs (s1 t : State) (p : Place) (b : Bar) : Prop := barOf (rawRead t p 16) = b ∧ BytesElsewhere s1 t p 16

/-- The barrier after an arrival of `n`: the pending count lowered, and the phase over where nothing is pending (17 R353). -/
def arrived (b : Bar) (n : Nat) : Bar :=
  if b.parv = n ∧ b.pbytes = 0 then { b with phase := (b.phase + 1) % 16, parv := b.exparv } else { b with parv := b.parv - n }

end Sys2Proof.Said

/-- 17 R352, R353, R356, R357, R358: TBINIT sets a barrier up with its arrival count at phase 0; TBEXP adds bytes to what is pending;
TBARV lowers the pending arrivals, ends the phase where nothing is pending, and returns the phase it found. Only the barrier's 16 bytes
change. -/
def Obligations.BarrierUpdates : Prop :=
  ∀ (st : BitVec 3) (d a b : BitVec 5) (s s1 : State) (p : Place), s.cur.role ≠ .computer → Free s → Idle s →
    Plainly s s1 p →
    let x := barOf (rawRead s1 p 16)
    (Supplied { srcs := [a, b] } s → AtBarrier s (sourceOf { srcs := [a, b] } s 0) .write s1 p →
      let n := (sourceOf { srcs := [a, b] } s 1).toNat
      (1 ≤ n → n ≤ 1048575 →
        ∃ t, exec (.tbinit st a b) s = .next t ∧ Issued (.tbinit st a b) (linkOf s.myRole (.tbinit st a b)) 0 s t ∧
          BarrierIs s1 t p ⟨0, n, n, 0, 0, (s.slot s.me).scope % 4096, false, true, false⟩ ∧
          RegsKept none s t ∧ FlagsKept s t ∧ SpecialsKept s t) ∧
      (x.init = true → n ≠ 0 → x.pbytes + n < 2 ^ 48 →
        ∃ t, exec (.tbexp st a b) s = .next t ∧ Issued (.tbexp st a b) (linkOf s.myRole (.tbexp st a b)) 0 s t ∧
          BarrierIs s1 t p { x with pbytes := x.pbytes + n } ∧ RegsKept none s t ∧ FlagsKept s t ∧ SpecialsKept s t)) ∧
    (Supplied (rr d a b) s → AtBarrier s (sourceOf (rr d a b) s 0) .write s1 p → x.init = true →
      1 ≤ (sourceOf (rr d a b) s 1).toNat → (sourceOf (rr d a b) s 1).toNat ≤ x.parv →
        ∃ t, exec (.tbarv st d a b) s = .next t ∧
          Returns (.tbarv st d a b) (rr d a b) d (accessLatency s.me p + 16) (BitVec.ofNat 64 x.phase) s t ∧
          BarrierIs s1 t p (arrived x (sourceOf (rr d a b) s 1).toNat) ∧ SpecialsKept s t)

/-- 17 R359: TBWAIT of a phase that is over returns the barrier's error code, MULTI, INIT, CANC and phase; of the running phase it holds
its role, with a wait entry while the barrier's home has one of its 16 free. A waiter without an entry tests the barrier again every
256 cycles. No byte changes. -/
def Sys2Proof.Said.BarrierWaits : Prop :=
  ∀ (st : BitVec 3) (d a b : BitVec 5) (s : State),
    (∀ s1 p, s.cur.role ≠ .computer → Free s → Supplied (rr d a b) s → ¬ isTimed s → s.myRole.barWait = none →
      (sourceOf (rr d a b) s 1).toNat < 16 → AtBarrier s (sourceOf (rr d a b) s 0) .read s1 p →
      let x := barOf (rawRead s1 p 16)
      (x.phase ≠ (sourceOf (rr d a b) s 1).toNat →
        ∃ t v, exec (.tbwait st d a b) s = .next t ∧ Returns (.tbwait st d a b) (rr d a b) d (accessLatency s.me p + 16) v s t ∧
          field v 0 16 = x.err ∧ field v 16 1 = (if x.multi then 1 else 0) ∧ field v 17 1 = (if x.init then 1 else 0) ∧
          field v 18 1 = (if x.canc then 1 else 0) ∧ field v 19 1 = 0 ∧ field v 20 4 = x.phase ∧ field v 24 40 = 0 ∧
          BytesAsIn s1 t) ∧
      (x.phase = (sourceOf (rr d a b) s 1).toNat →
        ∃ t, exec (.tbwait st d a b) s = .next t ∧ t.issued = s.issued ∧ t.myRole.pc = s.myRole.pc ∧
          t.myRole.barWait = some ⟨p, sourceOf (rr d a b) s 0, x.phase, decide (entriesAt s1 (barHome p) < 16), s.cycle + 256,
            false, false⟩ ∧ RegsKept none s t ∧ FlagsKept s t ∧ BytesAsIn s1 t)) ∧
    (∀ w, s.myRole.barWait = some w → w.entry = false → w.done = false → w.next ≤ s.cycle → w.place.stamped = true →
      Sound s w.place → Sound s (w.place.plus 8) →
      ∃ t, exec .tbwaitPoll s = .next t ∧ BytesAsIn s t ∧
        t.myRole.barWait =
          some { w with done := decide ((barOf (rawRead s w.place 16)).phase ≠ w.phase), next := s.cycle + 256 })

/-- 17 R344, R345, R358, R359: the token instructions count tokens, and TBWAIT waits for its phase. -/
def Obligations.TokensAndBarrierWaits : Prop := TokenInstructions ∧ BarrierWaits

/-! ### Commands -/

namespace Sys2Proof.Said

/-- The operands of an extended command, read one cycle ahead (02 R31, 03 R57). -/
def exUse (x : ExOps) : Use := { srcs := [x.d, x.a, x.b, x.c], early := true }

/-- The copy-unit instructions (17 R361). -/
def copies (st : BitVec 3) (x : ExOps) : List Instr :=
  [.cpy st x, .cpyt st x, .kvget st x, .kvputStore st x, .kvputRetain st x, .kvputRelease st x, .msg st x, .dtld st x]

/-- The queue that `x` names and the slot's journal have room (17 R348). -/
def CopyRoom (s : State) (x : ExOps) : Prop :=
  (copyQueue s.found (coreOf s.me) x.q.toNat).length < 32 ∧ (s.slot s.me).journal.length < 32

/-- The operands pass the checks of an instruction's own (17 R363, R364, R370, R371) in the state `u` after the barrier's; `m` is the map
a CPYT reads. -/
def CopyChecked (i : Instr) (u s : State) (v : Nat → Word) (m : BitVec 512) : Prop :=
  match i with
  | .cpy _ _ => (v 0).toNat % 8 = 0 ∧ (v 1).toNat % 8 = 0 ∧ (v 2).toNat % 8 = 0 ∧ v 2 ≠ 0 ∧ (v 2).toNat ≤ 2 ^ 32
  | .cpyt _ _ =>
    (v 0).toNat % 8 = 0 ∧ (v 1).toNat % 8 = 0 ∧ (v 2).toNat % 64 = 0 ∧
      ∃ s1 p, translate u (coreOf s.me) (s.slot s.me).domain (v 2).toNat .read s.myRole.sup s.me = (s1, .ok p) ∧
        (∀ o, p ≠ .window o) ∧ (∀ j, j < 8 → Sound s1 (p.plus (8 * j))) ∧ m = BitVec.ofNat 512 (rawRead s1 p 64)
  | .msg _ _ => badTarget (v 0) = false ∧ (v 1).toNat % 8 = 0 ∧ (v 2).toNat % 64 = 0
  | .dtld _ _ =>
    s.myRole.sup = true ∧ (v 0).toNat < 16 ∧ (v 1).toNat % 64 = 0 ∧ (v 2).toNat % 64 = 0 ∧ v 2 ≠ 0 ∧ (v 2).toNat ≤ 65536 ∧
      ∀ p, (translate u (coreOf s.me) (s.slot s.me).domain (v 1).toNat .read true s.me).2 = .ok p →
        ∃ a, p = .deep a
  | _ => True

/-- The instruction's command stands last in its slot's journal with what its push captures, and waits in its queue (17 R348). -/
def Journaled (i : Instr) (s : State) (v : Nat → Word) (t : State) : Prop :=
  ∃ e, (t.slot s.me).journal = (s.slot s.me).journal ++ [e] ∧ (e.w0, e.w1) = encode i ∧ e.vd = v 0 ∧ e.va = v 1 ∧ e.vb = v 2 ∧
    e.vc = v 3 ∧ e.dom = (s.slot s.me).domain ∧ e.sup = s.myRole.sup ∧ e.dph = (s.slot s.me).dphaser ∧ e.role = s.cur.role ∧
    e.addr = s.myRole.pc ∧ e.started = false ∧ e.queued = true ∧ e.pushed = s.cycle

end Sys2Proof.Said

/-- 17 R347, R348, R361 to R371: a push of a copy-unit command whose operands pass its checks, with room in its queue and journal,
stands last in the journal with its words and the operands it captured, and changes no register, flag or byte. A CPY with EXP first
adds its length to what its barrier has pending. Where two operands name one load queue they are popped in the order d, a, b, c, which is
the model's choice (log entry 66). -/
def Obligations.CopyPushes : Prop :=
  ∀ (st : BitVec 3) (x : ExOps) (s : State), Free s → CopyRoom s x → Supplied (exUse x) s →
    let v (k : Nat) : Word := sourceOf (exUse x) s k
    (∀ i ∈ copies st x, ∀ m u,
      (v 3 = 0 ∧ x.aux.getLsbD 1 = false ∧ u = s.found ∨ v 3 ≠ 0 ∧ ∃ p, AtBarrier s (v 3) .write u p) →
      (i = .cpy st x ∨ i = .cpyt st x → x.aux.getLsbD 0 = false) → (i = .cpyt st x → Idle s) → CopyChecked i u s v m →
      ∃ t, exec i s = .next t ∧ Issued i (linkOf s.myRole i) 0 s t ∧ Journaled i s v t ∧
        (i = .cpyt st x → ∃ e ∈ (t.slot s.me).journal, e.map = m) ∧ QueuesMoved (exUse x) [] s t ∧ RegsKept none s t ∧
        FlagsKept s t ∧ SpecialsKept s t ∧ (s.deepErr = [] → BytesKept s t)) ∧
    (∀ s1 p, Idle s → v 3 ≠ 0 → x.aux.getLsbD 0 = true → AtBarrier s (v 3) .write s1 p → CopyChecked (.cpy st x) s1 s v 0 → Plainly s s1 p →
      (barOf (rawRead s1 p 16)).init = true → (barOf (rawRead s1 p 16)).pbytes + (v 2).toNat < 2 ^ 48 →
      ∃ t, exec (.cpy st x) s = .next t ∧ Issued (.cpy st x) (linkOf s.myRole (.cpy st x)) 0 s t ∧ Journaled (.cpy st x) s v t ∧
        BarrierIs s1 t p { barOf (rawRead s1 p 16) with pbytes := (barOf (rawRead s1 p 16)).pbytes + (v 2).toNat } ∧
        (isTimed s → t.myRole.blockUntil = s.now + (accessLatency s.me p + 16)) ∧ RegsKept none s t ∧ FlagsKept s t)

namespace Sys2Proof.Said

/-- The vector instructions whose fields name no scalar register and whose part is not limited by a tag (08 R156 to R172, 10 R203 to
R210). -/
def plainVector (st : BitVec 3) (v : VxOps) : List Instr :=
  [.vmov st v, .viota st v, .vadd st v, .vsub st v, .vmul st v, .vfma st v, .vfms st v, .vmin st v, .vmax st v, .vabs st v,
   .vneg st v, .vdiv st v, .vsqrt st v, .vrsq st v, .vrcp st v, .vexp2 st v, .vlog2 st v, .vand st v, .vor st v, .vxor st v,
   .vshl st v, .vshr st v, .vsar st v, .vcmp st v, .vsel st v, .vpop st v, .vmlog st v, .vshuf st v, .vrot st v, .vext st v,
   .vins st v, .vred st v, .vscan st v, .vtag st v, .vhad st v, .vcon st v, .vopld st v, .brow st v, .bfill st v, .bpopr st v,
   .bpopc st v, .btrn st v, .bcomp st v, .bclos st v, .blog st v]

/-- The vector instructions with a scratchpad offset from a load queue, with the bytes they move (08 R156, 10 R203). -/
def offsetVector (st : BitVec 3) (v : VxOps) : List (Instr × Nat) :=
  [(.vld st v, 1024), (.vst st v, 1024), (.bld st v, 8192), (.bst st v, 8192)]

/-- A scratchpad offset passes the checks of its engine (08 R156, 13 R270). -/
def OffsetOk (s : State) (o : Word) (n : Nat) : Prop :=
  o.toNat % 64 = 0 ∧ o.toNat + n ≤ 4194304 ∧
    ownsBytes s (coreOf s.me) o.toNat n (s.slot s.me).domain s.myRole.sup = true

/-- Every tag that the command needs is one it accepts, as the commands pushed so far will leave it (07 R143). -/
def TagsFit (s : State) (l : List Need) : Prop := ∀ n ∈ l, n.accept ≠ [] → projTag s.found s.me n.obj ∈ n.accept

/-- The engine's queue has room (08 R145, 09 R185). -/
def EngineRoom (s : State) (engine : Nat) : Prop :=
  (if engine = 0 then (s.core (coreOf s.me)).vq.length else (s.core (coreOf s.me)).mq.length) < 16

/-- The command of instruction `i` has entered the queue of its engine at its place in push order, with what its push captures
(07 R135, 08 R145, 09 R185); no register, flag, queue or byte changes but the queue its scalar came from. -/
structure Pushed (i : Instr) (u : Use) (engine : Nat) (scal : Word) (s t : State) : Prop where
  issued : Issued i (linkOf s.myRole i) 0 s t
  queue : ∃ m l r, (if engine = 0 then (s.core (coreOf s.me)).vq else (s.core (coreOf s.me)).mq) = l ++ r ∧
    (if engine = 0 then (t.core (coreOf s.me)).vq else (t.core (coreOf s.me)).mq) = l ++ m :: r ∧ (∀ x ∈ l, cmdBefore x m = true) ∧
    m.engine = engine ∧ m.slot = s.me ∧ (m.w0, m.w1) = encode i ∧ m.nullified = false ∧ m.scal = scal ∧
    m.rm = field s.found.myRole.fpctl 0 3 ∧ m.fin = s.found.myRole.fpctl.getLsbD 3 ∧ m.fout = s.found.myRole.fpctl.getLsbD 4 ∧
    m.dom = (s.slot s.me).domain ∧ m.dph = (s.slot s.me).dphaser ∧ m.addr = s.myRole.pc ∧ m.pushed = s.cycle
  other : if engine = 0 then (t.core (coreOf s.me)).mq = (s.core (coreOf s.me)).mq
    else (t.core (coreOf s.me)).vq = (s.core (coreOf s.me)).vq
  queues : QueuesMoved u [] s t
  regs : RegsKept none s t
  flags : FlagsKept s t
  specials : SpecialsKept s t
  bytes : BytesKept s t

/-- The scalar an engine push reads one cycle ahead. -/
def scalar (r : BitVec 5) : Use := { srcs := [r], early := true }

/-- What vector instruction `i` needs. -/
def vectorTags (i : Instr) (v : VxOps) (s : State) : List Need :=
  vecNeeds (majorOf (encode i).1) ((encode i).1.extractLsb' 0 6).toNat v (projTag s.found s.me)

/-- The lanes of the row that field `f` names, by its projected tag. -/
def lanesAt (s : State) (f : BitVec 8) : Nat := lanesOf (projTag s.found s.me (.row f.toNat))

/-- The vector instructions whose part a tag limits, with the parts they may name (08 R167, R168, R169). -/
def partVector (st : BitVec 3) (v : VxOps) (s : State) : List (Instr × Nat) :=
  [(.vcvt st v, max (lanesAt s v.va) (lanesOf v.ty.toNat) / min (lanesAt s v.va) (lanesOf v.ty.toNat)),
   (.vqnt st v, if v.ty = 9 then 64 else 2048 / lanesAt s v.va), (.vdeq st v, lanesAt s v.va / lanesOf v.ty.toNat)]

end Sys2Proof.Said

/-- 08 R145, R156 to R172, 10 R203 to R211: a vector instruction of the computer whose registers carry the tags it needs, with room in
the engine's queue, enters that queue with its words, its scalar and the modes of sys.fpctl; an offset must lie in the scratchpad, on
a line, in ranges that the domain owns. Nothing else changes. -/
def Obligations.VectorPushes : Prop :=
  ∀ (st : BitVec 3) (v : VxOps) (s : State), Free s → s.cur.role = .computer → EngineRoom s 0 →
    (∀ i ∈ plainVector st v, i.wellFormed = true → Supplied { early := true } s → TagsFit s (vectorTags i v s) →
      ∃ t, exec i s = .next t ∧ Pushed i { early := true } 0 0 s t) ∧
    (∀ row ∈ partVector st v s, row.1.wellFormed = true → Supplied { early := true } s → TagsFit s (vectorTags row.1 v s) →
      v.aux.toNat < row.2 →
      (row.1 = .vdeq st v → projTag s.found s.me (.row v.va.toNat) ≠ 11 → v.vb = 0) →
      ∃ t, exec row.1 s = .next t ∧ Pushed row.1 { early := true } 0 0 s t) ∧
    (∀ row ∈ offsetVector st v, row.1.wellFormed = true → 28 ≤ v.va.toNat → v.va.toNat ≤ 31 →
      Supplied (scalar (v.va.extractLsb' 0 5)) s → TagsFit s (vectorTags row.1 v s) →
      OffsetOk s (sourceOf (scalar (v.va.extractLsb' 0 5)) s 0) row.2 →
      ∃ t, exec row.1 s = .next t ∧
        Pushed row.1 (scalar (v.va.extractLsb' 0 5)) 0 (sourceOf (scalar (v.va.extractLsb' 0 5)) s 0) s t) ∧
    ((Instr.vbcst st v).wellFormed = true → Supplied (scalar (v.va.extractLsb' 0 5)) s → TagsFit s (vectorTags (.vbcst st v) v s) →
      ∃ t, exec (.vbcst st v) s = .next t ∧
        Pushed (.vbcst st v) (scalar (v.va.extractLsb' 0 5)) 0 (sourceOf (scalar (v.va.extractLsb' 0 5)) s 0) s t) ∧
    ((Instr.vselb st v).wellFormed = true → Supplied (scalar (v.vb.extractLsb' 0 5)) s → TagsFit s (vectorTags (.vselb st v) v s) →
      ∃ t, exec (.vselb st v) s = .next t ∧
        Pushed (.vselb st v) (scalar (v.vb.extractLsb' 0 5)) 0 (sourceOf (scalar (v.vb.extractLsb' 0 5)) s 0) s t)

namespace Sys2Proof.Said

/-- What matrix instruction `i` needs. -/
def matrixTags (i : Instr) (s : State) : List Need := mxNeeds (newCmd s.found i 1 false 0 s.seqNo) (projTag s.found s.me)

/-- The matrix instructions without a scalar or a check of their own beside their tags (09 R188, 10 R197). -/
def plainMatrix (st : BitVec 3) (m : MxOps) : List Instr := [.mflip st m, .mpset st m, .mpget st m, .mdrain st m, .ocld st m]

end Sys2Proof.Said

/-- 09 R178, R185, R186, R188, R189, 10 R197, R198: a matrix instruction of the computer whose formats are a combination, whose rows carry
the tags and whose active plane the format it needs, with room in the engine's queue, enters that queue with its words and its
scalar, which comes from a load queue. Nothing else changes. -/
def Obligations.MatrixPushes : Prop :=
  ∀ (st : BitVec 3) (m : MxOps) (s : State), Free s → s.cur.role = .computer → EngineRoom s 1 →
    (∀ i ∈ plainMatrix st m, i.wellFormed = true → Supplied { early := true } s → TagsFit s (matrixTags i s) →
      ∃ t, exec i s = .next t ∧ Pushed i { early := true } 1 0 s t) ∧
    ((Instr.mzero st m).wellFormed = true → Supplied { early := true } s → comboOf m.wf.toNat m.af.toNat ≠ none →
      ∃ t, exec (.mzero st m) s = .next t ∧ Pushed (.mzero st m) { early := true } 1 0 s t) ∧
    ((Instr.ocmp st m).wellFormed = true → Supplied { early := true } s → TagsFit s (matrixTags (.ocmp st m) s) →
      (m.cnt.toNat % 16 = 6 → isFloatTy (projTag s.found s.me .key) = true) →
      m.cnt.toNat / 16 % 4 < lanesOf (projTag s.found s.me .key) / 256 →
      ∃ t, exec (.ocmp st m) s = .next t ∧ Pushed (.ocmp st m) { early := true } 1 0 s t) ∧
    (28 ≤ m.sreg.toNat → Supplied (scalar m.sreg) s →
      let o := sourceOf (scalar m.sreg) s 0
      ((Instr.mlds st m).wellFormed = true → OffsetOk s o (tileBytes m.wf.toNat) →
        ∃ t, exec (.mlds st m) s = .next t ∧ Pushed (.mlds st m) (scalar m.sreg) 1 o s t) ∧
      (∀ c, (Instr.mstr st m).wellFormed = true → comboOf m.wf.toNat m.af.toNat = some c → TagsFit s (matrixTags (.mstr st m) s) →
        projActive s.found (newCmd s.found (.mstr st m) 1 false o s.seqNo) = m.wf.toNat →
        OffsetOk s o (c.stride * m.cnt.toNat) →
        ∃ t, exec (.mstr st m) s = .next t ∧ Pushed (.mstr st m) (scalar m.sreg) 1 o s t))

/-! ### Context images, snapshots, checkpoints, translation -/

namespace Sys2Proof.Said

/-- The image address of a JRNL passes its checks, for a strand that is not TIMED: the pages that hold the given words lead to the deep
store, where word `n` stands at `at'` n, each word in a place of its own (20 R419). -/
def ImageAt (s : State) (va : Word) (k : AccKind) (words : List Nat) (s1 : State) (at' : Nat → Nat) : Prop :=
  ¬ isTimed s ∧ va.toNat % 64 = 0 ∧ (∃ m, imagePages s.found va.toNat k words = (s1, .ok m) ∧ at' = pagedWord m va.toNat) ∧
    (∀ n ∈ words, at' n + 8 ≤ 2 ^ 34) ∧ ∀ n ∈ words, ∀ j ∈ words, n ≠ j → at' n + 8 ≤ at' j ∨ at' j + 8 ≤ at' n

/-- The classes of words that a JRNL names: all with b = 0, else bits [21:16] of s[b] (20 R419). -/
def classesOf (b : BitVec 5) (v : Word) : Nat := if b = 0 then 0x3F else field v 16 6

/-- The words of an image in the classes that the mask names. -/
def selected (classes : Nat) : List Nat := (List.range 0x6600).filter (fun n => classes.testBit (classOf n - 16))

/-- What a JRNL reads of the slot's context holds no error: its queues, rows, tiles, journal and lifted commands (20 R427). -/
def HeldSound (s : State) : Prop :=
  (∀ q, ∀ e ∈ s.queue s.me q, e.flips = 0) ∧ (s.slot s.me).rowErr = [] ∧ (s.slot s.me).tileErr = [] ∧
    (∀ e ∈ (s.slot s.me).journal, e.flips = 0) ∧ ∀ m ∈ (s.slot s.me).lift, m.flips = 0

/-- Nothing disturbs the writes of an image's words: no monitor waits, no injection is armed, and every line is logged or needs no
logging. -/
def ImageQuiet (s1 : State) (at' : Nat → Nat) (words : List Nat) : Prop :=
  monitorCount s1 = 0 ∧ (∀ k, (s1.core k).einj.getLsbD 0 = false) ∧ ∀ n ∈ words, undoFirst s1 (at' n) = false

end Sys2Proof.Said

/-- 20 R417, R418, R419: JRNL with operation 0 stores the words of its classes of the slot's context at their places in the image, page
by page, every other byte kept, and returns the number of journal entries; with operation 1, into a slot without copies or lifted
commands, it loads the rows and tiles of its classes, and copies as discarded; with operation 2 every discarded copy is to settle as
CANCELLED, and no lifted command is left. -/
def Obligations.ContextImages : Prop :=
  ∀ (st : BitVec 3) (d a b : BitVec 5) (s s1 : State) (at' : Nat → Nat), Free s → s.myRole.sup = true → dstOk d s.cur.role = true →
    Supplied (rr d a b) s → a ≠ 0 →
    let va := sourceOf (rr d a b) s 0
    let w := sourceOf (rr d a b) s 1
    let words := selected (classesOf b w)
    (b ≠ 0 → field w 3 13 = 0 ∧ field w 22 42 = 0) →
    (b = 0 ∨ field w 0 3 = 0 → ImageAt s va .write words s1 at' → ImageQuiet s1 at' words → HeldSound s →
      ∃ t v, exec (.jrnlStore st d a b) s = .next t ∧ Issued (.jrnlStore st d a b) (linkOf s.myRole (.jrnlStore st d a b)) 0 s t ∧
        LateWritten (rr d a b) d (imageCycles words + 1) v s t ∧ field v 0 8 = (s.slot s.me).journal.length % 256 ∧
        (∀ n ∈ words, rawRead t (.deep (at' n)) 8 = (ctxWord (s.found.slot s.me) true n).toNat) ∧
        (∀ q, (∀ n ∈ words, Outside q (.deep (at' n)) 8) → rawRead t q 1 = rawRead s1 q 1) ∧
        RegsKept none s t ∧ FlagsKept s t) ∧
    (b ≠ 0 → field w 0 3 = 1 → (s.slot s.me).journal = [] → (s.slot s.me).lift = [] → ImageAt s va .read words s1 at' →
      (∀ n ∈ words, Sound s1 (.deep (at' n))) →
      ∃ t, exec (.jrnlLoad st d a b) s = .next t ∧ t.issued = true ∧
        (∀ e ∈ (t.slot s.me).journal, e.discarded = true) ∧
        (∀ n ∈ words, 0x600 ≤ n → (ctxWord (t.slot s.me) true n).toNat = rawRead s1 (.deep (at' n)) 8) ∧
        (∀ k, k ≠ s.me → t.slot k = s.slot k) ∧ BytesAsIn s1 t) ∧
    (b ≠ 0 → field w 0 3 = 2 → ImageAt s va .write [0] s1 at' → ((s.slot s.me).journal.map (·.id)).Nodup →
      ∃ t, exec (.jrnlAbandon st d a b) s = .next t ∧ t.issued = true ∧
        LateWritten (rr d a b) d 1 (BitVec.ofNat 64 ((s.slot s.me).journal.filter (fun e => !e.discarded)).length) s t ∧
        (t.slot s.me).lift = [] ∧
        (t.slot s.me).journal = (s.slot s.me).journal.map (fun e =>
          if e.discarded then { e with discarded := false, running := false, finished := true, err := 0x400 } else e) ∧
        RegsKept none s t ∧ FlagsKept s t)

/-- 20 R420, R421, R429: REPLAY gives the slot's lifted commands back to their engines and its discarded copies to their queues, where
these have room for all, and returns how many it reissued. SNAP latches a snapshot 8 cycles later where one is armed and none is under
way, and returns its sequence number; without one armed, status 1. That SNAP's result has latency 1, in a TIMED strand too, is the model's
reading (log entry 11). -/
def Obligations.ReplayAndSnapshot : Prop :=
  ∀ (st : BitVec 3) (d : BitVec 5) (s : State), Free s → s.myRole.sup = true → dstOk d s.cur.role = true →
    Supplied { dst := some d } s →
    (¬ isTimed s → (s.core (coreOf s.me)).vq.length + (s.slot s.me).lift.length ≤ 16 →
      (s.core (coreOf s.me)).mq.length + (s.slot s.me).lift.length ≤ 16 → (coreEntries s (coreOf s.me)).length ≤ 32 →
      ((s.slot s.me).journal.map (·.id)).Nodup →
      ∃ t, exec (.replay st d) s = .next t ∧
        Returns (.replay st d) { dst := some d } d 1
          (BitVec.ofNat 64 ((s.slot s.me).reissued + (s.slot s.me).lift.length +
            ((s.slot s.me).journal.filter (·.discarded)).length)) s t ∧
        (t.slot s.me).lift = [] ∧ (∀ e ∈ (t.slot s.me).journal, e.discarded = false) ∧
        (t.slot s.me).journal.length = (s.slot s.me).journal.length ∧
        (t.core (coreOf s.me)).vq.length + (t.core (coreOf s.me)).mq.length =
          (s.core (coreOf s.me)).vq.length + (s.core (coreOf s.me)).mq.length + (s.slot s.me).lift.length ∧ BytesKept s t) ∧
    (s.snap.getLsbD 0 = true → s.snapAt = none →
      ∃ t, exec (.snap st d) s = .next t ∧
        Returns (.snap st d) { dst := some d } d 1 (BitVec.ofNat 64 ((field s.snap 16 16 + 1) % 65536)) s t ∧
        t.snapAt = some (s.cycle + 8, 1) ∧ t.snap = s.snap ∧ BytesKept s t) ∧
    (s.snap.getLsbD 0 = false →
      ∃ t, exec (.snap st d) s = .next t ∧
        Returns (.snap st d) { dst := some d } d 1 (BitVec.ofNat 64 (2 ^ 63 + 1)) s t ∧ t.snapAt = s.snapAt ∧ BytesKept s t) ∧
    (s.snap.getLsbD 0 = true → s.snap.getLsbD 2 = true → s.snapAt = none →
      ∃ t, exec .snapExternalTrigger s = .next t ∧ t.snapAt = some (s.cycle + 8, 3) ∧ { t with snapAt := none } = s)

namespace Sys2Proof.Said

/-- The undo record `k` of die `d`: its place, and the line it holds (20 R432). -/
def undoAt (s : State) (d k : Nat) : Nat := undoBase s d + 128 * k
def undoLine (s : State) (d k : Nat) : Nat := Mem.readNat s.deep (undoAt s d k + 64) 8 % 2 ^ 34

/-- No monitor waits, and the undo records of the interval are read and written back without an error (20 R427). -/
def LogsSound (s : State) : Prop :=
  monitorCount s = 0 ∧ s.deepErr = [] ∧ s.deepMetaErr = [] ∧
    ∀ d k, d < 4 → k < (s.undo.get d {}).lines.length →
      metaBad (metaAt s (.deep (undoAt s d k))) = false ∧ metaBad (metaAt s (.deep (undoAt s d k + 64))) = false

/-- Every undo record of the interval holds a line of its own, which no record lies in. -/
def LogsApart (s : State) : Prop :=
  ∀ d k, d < 4 → k < (s.undo.get d {}).lines.length →
    undoLine s d k % 64 = 0 ∧
    (∀ e j, e < 4 → j < (s.undo.get e {}).lines.length →
      (undoLine s d k + 64 ≤ undoAt s e j ∨ undoAt s e j + 128 ≤ undoLine s d k) ∧
      ((d, k) ≠ (e, j) → undoLine s d k ≠ undoLine s e j))

end Sys2Proof.Said

/-- 20 R422, R432: CKPT with operation 0 empties the undo logs and returns the number of the new interval; with operation 1 it also brings
every logged line back to the content its record holds; with operation 2 it returns the interval over the records in use on the
fullest die. -/
def Obligations.Checkpoints : Prop :=
  ∀ (st : BitVec 3) (d a : BitVec 5) (s : State), Free s → s.myRole.sup = true → dstOk d s.cur.role = true →
    Supplied (ru d a) s → ¬ isTimed s →
    (sourceOf (ru d a) s 0 = 0 → Idle s → s.stalled = [] →
      ∃ t, exec (.ckptClose st d a) s = .next t ∧ t.issued = true ∧
        LateWritten (ru d a) d 1 (BitVec.setWidth 64 (s.interval + 1)) s t ∧ t.undo = [] ∧ t.interval = s.interval + 1) ∧
    (sourceOf (ru d a) s 0 = 1 → LogsApart s → LogsSound s → s.stalled = [] →
      ∃ t, exec (.ckptRollback st d a) s = .next t ∧
        Returns (.ckptRollback st d a) (ru d a) d 1 (BitVec.setWidth 64 (s.interval + 1)) s t ∧ t.undo = [] ∧
        t.interval = s.interval + 1 ∧
        (∀ e k, e < 4 → k < (s.undo.get e {}).lines.length →
          Mem.readNat t.deep (undoLine s e k) 64 = Mem.readNat s.deep (undoAt s e k) 64) ∧
        ∀ i, (∀ e k, e < 4 → k < (s.undo.get e {}).lines.length → i < undoLine s e k ∨ undoLine s e k + 64 ≤ i) →
          t.deep.byte i = s.deep.byte i) ∧
    (sourceOf (ru d a) s 0 = 2 →
      ∃ t v, exec (.ckptQuery st d a) s = .next t ∧ Returns (.ckptQuery st d a) (ru d a) d 1 v s t ∧
        field v 32 32 = s.interval.toNat ∧
        ((∀ e ∈ s.undo, e.2.lines.length < 2 ^ 32) →
          (∀ e ∈ s.undo, e.2.lines.length ≤ field v 0 32) ∧
            (field v 0 32 = 0 ∨ ∃ e ∈ s.undo, field v 0 32 = e.2.lines.length)) ∧
        t.undo = s.undo ∧ BytesKept s t)

/-- 20 R423: TLBINV of a supervisor, once every earlier access that used an affected translation is performed, leaves no cached
translation, no walk under way and no code line of its extent in the package: the pages of an address (0), a domain (1),
everything (2). -/
def Obligations.TranslationsLeave : Prop :=
  ∀ (st : BitVec 3) (a b : BitVec 5) (s : State), Free s → s.myRole.sup = true → Supplied { srcs := [a, b] } s → ¬ isTimed s →
    (∀ e ∈ s.found.slots, ∀ r, (e.2.role r).outst = []) → (∀ e ∈ s.clusters, e.2.groups = []) → Idle s →
    let va := (sourceOf { srcs := [a, b] } s 0).toNat
    let w := sourceOf { srcs := [a, b] } s 1
    w.toNat < 64 → field w 4 2 ≠ 3 →
      ∃ t, exec (.tlbinv st a b) s = .next t ∧ t.issued = true ∧
        (∀ k, ∀ e ∈ (t.core k).utlb, tlbHit (field w 4 2) (field w 0 4) va e = false) ∧
        (∀ k, ∀ l ∈ (t.core k).code, inExtent (field w 4 2) (field w 0 4) va l.dom (64 * l.line) = false) ∧
        (∀ k, ∀ e ∈ (t.cluster k).tlb, tlbHit (field w 4 2) (field w 0 4) va e = false) ∧
        (∀ x ∈ t.walks, tlbHit (field w 4 2) (field w 0 4) va x.entry = false) ∧
        RegsKept none s t ∧ FlagsKept s t ∧ BytesKept s t

/-! ### Nullified instructions -/

namespace Sys2Proof.Said

/-- The vector and bit-tile instructions, and the matrix and outer-comparison instructions (03 R59). -/
def vectorAll (st : BitVec 3) (v : VxOps) (m : MxOps) : List Instr := ((onlyOfComputer st v m).drop 1).take 54
def matrixAll (st : BitVec 3) (v : VxOps) (m : MxOps) : List Instr := ((onlyOfComputer st v m).drop 1).drop 54

/-- What a nullified instruction that is no engine push leaves: its role goes on behind it with one less to nullify (04 R80, R81). -/
def Passes (i : Instr) (s t : State) : Prop :=
  Issued i (linkOf s.myRole i) (s.myRole.nul - 1) s t ∧ (∀ r at', t.myRole.reg r at' = s.myRole.reg r at') ∧
    (∀ r at', t.myRole.flag r at' = s.myRole.flag r at') ∧ (∀ q, t.queue s.me q = s.queue s.me q) ∧ bare t = bare s ∧
    BytesKept s t

/-- What a nullified push of an engine leaves: its role goes on as `Passes` says, and the engine's queue has one command more at its place
in push order, which does nothing; no register, flag, queue or byte changes, and nothing else but the number of the command. -/
def PassesQueued (i : Instr) (engine : Nat) (s t : State) : Prop :=
  Issued i (linkOf s.myRole i) (s.myRole.nul - 1) s t ∧ (∀ r at', t.myRole.reg r at' = s.myRole.reg r at') ∧
    (∀ r at', t.myRole.flag r at' = s.myRole.flag r at') ∧ (∀ q, t.queue s.me q = s.queue s.me q) ∧ BytesKept s t ∧
    bare t = bare { s with seqNo := s.seqNo + 1, cores := t.cores } ∧ (∀ c, c ≠ coreOf s.me → t.core c = s.core c) ∧
    ∃ e l r, e.nullified = true ∧ e.slot = s.me ∧ e.seq = s.seqNo ∧ (e.w0, e.w1) = encode i ∧ (∀ x ∈ l, cmdBefore x e = true) ∧
      (if engine = 0 then
        (s.core (coreOf s.me)).vq = l ++ r ∧ t.core (coreOf s.me) = { s.core (coreOf s.me) with vq := l ++ e :: r }
      else (s.core (coreOf s.me)).mq = l ++ r ∧ t.core (coreOf s.me) = { s.core (coreOf s.me) with mq := l ++ e :: r })

/-- The instructions of any role that name no queue port as destination, beside those of the tables (03 R59). -/
def common (st f fa fb : BitVec 3) (d a b : BitVec 5) (c7 : BitVec 7) (n : BitVec 4) (ord sco : BitVec 3) (i17 : BitVec 17)
    (i32 : BitVec 32) : List Instr :=
  [.nop st, .brk st, .trap st i17, .exit st, .spawn st d a b, .spawnj st d a b, .join st a, .yield st, .susp st, .evset st a b,
   .evclr st a b, .evwait st a b, .evtest st d a, .prio st d a, .sel st f d a b, .movi st d i17, .movl st d i32, .tick st d,
   .self st d, .fcmp st f a b c7, .flog st f fa fb c7, .nul st f n, .ji st d a, .fence st ord sco, .phnew st d a,
   .phregS st d a b, .phregW st d a b, .phregSw st d a b, .phdrop st a, .phsig st a, .phwait st a, .phnext st a,
   .phlink st d a b, .phqry st d a, .scope st d a b, .cancel st a, .scqry st d a, .scack st d a b, .twait st a, .frameq st d a,
   .parkSet st d a b, .tksig st n, .tkwait st n]

/-- The instructions that read their destination, or take a register as source in its place: no queue port may stand there
(02 R23, 04 R75, R96). -/
def portless (st : BitVec 3) (d a : BitVec 5) (w p : BitVec 6) (i32 : BitVec 32) : List Instr :=
  [.ins st d a w p, .lhi st d i32, .sysw st d 1]

end Sys2Proof.Said

/-- 04 R80, R81, 17 R351: in a NUL window an instruction that passes its checks of role and privilege has no effect but to count: its role
goes on behind it with one instruction less to nullify; no register, flag, queue or byte changes, and nothing else: a copy-unit command
enters no queue and no journal. A push of the vector or the matrix engine keeps its place in its queue as a command that does nothing
(08 R153, 09 R193); it enters a queue that holds 16 commands too (log entry 65, DEDUCED, the model's reading: 08 R145 blocks a push,
and a nullified instruction blocks for nothing). A BEND is one of them where no check of its block is due. -/
def Obligations.NullifiedRetires : Prop :=
  ∀ (st f fa fb : BitVec 3) (d a b : BitVec 5) (k : BitVec 3) (n : BitVec 7) (w p al : BitVec 6) (imm : BitVec 12) (ord sco : BitVec 3)
      (off disp : BitVec 8) (off18 : BitVec 18) (tw stream n4 : BitVec 4) (sx : BitVec 1) (sz : BitVec 2) (mask : BitVec 16)
      (q : BitVec 2) (r : BitVec 1) (i17 : BitVec 17) (i32 : BitVec 32) (x : ExOps) (v : VxOps) (m : MxOps) (s : State),
    Nullified s →
    (∀ i, dstOk d s.cur.role = true → (∃ row ∈ twoSource st d a b k n, i = row.1) ∨ (∃ row ∈ immediate st d a imm, i = row.1) ∨
        (∃ row ∈ bitForms st d a w p al, i = row.1) ∨ (∃ row ∈ divisions st d a b, i = row.1) ∨
        i ∈ common st f fa fb d a b n n4 ord sco i17 i32 ∨ i ∈ [.parkClear st d a b, .parkRead st d a b] ∨
        (∃ y, userReads y = true ∧ i = .sysr st d y) →
      ∃ t, exec i s = .next t ∧ Passes i s t) ∧
    (noPort d s.cur.role = true → ∀ i ∈ portless st d a w p i32, ∃ t, exec i s = .next t ∧ Passes i s t) ∧
    (aimOk s off.toInt tw → ∀ i, (∃ row ∈ branches st a b off tw, i = row.1) ∨ i = .bf st f off tw ∨ i = .bfN st f off tw ∨
        (noPort a s.cur.role = true ∧ i = .loop st a off tw) →
      ∃ t, exec i s = .next t ∧ Passes i s t) ∧
    (aimOk s off18.toInt tw → ∀ i ∈ [Instr.j st off18 tw, .jl st off18 tw], ∃ t, exec i s = .next t ∧ Passes i s t) ∧
    (blockReady s s.me = false → ∃ t, exec (.bend st) s = .next t ∧ Passes (.bend st) s t) ∧
    (s.cur.role ≠ .computer → ∀ i ∈ notComputer st d a b stream disp ord sz sx mask x, ∃ t, exec i s = .next t ∧ Passes i s t) ∧
    (s.cur.role = .loader → ∀ i ∈ [Instr.ldq st q a stream disp, .seghdr st d a, .stgq st q],
      ∃ t, exec i s = .next t ∧ Passes i s t) ∧
    (s.cur.role = .storer → ∃ t, exec (.stq st r a stream disp) s = .next t ∧ Passes (.stq st r a stream disp) s t) ∧
    (∀ i ∈ copies st x, (i = .dtld st x → s.myRole.sup = true) → ∃ t, exec i s = .next t ∧ Passes i s t) ∧
    (s.myRole.sup = true → noPort d s.cur.role = true → ∀ i, i ∈ privileged st d a b x ∨
        i ∈ [.jrnlLoad st d a b, .jrnlAbandon st d a b, .ckptRollback st d a, .ckptQuery st d a, .errorLogClear st d] →
      ∃ t, exec i s = .next t ∧ Passes i s t) ∧
    (s.cur.role = .computer →
      (∃ t, exec (.stgrel st) s = .next t ∧ Passes (.stgrel st) s t) ∧
      (∀ i ∈ vectorAll st v m, i.wellFormed = true → ∃ t, exec i s = .next t ∧ PassesQueued i 0 s t) ∧
      ∀ i ∈ matrixAll st v m, i.wellFormed = true → ∃ t, exec i s = .next t ∧ PassesQueued i 1 s t)

/-! ### The machine as a whole -/

/-- 02 R40: after reset, slot 0 of core 0 alone holds a strand, whose computer role stands at the ROM's entry in supervisor mode, its
loader and storer absent; every scalar register and flag is zero, every queue is empty, every token 0, every row tag RAW, no repair
entry valid, no code line cached; the memories have their canonical form. -/
def Obligations.ResetState : Prop :=
  (∀ k, k ≠ 0 → (State.reset.slot k).strand = none) ∧ (State.reset.slot 0).strand ≠ none ∧
    (State.reset.role 0 .computer).present = true ∧ (State.reset.role 0 .computer).sup = true ∧
    lineOf (State.reset.role 0 .computer).pc = 0xFFFF000 ∧ wordOf (State.reset.role 0 .computer).pc = 1 ∧
    (State.reset.role 0 .loader).present = false ∧ (State.reset.role 0 .storer).present = false ∧
    (∀ k r n at', (State.reset.role k r).reg n at' = 0 ∧ (State.reset.role k r).flag n at' = false) ∧
    (∀ k q, State.reset.queue k q = [] ∧ (State.reset.slot k).tokens.get q 0 = 0 ∧ (State.reset.slot k).rowTag.get q 0 = 0 ∧
      (State.reset.slot k).journal = []) ∧
    (∀ c b, (State.reset.core c).vq = [] ∧ (State.reset.core c).mq = [] ∧ (State.reset.core c).code = [] ∧
      (State.reset.core c).repair.get b 0 = 0) ∧
    State.reset.canonical

namespace Sys2Proof.Said

/-- The context fetches instruction `i` at its program counter: its role may issue, its line is at hand without an error, belongs to its
role, and decodes there to `i` (02 R26, R28, R29, 03 R63). -/
def Fetches (s : State) (i : Instr) : Prop :=
  blockedBy s s.me s.cur.role = none ∧ lineOf s.myRole.pc ≠ endLine ∧
    (∀ l, codeEntry s (coreOf s.me) (s.slot s.me).domain (lineOf s.myRole.pc) s.myRole.sup = some l → l.err = []) ∧
    ∃ d, cachedLine s (coreOf s.me) (s.slot s.me).domain (lineOf s.myRole.pc) s.myRole.sup = some d ∧
      ((lineWord d 0).extractLsb' 28 4).toNat = roleNum s.cur.role ∧
      (isLongMajor (lineWord d (wordOf s.myRole.pc)) = true → wordOf s.myRole.pc < 15) ∧
      decode (lineWord d (wordOf s.myRole.pc))
        (if isAssignedLong (lineWord d (wordOf s.myRole.pc)) then lineWord d (wordOf s.myRole.pc + 1) else 0) = .ok i

/-- The link word of the context's line, which the fetch keeps for a fall-through at its end (02 R28). -/
def linkWord (s : State) : InstrWord :=
  match cachedLine s (coreOf s.me) (s.slot s.me).domain (lineOf s.myRole.pc) s.myRole.sup with
  | some d => lineWord d 0
  | none => 0

end Sys2Proof.Said

namespace Sys2Proof.Said

/-- The accesses of slots of a core whose time has come are performed, slot by slot (13 R269). -/
def performed (core : Nat) (l : List Nat) (o : Result) : Result := l.foldl (fun o j => runAccesses o (4 * core + j)) o

end Sys2Proof.Said

/-- 02 R20, R28 (the agenda is the model's own, log entry 1): where a powered machine's next act gives a context its issue
opportunity and the word at its program counter decodes to `i`, the step is `exec` of `i` in that context, the line's link word
kept; where the positions of a core choose one context alone, it issues so behind the accesses of its slot and those below, and its
position notes whom it served, before the accesses of the slots above, the contexts that the positions found blocked, and those that no
position came to, which note why they wait; a step without a word runs in its context. -/
def Obligations.StepRunsDecoded : Prop :=
  ∀ (s : State) (rest : List Act), s.powered = true →
    let q := { s with agenda := rest }
    (∀ slot r i, s.agenda = .issue slot r :: rest →
      let s0 := { q with cur := contextOf slot r, issued := false }
      Fetches s0 i → step s = exec i (s0.modMe (fun c => { c with link := linkWord s0 }))) ∧
    (∀ core pos j i sA s0 t, s.agenda = .issuing core :: rest → j < 4 →
      performed core (List.range 4) (.next q) = .next sA → performed core (List.range (j + 1)) (.next q) = .next s0 →
      (coreTries sA core).filter (·.took) = [⟨pos, 4 * core + j, true⟩] →
      let s1 := { s0 with cur := contextOf (4 * core + j) (positionRole pos), issued := false }
      Fetches s1 i → exec i (s1.modMe (fun c => { c with link := linkWord s1 })) = .next t → t.issued = true →
        step s = (untried q core (coreTries sA core)).foldl runIdle
          (((coreTries sA core).filter (fun x => !x.took)).foldl runBlocked
            (performed core ((List.range 4).drop (j + 1)) (.next (servedBy t core pos (4 * core + j)))))) ∧
    (∀ c i, s.agenda = .event c i :: rest → step s = exec i { q with cur := c })

/-- 03 R47 to R61, 04, 05, 09 to 12, 15, 18, 21, 23 (the words that the spec works out): each pair of words decodes to the instruction it
stands for. -/
def Obligations.DecodeWords : Prop :=
  ∀ row ∈ ([(0x02463200, 0, .add 1 3 3 4), (0x020A6381, 0, .sub 0 5 6 7), (0x04129FFF, 0, .addImm 0 9 9 0xFFF),
      (0x240822C8, 0, .extz 0 4 2 11 8), (0x2C06320C, 0, .wrap 0 3 3 4 12), (0x2E07FFFE, 0, .movi 0 3 0x1FFFE),
      (0xCA0E0000, 0x12345678, .movl 0 7 0x12345678), (0x6C0C2302, 0, .ldD 0 6 2 3 2), (0x98000000, 0, .nop 0),
      (0x90000003, 0, .exit 0), (0x90000004, 0, .yield 0), (0x92000002, 0, .bend 0), (0x96000002, 0, .stgrel 0),
      (0x9E000005, 0, .trap 0 5), (0x98080004, 0, .tick 0 4), (0x9A0C0009, 0, .sysr 0 6 9),
      (0xC00282C8, 0x0CF20233, .vadd 0 ⟨10, 11, 12, 15, 2, 0, 0x233⟩), (0xC4000001, 0, .mflip 0 ⟨0, 0, 0, 0, 0, 0, 0, 0, 0, 0, 0⟩),
      (0xC612A580, 0x00000012, .cpy 0 ⟨9, 10, 11, 0, 0, 0, 0x12⟩)] : List (InstrWord × InstrWord × Instr)),
    decode row.1 row.2.1 = .ok row.2.2

/-- 03 R47 to R61: every well-formed instruction that has a word of its own is read back from its words, every operand at every value
that the encoding admits; and an instruction that a register's value tells from another only when it runs (18 R399, 20 R419,
R422, R427) has the other's words. -/
def Obligations.DecodeEncode : Prop :=
  (∀ i : Instr, i.wellFormed = true → i.hasWord = true → decode (encode i).1 (encode i).2 = .ok i) ∧
    ∀ (st : BitVec 3) (d a b : BitVec 5),
      encode (.parkClear st d a b) = encode (.parkSet st d a b) ∧ encode (.parkRead st d a b) = encode (.parkSet st d a b) ∧
      encode (.jrnlLoad st d a b) = encode (.jrnlStore st d a b) ∧ encode (.jrnlAbandon st d a b) = encode (.jrnlStore st d a b) ∧
      encode (.ckptRollback st d a) = encode (.ckptClose st d a) ∧ encode (.ckptQuery st d a) = encode (.ckptClose st d a) ∧
      encode (.errorLogClear st d) = encode (.diagdWrite st d)

/-- 01 R4 (the canonical form is the model's own): every step that goes on keeps the memories in their canonical form: each byte is listed
once, in rising order of addresses, and none that reads as an unlisted byte does. -/
def Obligations.MemoriesStayCanonical : Prop :=
  ∀ s t : State, s.canonical → step s = .next t → t.canonical

/-! ### The scheduler's steps -/

namespace Sys2Proof.Said

/-- Only cluster `k` is not as before. -/
def OnlyCluster (k : Nat) (s t : State) : Prop := (∀ j, j ≠ k → t.cluster j = s.cluster j) ∧ { t with clusters := s.clusters } = s

/-- Only slot `k` is not as before. -/
def OnlySlot (k : Nat) (s t : State) : Prop := (∀ j, j ≠ k → t.slot j = s.slot j) ∧ { t with slots := s.slots } = s

/-- Only core `k` is not as before. -/
def OnlyCore (k : Nat) (s t : State) : Prop := (∀ j, j ≠ k → t.core j = s.core j) ∧ { t with cores := s.cores } = s

/-- A record that a slot can take: neither malformed nor preempted (02 R34, R35). A CPTR of 0 is well formed where a suspension has left
it for a computer that had exited (log entry 15). -/
def Takable (s : State) (pa : Nat) : Prop :=
  recState s pa < 8 ∧ recFlags s pa / flagPreempted % 2 = 0 ∧ (recGet s pa 4 4 ≠ 0 ∨ pa ∈ s.exitedOn) ∧
    ∀ o ∈ [0, 4, 8], recGet s pa o 4 = 0 ∨ 2 ^ 28 ≤ recGet s pa o 4

/-- A role as a strand begins it: at its pointer, or absent where that is 0; s1 to s5 from the record, every other register and every
flag 0; it issues from cycle `issue` on (11 R219). -/
def Begun (s t : State) (k : Nat) (r : Role) (ref : RecRef) (ptr issue : Nat) : Prop :=
  let c := t.role k r
  c.present = (ptr != 0) ∧ c.exited = false ∧ c.pc = BitVec.ofNat 32 ptr ∧ c.nextIssue = issue ∧ c.sup = ref.sup ∧ c.vpend = [] ∧
    c.outst = [] ∧ (∀ n at', c.reg n at' = if 1 ≤ n ∧ n ≤ 5 then recReg s ref.pa n else 0) ∧ (∀ f at', c.flag f at' = false)

end Sys2Proof.Said

/-- 11 R217 to R219, R225, R226, 15 R322. A free slot takes the first record by the order of 11 R226, which issues 16 cycles later with
s1 to s5 from the record. The oldest spilled record of the highest priority comes on chip, the next no sooner than 4 cycles later. A kept
record is offered again. The overflow scan moves its first waiters into free entries. A polled record runs again. That a record with a
CPTR of 0 is taken where a suspension has left it so is log entry 15 (DEDUCED, the model's reading; 02 R35 traps a zero CPTR). -/
def Obligations.SchedulerMovesRecords : Prop :=
  ∀ (s : State),
    (∀ l r e, slotFree s s.me = true → (s.cluster (clusterOf s.me)).ready = l ++ e :: r → (∀ x ∈ l, before e x = true) →
      (∀ x ∈ r, before x e = false) → e.core = none → (s.cluster (clusterOf s.me)).resume = [] → Takable s e.ref.pa →
      RecQuiet s e.ref.pa →
      ∃ t, exec .strandPickup s = .next t ∧ (t.cluster (clusterOf s.me)).ready = l ++ r ∧
        ((t.slot s.me).strand.map (fun x => (x.ref, x.prio, x.scope, x.boot))) =
          some (e.ref, recPrio s e.ref.pa, recScope s e.ref.pa, false) ∧
        Begun s t s.me .loader e.ref (recGet s e.ref.pa 0 4) (s.cycle + 16) ∧
        Begun s t s.me .computer e.ref (recGet s e.ref.pa 4 4) (s.cycle + 16) ∧
        Begun s t s.me .storer e.ref (recGet s e.ref.pa 8 4) (s.cycle + 16) ∧
        (t.slot s.me).domain = e.ref.dom ∧ (∀ q, t.queue s.me q = [] ∧ (t.slot s.me).tokens.get q 0 = 0) ∧
        SlotsKept (· = s.me) s t ∧ BytesKept s t) ∧
    (∀ l r e, (s.cluster (clusterOf s.me)).spill = l ++ e :: r → (∀ x ∈ l, e.prio < x.prio) → (∀ x ∈ r, e.prio ≤ x.prio) →
      (s.cluster (clusterOf s.me)).resume = [] → (s.cluster (clusterOf s.me)).ready.length < 960 →
      (s.cluster (clusterOf s.me)).refillAt ≤ s.cycle →
      ∃ t, exec .spillRefill s = .next t ∧ OnlyCluster (clusterOf s.me) s t ∧
        t.cluster (clusterOf s.me) =
          { s.cluster (clusterOf s.me) with
            spill := l ++ r, ready := (s.cluster (clusterOf s.me)).ready ++ [{ e with since := s.cycle }],
            refillAt := s.cycle + 4 }) ∧
    (∀ e rest, (s.cluster (clusterOf s.me)).kept = e :: rest → e.again ≤ s.cycle → (∀ x ∈ rest, s.cycle < x.again) →
      e.msg = none → (s.cluster (clusterOf s.me)).ready.length < 960 →
      ∃ t, exec .placementRetry s = .next t ∧ OnlyCluster (clusterOf s.me) s t ∧
        t.cluster (clusterOf s.me) =
          { s.cluster (clusterOf s.me) with
            kept := rest, ready := (s.cluster (clusterOf s.me)).ready ++ [{ e.entry with since := s.cycle }] }) ∧
    (s.cycle % 256 = 0 →
      let c := s.cluster (clusterOf s.me)
      (∀ w ∈ c.overflow, ((c.events ||| c.since).extractLsb' (16 * w.group) 16) &&& w.mask ≠ w.mask) →
      ∃ t, exec .eventOverflowScan s = .next t ∧ OnlyCluster (clusterOf s.me) s t ∧
        t.cluster (clusterOf s.me) =
          { c with wait := c.wait ++ c.overflow.take (64 - c.wait.length), overflow := c.overflow.drop (64 - c.wait.length),
                   since := 0 }) ∧
    (∀ w rest, s.cycle % 256 = 0 → (s.cluster (clusterOf s.me)).overflow = w :: rest → suspendingSlot s w.ref = none →
      RecQuiet s w.ref.pa → (s.cluster (clusterOf s.me)).ready.length < 1024 →
      let c := s.cluster (clusterOf s.me)
      ((c.events ||| c.since).extractLsb' (16 * w.group) 16) &&& w.mask = w.mask →
      (∀ x ∈ rest, ((c.events ||| c.since).extractLsb' (16 * x.group) 16) &&& x.mask ≠ x.mask) →
      ∃ t, exec .eventOverflowScan s = .next t ∧ recState t w.ref.pa = stRunning ∧
        (∃ e, (t.cluster (clusterOf s.me)).ready = c.ready ++ [e] ∧ e.ref = w.ref ∧ e.fresh = false) ∧
        (t.cluster (clusterOf s.me)).wait = c.wait ++ rest.take (64 - c.wait.length) ∧
        (t.cluster (clusterOf s.me)).overflow = rest.drop (64 - c.wait.length) ∧ SlotsKept (fun _ => False) s t) ∧
    (∀ ref due rest, (s.cluster (clusterOf s.me)).poll = (ref, due) :: rest → due ≤ s.cycle →
      (∀ x ∈ rest, s.cycle < x.2) → suspendingSlot s ref = none →
      RecQuiet s ref.pa → (s.cluster (clusterOf s.me)).ready.length < 1024 →
      ∃ t, exec .pollWake s = .next t ∧ recState t ref.pa = stRunning ∧ (t.cluster (clusterOf s.me)).poll = rest ∧
        (∃ e, (t.cluster (clusterOf s.me)).ready = (s.cluster (clusterOf s.me)).ready ++ [e] ∧ e.ref = ref ∧ e.fresh = false ∧
          e.prio = recPrio s ref.pa) ∧
        (∀ q, q ≠ .deep (ref.pa + 15) → rawRead t q 1 = rawRead s q 1) ∧ SlotsKept (fun _ => False) s t)

/-! ### Leaving a slot, preemption, entry of traps -/

namespace Sys2Proof.Said

/-- No access of the slot is on its way. -/
def NoAccesses (s : State) : Prop := ∀ r, (s.role s.me r).outst = []

/-- No save area is reserved for the slot and no record waits for it (11 R229). -/
def NoVictim (s : State) : Prop := (s.slot s.me).saveArea = none ∧ (s.slot s.me).victimOf = none

/-- The strand's record passes quietly from its slot to memory: neither the boot strand nor TIMED nor preempted. -/
def Ordinary (s : State) (x : Strand) : Prop :=
  (s.slot s.me).strand = some x ∧ x.boot = false ∧ x.timed = false ∧ x.preempted = false ∧ RecQuiet s x.ref.pa ∧
    NoAccesses s ∧ NoVictim s

/-- The pointer a record gets for a role that a suspension leaves (11 R221). -/
def leftAt (s : State) (u : Susp) (r : Role) : Nat :=
  if r = u.role then u.ptr.toNat else if (s.role s.me r).present ∧ ¬ (s.role s.me r).exited then (s.role s.me r).pc.toNat else 0

/-- A suspension of the slot is to complete (11 R221): no trap and no kill comes first, the queues are empty or have been, the other
roles stand at a boundary, and what was issued has landed and been performed. -/
def Suspended (s : State) (u : Susp) : Prop :=
  (s.slot s.me).susp = some u ∧ (s.slot s.me).trap = none ∧ (s.slot s.me).kill = false ∧
    (u.stop = true ∨ queuesEmpty s s.me = true) ∧ suspendReady s s.me = true ∧ (s.role s.me u.role).pend = []

/-- The reference of a record that leaves its slot: it belongs to the slot's domain now (11 R214). -/
def refOf (s : State) (x : Strand) : RecRef := { x.ref with dom := (s.slot s.me).domain }

/-- The strand has left its slot for its record, in state `st`: STARTED set, its priority, its pointers, s1 to s5 of the role that
suspended (11 R221, R239). -/
def Left (s t : State) (x : Strand) (u : Susp) (st : Nat) : Prop :=
  (t.slot s.me).strand = none ∧ recState t x.ref.pa = st ∧ recFlags t x.ref.pa = flagStarted ∧ recPrio t x.ref.pa = x.prio % 64 ∧
    recGet t x.ref.pa 0 4 = leftAt s u .loader ∧ recGet t x.ref.pa 4 4 = leftAt s u .computer ∧
    recGet t x.ref.pa 8 4 = leftAt s u .storer ∧ (x.ref.pa ∈ t.exitedOn ↔ leftAt s u .computer = 0) ∧
    (∀ n, 1 ≤ n → n ≤ 5 → recReg t x.ref.pa n = (s.role s.me u.role).reg n s.cycle) ∧ SlotsKept (· = s.me) s t

/-- The record stands last in its cluster's ready queue, as a resume. -/
def Resumes (s t : State) (x : Strand) : Prop :=
  ∃ e, (t.cluster (clusterOf s.me)).ready = (s.cluster (clusterOf s.me)).ready ++ [e] ∧ e.ref = refOf s x ∧
    e.prio = x.prio % 64 ∧ e.started = true ∧ e.fresh = false

/-- The place where the next address of the cluster's list `w` goes is none, or a doubleword of another line than the record's that is
logged or needs no logging, with no monitor on its line (11 R218). -/
def TailQuiet (s : State) (w pa : Nat) : Prop :=
  ∀ p, listTail s (clusterOf s.me) w = some p →
    ∃ a, p = .deep a ∧ a % 8 = 0 ∧ a / 64 ≠ pa / 64 ∧ undoFirst s a = false ∧
      ∀ e ∈ s.clusters, ∀ m ∈ e.2.monitors, m.2 ≠ .deep (a / 64 * 64)

/-- The record's address stands at the tail of the list `w`, where the list has a place, and every byte outside it and the record reads
as before. -/
def Tailed (s t : State) (w pa : Nat) (va : Word) : Prop :=
  (∀ a, listTail s (clusterOf s.me) w = some (.deep a) → rawRead t (.deep a) 8 = va.toNat) ∧
    ∀ q, Outside q (.deep pa) 64 → (∀ p, listTail s (clusterOf s.me) w = some p → Outside q p 8) → rawRead t q 1 = rawRead s q 1

/-- A trap that is under way can be entered (20 R407, R412): no other role's NUL window is open, nor the taker's where the trap is
asynchronous, the slot's results have landed, no command of the slot is left where it is a preemption, and its vector line is a code
line of the taker that is cached, free of errors. -/
def Enterable (s : State) (q : TrapReq) : Prop :=
  (s.slot s.me).trap = some q ∧ (s.slot s.me).halting = false ∧ (s.slot s.me).susp = none ∧
    windowsClosed s s.me (if q.async then none else some q.role) = true ∧ resultsLanded s s.me = true ∧
    (s.role s.me q.role).held = false ∧
    (q.cause = 14 → commandsLeft s s.me = false) ∧
    (s.role s.me q.role).tvec.toNat % 2 ^ 28 + q.cause ≤ 0xFFFFFFE ∧
    (∀ l, codeEntry s (coreOf s.me) (s.slot s.me).domain ((s.role s.me q.role).tvec.toNat % 2 ^ 28 + q.cause) true = some l →
      l.err = []) ∧
    ∃ d, cachedLine s (coreOf s.me) (s.slot s.me).domain ((s.role s.me q.role).tvec.toNat % 2 ^ 28 + q.cause) true = some d ∧
      (lineWord d 0).toNat / 2 ^ 28 = roleNum q.role

end Sys2Proof.Said

/-- 11 R221, R229, R236, R237, 12 R257, R262, 15 R320, R333, 20 R407, R411, R412, R431: a suspension completes once the slot is quiet, its
pointers, priority, s1 to s5 and the STATE of its kind in its record, which waits in the list of that kind. A waiting record of 4,096
cycles makes the victim's slot take PREEMPT (one a cycle, log entry 79). A command that waits in vain is lifted in the drain. A strand to
be killed stops as a removed record. A trap under way is entered. A hang is recorded and its trap requested. That a lift drops nullified
commands is the model's choice (log entry 17), and that a slot may complete its suspension once its roles have stopped or its queues are
empty its reading (log entry 80). -/
def Obligations.SlotsGiveUpStrands : Prop :=
  ∀ (s : State),
    (∀ x u, Ordinary s x → Suspended s u →
      let pa := x.ref.pa
      let c := s.cluster (clusterOf s.me)
      (u.kind = .yield → c.ready.length < 1024 →
        ∃ t, exec .suspensionComplete s = .next t ∧ Left s t x u stRunning ∧ Resumes s t x ∧ BytesButRecord s t pa) ∧
      (u.kind = .dormant →
        ∃ t, exec .suspensionComplete s = .next t ∧ Left s t x u stDormant ∧ t.dormant = s.dormant ++ [(refOf s x, x.scope)] ∧
          (t.cluster (clusterOf s.me)).ready = c.ready ∧ BytesButRecord s t pa) ∧
      (∀ m g, u.kind = .event m g → g < 16 →
        (c.wait.length < 64 →
          ∃ t, exec .suspensionComplete s = .next t ∧ Left s t x u stWaitEv ∧ recWmask t pa = m.toNat ∧ recGroups t pa / 16 = g ∧
            (t.cluster (clusterOf s.me)).wait = c.wait ++ [⟨refOf s x, g, m⟩] ∧ BytesButRecord s t pa) ∧
        (64 ≤ c.wait.length → TailQuiet s 10 pa →
          ∃ t, exec .suspensionComplete s = .next t ∧ Left s t x u stWaitEv ∧ recWmask t pa = m.toNat ∧ recGroups t pa / 16 = g ∧
            (t.cluster (clusterOf s.me)).overflow = c.overflow ++ [⟨refOf s x, g, m⟩] ∧ Tailed s t 10 pa x.ref.va)) ∧
      (∀ th, u.kind = .frame th → TailQuiet s 6 pa →
        ∃ t, exec .suspensionComplete s = .next t ∧ Left s t x u stWaitEv ∧ recWmask t pa = 0 ∧
          (t.cluster (clusterOf s.me)).frameWait = c.frameWait ++ [(refOf s x, th)] ∧ Tailed s t 6 pa x.ref.va) ∧
      (∀ va p, u.kind = .monitor va p →
        (u.woken = true → c.ready.length < 1024 →
          ∃ t, exec .suspensionComplete s = .next t ∧ Left s t x u stRunning ∧ Resumes s t x ∧ BytesButRecord s t pa) ∧
        (u.woken = false → (∃ m ∈ c.monitors, m.1.pa = pa) →
          ∃ t, exec .suspensionComplete s = .next t ∧ Left s t x u stWaitMon ∧
            (t.cluster (clusterOf s.me)).monitors = c.monitors.map (fun m => if m.1.pa = pa then (refOf s x, m.2) else m) ∧
            BytesButRecord s t pa) ∧
        (u.woken = false → (∀ m ∈ c.monitors, m.1.pa ≠ pa) → TailQuiet s 4 pa →
          ∃ t, exec .suspensionComplete s = .next t ∧ Left s t x u stWaitMon ∧
            (t.cluster (clusterOf s.me)).poll = c.poll ++ [(refOf s x, s.cycle + 1024)] ∧ Tailed s t 4 pa x.ref.va)) ∧
      (∀ ph, u.kind = .phaser ph →
        (u.woken = true → c.ready.length < 1024 →
          ∃ t, exec .suspensionComplete s = .next t ∧ Left s t x u stRunning ∧ Resumes s t x ∧ BytesButRecord s t pa) ∧
        (u.woken = false →
          ∃ t, exec .suspensionComplete s = .next t ∧ Left s t x u stWaitPh ∧
            t.phWait = s.phWait.map (fun w => if w.1.pa = pa then (refOf s x, w.2) else w) ∧ BytesButRecord s t pa))) ∧
    (∀ a rest e k x, (s.cluster (clusterOf s.me)).saves = a :: rest → (s.cluster (clusterOf s.me)).ready = [e] → e.busy = false →
      4096 ≤ s.cycle - e.since → (∀ j, s.reservedBy j = none) → clusterOf k = clusterOf s.me → preemptable (s.slot k) = true →
      (s.slot k).strand = some x → e.prio < x.prio →
      (∀ j y, clusterOf j = clusterOf s.me → j ≠ k → (s.slot j).strand = some y → y.prio < x.prio) →
      ∃ t, exec .preemptTrigger s = .next t ∧ (t.cluster (clusterOf s.me)).saves = rest ∧
        (t.cluster (clusterOf s.me)).ready = [{ e with busy := true }] ∧
        t.slot k = { s.slot k with
          saveArea := some a, victimOf := some e.ref.va,
          pending := (s.slot k).pending ++ [⟨.computer, 14, e.ref.va, true, .computer⟩] } ∧
        SlotsKept (· = k) s t ∧ BytesKept s t) ∧
    (∀ q m rest tok, (s.slot s.me).draining = true → (s.slot s.me).trap = some q → windowsClosed s s.me (some q.role) = false →
      (s.core (coreOf s.me)).vq.filter (fun c => c.slot = s.me) = m :: rest →
      (∀ c ∈ (s.core (coreOf s.me)).mq, c.slot ≠ s.me) → m.nullified = false → waitToken m.w1 = some tok →
      (s.slot s.me).tokens.get tok 0 = 0 →
      (∀ r ∈ (s.core (coreOf s.me)).vrun ++ (s.core (coreOf s.me)).mrun, r.cmd.slot ≠ s.me) →
      ∃ t, exec .preemptDrainEnd s = .next t ∧
        (t.core (coreOf s.me)).vq = (s.core (coreOf s.me)).vq.filter (fun c => c.slot ≠ s.me) ∧
        (∀ c, c ∈ (t.slot s.me).lift ↔ c ∈ (s.slot s.me).lift ∨ (c ∈ m :: rest ∧ c.nullified = false)) ∧
        (t.slot s.me).trap = some q ∧ SlotsKept (· = s.me) s t ∧ BytesKept s t) ∧
    (∀ x, Ordinary s x → (s.slot s.me).kill = true → windowsClosed s s.me none = true → (s.slot s.me).lo.vpend = [] →
      (s.slot s.me).st.vpend = [] → (s.slot s.me).susp = none → (s.slot s.me).holds = 0 →
      (∀ m ∈ s.members, m.record ≠ x.ref.pa) → 1 < (s.scope x.scope).live →
      ∃ t, exec .killPointStop s = .next t ∧ (t.slot s.me).strand = none ∧ (∀ q, t.queue s.me q = []) ∧
        recState t x.ref.pa = stFree ∧ (t.scope x.scope).live = (s.scope x.scope).live - 1 ∧
        (∀ l ∈ t.launches, ∀ r ∈ l.records, r.1 ≠ x.ref.pa) ∧
        (∀ q, q ≠ .deep (x.ref.pa + 15) → rawRead t q 1 = rawRead s q 1) ∧ SlotsKept (· = s.me) s t) ∧
    (∀ q, Enterable s q →
      ∃ t, exec .trapEntry s = .next t ∧
        (let c := t.role s.me q.role
         let c0 := s.role s.me q.role
         c.epc = BitVec.setWidth 64 c0.pc ∧
           c.cause = BitVec.ofNat 64 ((if q.async then 2 ^ 63 else 0) + roleNum q.src * 256 + q.cause) ∧ c.tval = q.tval ∧
           c.psup = c0.sup ∧ c.sup = true ∧ c.nul = 0 ∧ c.pc = codeAddr (c0.tvec.toNat % 2 ^ 28 + q.cause) 1) ∧
        (∀ r, r ≠ q.role → (s.role s.me r).present = true → (s.role s.me r).exited = false → (s.role s.me r).held = false →
          (t.role s.me r).held = true ∧ (t.role s.me r).epc = BitVec.setWidth 64 (s.role s.me r).pc) ∧
        (∀ r n at', (t.role s.me r).reg n at' = (s.role s.me r).reg n at') ∧ (∀ p, t.queue s.me p = s.queue s.me p) ∧
        (t.slot s.me).trap = none ∧ (t.slot s.me).handlers = (q.role, q.cause) :: (s.slot s.me).handlers ∧
        SlotsKept (· = s.me) s t ∧ BytesKept s t) ∧
    ((s.slot s.me).ctl.getLsbD 1 = true → (s.slot s.me).strand ≠ none →
      2 ^ (16 + field (s.slot s.me).ctl 4 4) ≤ (s.slot s.me).progress →
      ∃ t, exec .hangTimeout s = .next t ∧ (t.slot s.me).progress = 0 ∧
        (t.slot s.me).pending = (s.slot s.me).pending ++ [⟨.computer, 16, 0, true, .computer⟩] ∧
        field ((t.slot s.me).hangRec.get 0 0) 63 1 = 1 ∧ field ((t.slot s.me).hangRec.get 0 0) 48 8 = s.me ∧
        (let g := s.cluster (clusterOf s.me)
         let g1 := t.cluster (clusterOf s.me)
         g1.logHead = (g.logHead + 1) % 256 ∧ ((g1.log.get g.logHead 0).extractLsb' 56 8).toNat = 8) ∧
        (∀ r, t.role s.me r = s.role s.me r) ∧ SlotsKept (· = s.me) s t ∧ BytesKept s t)

/-! ### Accesses performed, engines and copies at work -/

namespace Sys2Proof.Said

/-- The place is a multiple of `n` from the start of its store. -/
def AlignedAt (p : Place) (n : Nat) : Prop :=
  match p with
  | .spad _ o => o % n = 0
  | .deep a => a % n = 0
  | .remote _ a => a % n = 0
  | .host a => a % n = 0
  | .window o => o % n = 0

/-- A value of `n` bytes can be written at `p` without a side: 1, 2, 4 or 8 bytes, aligned, at a place that exists, no injection armed. -/
def Writable (s : State) (p : Place) (n : Nat) : Prop :=
  n ∈ [1, 2, 4, 8] ∧ AlignedAt p n ∧ Exists p ∧ Plainly s s p ∧ ∀ k, (s.core k).einj.getLsbD 0 = false

/-- A result of variable latency as its value is known: bound for the router ticket named, else as it was. -/
def bound (ticket v : Nat) (p : VPend) : VPend :=
  if p.late.ticket = ticket then { p with late := { p.late with val := BitVec.ofNat 64 v, ticket := 0 } } else p

/-- The signal of a command's second word raises its token by one, where it stands below 255, and no other token changes (17 R345). -/
def Signalled (w1 : InstrWord) (k : Nat) (s t : State) : Prop :=
  ∀ tok, (t.slot k).tokens.get tok 0 =
    if signalToken w1 = some tok ∧ (s.slot k).tokens.get tok 0 ≠ 255 then (s.slot k).tokens.get tok 0 + 1
    else (s.slot k).tokens.get tok 0

/-- The command may start: pushed in an earlier cycle, in a tick where its strand is TIMED, it waits on no token, and no stored bit of its
entry is struck. -/
def Startable (s : State) (m : Cmd) : Prop :=
  m.pushed < s.cycle ∧ (m.timed = true → s.ticks = true) ∧ waitToken m.w1 = none ∧ m.flips = 0

/-- The scope counts more than this one item. -/
def Counted (s : State) (c : Nat) : Prop := c < 16384 ∧ 1 < (s.scope c).live

/-- Slot `y` is slot `x` with the write `e` of a command landed (07 R141, R142, 08 R150): the sectors or tile rows it covers, of a row of
E2M1B bytes 896 to 1,023 as zero; the tag, which a write in part leaves POISON. -/
def Landed (x y : Slot) (e : Eff) : Prop :=
  match e with
  | .row n v sectors tag =>
    (∀ i, i < 8192 → (y.rowRead n).getLsbD i =
      if tag % 16 = 9 ∧ 7168 ≤ i then false else if sectors.getLsbD (i / 512) then v.getLsbD i else (x.rowRead n).getLsbD i) ∧
      y.rowTagOf n = if 16 ≤ tag ∧ x.rowTagOf n = 15 then 15 else tag % 16
  | .tile n v rows tag =>
    (∀ i, i < 65536 → (y.tileRead n).getLsbD i = if rows.getLsbD (i / 256) then v.getLsbD i else (x.tileRead n).getLsbD i) ∧
      y.tileTagOf n = if 16 ≤ tag ∧ x.tileTagOf n = 15 then 15 else tag % 16
  | .mask n v => y.maskOf n = v
  | .opReg n v => y.opOf n = v
  | .key v tag part => y.keyRead = v ∧ y.keyTag = tag ∧ y.keyPart = part
  | .pred kind n v => y.predOf kind n = v &&& predOnes kind
  | .store _ _ _ _ => True

/-- What the write does not name stands as it was. -/
def OthersStand (x y : Slot) (e : Eff) : Prop :=
  (∀ j, (∀ v sectors tag, e ≠ .row j v sectors tag) → y.rowRead j = x.rowRead j ∧ y.rowTagOf j = x.rowTagOf j) ∧
    (∀ j, (∀ v rows tag, e ≠ .tile j v rows tag) → y.tileRead j = x.tileRead j ∧ y.tileTagOf j = x.tileTagOf j) ∧
    (∀ j, (∀ v, e ≠ .mask j v) → y.maskOf j = x.maskOf j) ∧ (∀ j, (∀ v, e ≠ .opReg j v) → y.opOf j = x.opOf j)

/-- A command's store of `len` bytes from `off` of its scratchpad meets no refusal, no error and no side: its lines take its stamp, no other
slot has a plain store to them on its way, no monitor waits and no injection is armed. -/
def StoreQuiet (s : State) (m : Cmd) (off len : Nat) : Prop :=
  off % 64 = 0 ∧ off + len ≤ 2 ^ 22 ∧ monitorCount s = 0 ∧ (∀ k, (s.core k).einj.getLsbD 0 = false) ∧
    ∀ i, i < len → let p := Place.spad (coreOf m.slot) (off + i)
      Sound s p ∧ stampAllows (metaAt s p) m.slot m.dph = true ∧ ∀ k r, k ≠ m.slot → lineStreams (s.role k r) p = []

/-- A unit of the die's next line to scrub. -/
def scrubUnit (s : State) (i : Nat) : Nat := dieOf s.me * 2 ^ 32 + 64 * s.scrubbed.get (dieOf s.me) 0 + 8 * i

/-- The metadata of that line hold no error. -/
def ScrubLineSound (s : State) : Prop :=
  metaErrAt s (.deep (scrubUnit s 0)) = 0 ∧ metaBad (metaAt s (.deep (scrubUnit s 0))) = false

end Sys2Proof.Said

/-- 14 R286, R289, R304, 02 R29, R32, 08 R149, R150, 09 R173, R187, R188, 17 R344, R349, R350, 20 R427: an access on its way reaches
its home when its time has come; a result lands; a merge group leaves as one request whose members each get the value before them; a
code line is fetched; the scrub corrects a single-bit error; commands start and land. -/
def Sys2Proof.Said.UnitsAtWork : Prop :=
  ∀ (s : State),
    (∀ o, s.myRole.outst = [o] → o.op = 0 → o.due ≤ s.cycle → Writable s o.place o.w →
      ∃ t, exec .accessPerformed s = .next t ∧ Stores s t o.place o.w o.val.toNat o.stamp ∧
        t.myRole = { s.myRole with outst := [] } ∧ (∀ r, r ≠ s.cur.role → t.role s.me r = s.role s.me r) ∧
        SlotsKept (· = s.me) s t) ∧
    (∀ r n l, (s.role s.me r).vpend = [⟨.sreg n, l⟩] → n ≠ 0 → l.ticket = 0 → l.events = none → l.behind = 0 → l.due ≤ s.clock s.me →
      (s.role s.me r).pend = [] →
      ∃ t, exec .variableResultLand s = .next t ∧ (t.role s.me r).vpend = [] ∧
        (∀ j at', (t.role s.me r).reg j at' = if j = n then l.val else (s.role s.me r).reg j at') ∧
        (∀ f at', (t.role s.me r).flag f at' = (s.role s.me r).flag f at') ∧ OnlySlot s.me s t) ∧
    (∀ g m1 m2, (s.cluster (clusterOf s.me)).groups = [g] → g.opened + 8 ≤ s.cycle → g.members = [m1, m2] → m1.input < m2.input →
      m2.input < 8 → m1.slot ≠ m2.slot → m1.returns = true → m2.returns = true → m1.ticket ≠ 0 → m2.ticket ≠ 0 → g.w ∈ [4, 8] →
      (takeDelay s).1 = 0 → Writable s g.place g.w →
      let x0 := rawRead s g.place g.w
      let x1 := atomicNew g.op (8 * g.w) x0 (m1.operand.toNat % 2 ^ (8 * g.w))
      let x2 := atomicNew g.op (8 * g.w) x1 (m2.operand.toNat % 2 ^ (8 * g.w))
      ∃ t, exec .routerMergeDepart s = .next t ∧ (t.cluster (clusterOf s.me)).groups = [] ∧
        Stores s t g.place g.w x2 (stampOrdered m2.slot) ∧
        (∀ r, (t.role m1.slot r).vpend = (s.role m1.slot r).vpend.map (bound m1.ticket x0)) ∧
        (∀ r, (t.role m2.slot r).vpend = (s.role m2.slot r).vpend.map (bound m2.ticket x1)) ∧
        SlotsKept (fun k => k = m1.slot ∨ k = m2.slot) s t) ∧
    (∀ s1 pa, blockedBy s s.me s.cur.role = none → lineOf s.myRole.pc ≠ endLine → isRom (lineOf s.myRole.pc) = false →
      cachedLine s (coreOf s.me) (s.slot s.me).domain (lineOf s.myRole.pc) s.myRole.sup = none →
      translate s (coreOf s.me) (s.slot s.me).domain (64 * lineOf s.myRole.pc) .exec s.myRole.sup s.me = (s1, .ok (.deep pa)) →
      translate s1 (coreOf s.me) (s.slot s.me).domain (64 * lineOf s.myRole.pc) .exec s.myRole.sup s.me = (s1, .ok (.deep pa)) →
      transWait s1 (coreOf s.me) (s.slot s.me).domain (64 * lineOf s.myRole.pc) = 0 →
      codeEntry s (coreOf s.me) (s.slot s.me).domain (lineOf s.myRole.pc) s.myRole.sup = none →
      (∀ i, i < 8 → Sound s1 (.deep (pa + 8 * i))) → (s1.core (coreOf s.me)).code.length < 768 →
      ∃ t l, exec .codeLineFill s = .next t ∧ l ∈ (t.core (coreOf s.me)).code ∧ l.line = lineOf s.myRole.pc ∧
        l.dom = (s.slot s.me).domain ∧ l.data = BitVec.ofNat 512 (rawRead s1 (.deep pa) 64) ∧ BytesAsIn s1 t ∧
        SlotsKept (fun _ => False) s1 t) ∧
    (ScrubLineSound s → (∀ i, i < 8 → s.deepErr.get (scrubUnit s i / 8) 0 = 0) →
      exec .eccScrub s =
        .next { s with scrubbed := s.scrubbed.put (dieOf s.me) ((s.scrubbed.get (dieOf s.me) 0 + 1) % 2 ^ 26) 0 }) ∧
    (∀ i, i < 8 → ScrubLineSound s → popcount (s.deepErr.get (scrubUnit s i / 8) 0) = 1 →
      (∀ j, j < 8 → j ≠ i → s.deepErr.get (scrubUnit s j / 8) 0 = 0) →
      ∃ t, exec .eccScrub s = .next t ∧ t.deepErr.get (scrubUnit s i / 8) 0 = 0 ∧
        rawRead t (.deep (scrubUnit s i)) 8 = rawRead s (.deep (scrubUnit s i)) 8 ^^^
          (Flips.data (s.deepErr.get (scrubUnit s i / 8) 0)).toNat ∧
        (∀ q, Outside q (.deep (scrubUnit s i)) 8 → rawRead t q 1 = rawRead s q 1) ∧ SlotsKept (fun _ => False) s t) ∧
    (∀ m, (s.core (coreOf s.me)).vq = [m] → (s.core (coreOf s.me)).vrun = [] → coreOf m.slot = coreOf s.me → Startable s m →
      ∃ t r, exec .vectorCommandStart s = .next t ∧ (t.core (coreOf s.me)).vq = [] ∧ (t.core (coreOf s.me)).vrun = [r] ∧
        r.cmd = m ∧ r.start = s.cycle ∧ r.land = s.cycle + vecLat m ∧ r.hold = vecHold m ∧ SlotsKept (· = m.slot) s t) ∧
    (∀ r e, (s.core (coreOf s.me)).vrun = [r] → r.landedAt = 0 → r.land ≤ s.cycle → r.fault = 0 → r.effs = [e] →
      r.cmd.nullified = false → Counted s r.cmd.scope →
      let Lands (t : State) : Prop :=
        (t.role r.cmd.slot .computer).fpctl = (s.role r.cmd.slot .computer).fpctl ||| (BitVec.setWidth 64 r.flags <<< 8) ∧
          Signalled r.cmd.w1 r.cmd.slot s t ∧ (t.core (coreOf s.me)).vrun = [{ r with landedAt := s.cycle }] ∧
          (t.scope r.cmd.scope).live = (s.scope r.cmd.scope).live - 1 ∧ SlotsKept (· = r.cmd.slot) s t
      ((∀ off len v bytes, e ≠ .store off len v bytes) →
        ∃ t, exec .vectorCommandLand s = .next t ∧ Landed (s.slot r.cmd.slot) (t.slot r.cmd.slot) e ∧
          OthersStand (s.slot r.cmd.slot) (t.slot r.cmd.slot) e ∧ Lands t ∧ BytesKept s t) ∧
      (∀ off len v bytes, e = .store off len v bytes → len ∈ [1024, 8192] → coreOf r.cmd.slot = coreOf s.me →
        StoreQuiet s r.cmd off len →
        ∃ t, exec .vectorCommandLand s = .next t ∧
          (∀ i, i < len → rawRead t (.spad (coreOf s.me) (off + i)) 1 =
            if bytes.getLsbD i then v.toNat / 256 ^ i % 256 else rawRead s (.spad (coreOf s.me) (off + i)) 1) ∧
          (∀ q, Sys2Proof.Said.Exists q → (∀ i, i < len → q ≠ .spad (coreOf s.me) (off + i)) → rawRead t q 1 = rawRead s q 1) ∧ Lands t)) ∧
    (∀ m rest, (s.core (coreOf s.me)).mq = m :: rest → (s.core (coreOf s.me)).mrun = [] → coreOf m.slot = coreOf s.me →
      Startable s m → m.mfn ≠ 0x06 →
      ∃ t r, exec .matrixCommandStart s = .next t ∧ (t.core (coreOf s.me)).mq = rest ∧ (t.core (coreOf s.me)).mrun = [r] ∧
        r.cmd = m ∧ r.start = s.cycle ∧ r.land = s.cycle + mxLat m ∧
        (m.mfn = 0x01 → m.nullified = false →
          (t.core (coreOf s.me)).active = (s.core (coreOf s.me)).shadow ∧
            (t.core (coreOf s.me)).shadow = (s.core (coreOf s.me)).active) ∧ SlotsKept (· = m.slot) s t) ∧
    (∀ m rest, (s.core (coreOf s.me)).mq = m :: rest → (s.core (coreOf s.me)).mrun = [] → coreOf m.slot = coreOf s.me →
      Startable s m → m.mfn = 0x06 → m.nullified = false → Counted s m.scope →
      ∃ t r, exec .matrixCommandStart s = .next t ∧ (t.core (coreOf s.me)).mq = rest ∧ (t.core (coreOf s.me)).mrun = [r] ∧
        r.cmd = m ∧ r.landedAt = s.cycle ∧ Signalled m.w1 m.slot s t ∧ (t.scope m.scope).live = (s.scope m.scope).live - 1 ∧
        SlotsKept (· = m.slot) s t ∧ BytesKept s t) ∧
    (∀ r, (s.core (coreOf s.me)).mrun = [r] → r.landedAt = 0 → r.land ≤ s.cycle → r.fault = 0 → r.rows = [] →
      r.cmd.mfn = 0x00 → mxHold r.cmd ≤ r.got → r.cmd.nullified = false → coreOf r.cmd.slot = coreOf s.me → Counted s r.cmd.scope →
      ∃ t, exec .matrixCommandComplete s = .next t ∧ (t.core (coreOf s.me)).shadow = r.plane ∧
        (t.core (coreOf s.me)).active = (s.core (coreOf s.me)).active ∧ Signalled r.cmd.w1 r.cmd.slot s t ∧
        (t.core (coreOf s.me)).mrun = [{ r with landedAt := s.cycle }] ∧
        (t.scope r.cmd.scope).live = (s.scope r.cmd.scope).live - 1 ∧ SlotsKept (· = r.cmd.slot) s t ∧ BytesKept s t) ∧
    (∀ k e, copyQueue s (coreOf s.me) s.cur.q.toNat = [(k, e)] → copyFlight s (coreOf s.me) s.cur.q.toNat = [] →
      (s.slot k).journal = [e] → e.fn = 5 → e.flips = 0 → e.pushed < s.cycle → e.next ≤ s.cycle → e.started = false →
      waitToken e.w1 = none →
      ∃ t, exec .copyCommandStart s = .next t ∧ OnlySlot k s t ∧
        t.slot k = { s.slot k with
          progress := 0, moved := true,
          journal := [{ e with started := true, running := true, next := Nat.max (s.cycle + (e.vb.toNat + 127) / 128) (s.cycle + 1) }] }) ∧
    (∀ e, (s.slot s.me).journal = [e] → e.finished = true → e.discarded = false → e.vc = 0 → e.marked = 0 → e.err = 0 → Counted s e.scope →
      ∃ t, exec .copySettle s = .next t ∧ (t.slot s.me).journal = [] ∧ Signalled e.w1 s.me s t ∧
        (t.scope e.scope).live = (s.scope e.scope).live - 1 ∧ SlotsKept (· = s.me) s t ∧ BytesKept s t)

namespace Sys2Proof.Said

/-! What a command computes when it starts -/

/-- The one command of the vector engine is of major `major`, may start, and finds what it reads without an error and not POISON, no
matrix command being under way (08 R149, 07 R143). -/
def StartsAlone (s : State) (m : Cmd) (major : Nat) : Prop :=
  let c := s.core (coreOf s.me)
  c.vq = [m] ∧ c.vrun = [] ∧ c.mrun = [] ∧ coreOf m.slot = coreOf s.me ∧ Startable s m ∧ m.nullified = false ∧
    majorOf m.w0 = major ∧ (s.slot m.slot).rowErr = [] ∧ (s.slot m.slot).tileErr = [] ∧
    poisonedNeed (s.slot m.slot) (needsAtStart m) = none

/-- The start makes a run that is to write `effs` and to raise `flags`. -/
def Runs (s : State) (m : Cmd) (effs : List Eff) (flags : BitVec 6) : Prop :=
  ∃ t r, exec .vectorCommandStart s = .next t ∧ (t.core (coreOf s.me)).vrun = [r] ∧ r.cmd = m ∧ r.fault = 0 ∧ r.effs = effs ∧
    r.flags = flags

/-- Lane `i` of `w` bits of a row. -/
def lane (v : Row) (w i : Nat) : Nat := v.toNat / 2 ^ (w * i) % 2 ^ w

/-- The command's mask field chooses lane `i` (08 R148). -/
def takes (x : Slot) (m : Cmd) (i : Nat) : Bool := m.vx.mask == 15 || (x.maskOf m.vx.mask.toNat).getLsbD i

/-- The start makes a run that is to write, in lanes of `w` bits of row `vd`, what `f` gives for the lanes that `sel` chooses; the others
keep their value and raise no flag (08 R148). -/
def StartsRow (s : State) (m : Cmd) (w : Nat) (sel : Nat → Bool) (f : Nat → Coded) : Prop :=
  ∃ v sectors tag flags, Runs s m [.row m.vx.vd.toNat v sectors tag] flags ∧ tag % 16 = m.ty ∧
    (∀ i, i < 8192 / w → sel i = true → lane v w i = (f i).1 % 2 ^ w ∧ sectors.getLsbD (w * i / 512) = true) ∧
    (∀ i, i < 8192 / w → sel i = false → lane v w i = lane ((s.slot m.slot).rowRead m.vx.vd.toNat) w i) ∧
    ∀ k, flags.getLsbD k = true ↔ ∃ i, i < 8192 / w ∧ sel i = true ∧ (f i).2.getLsbD k = true

/-- A row that keeps its other lanes, or holds zeros in them where the command found it RAW: `v`, tagged `tag`, has in lanes of `w` bits
what `f` gives for those that `sel` chooses; `sectors` has every sector that changes (08 R164, R167). -/
def KeptRow (x : Slot) (m : Cmd) (row w : Nat) (sel : Nat → Bool) (f : Nat → Coded) (v : Row) (sectors : BitVec 16) : Prop :=
  (∀ i, i < 8192 / w → sel i = true → lane v w i = (f i).1 % 2 ^ w ∧ sectors.getLsbD (w * i / 512) = true) ∧
    (∀ i, i < 8192 / w → sel i = false → lane v w i = if m.tagOf (.row row) = 0 then 0 else lane (x.rowRead row) w i) ∧
    (m.tagOf (.row row) = 0 → sectors = 0xFFFF)

/-- The flags are those that `f` raises below `n` where `sel` chooses. -/
def FlagsOf (flags : BitVec 6) (n : Nat) (sel : Nat → Bool) (f : Nat → BitVec 6) : Prop :=
  ∀ k, flags.getLsbD k = true ↔ ∃ i, i < n ∧ sel i = true ∧ (f i).getLsbD k = true

/-- The start makes a run that is to write some lanes of row `vd`, the others kept, or zero where the row is RAW. -/
def StartsKept (s : State) (m : Cmd) (w : Nat) (sel : Nat → Bool) (f : Nat → Coded) : Prop :=
  ∃ v sectors tag flags, Runs s m [.row m.vx.vd.toNat v sectors tag] flags ∧ tag % 16 = m.ty ∧
    KeptRow (s.slot m.slot) m m.vx.vd.toNat w sel f v sectors ∧ FlagsOf flags (8192 / w) sel (fun i => (f i).2)

/-- A lane as an exact value of format `ty`, subnormal operands as FIN says; and an exact value rounded once into it, with the flags of
its own that the function raised (07 R133, R138). -/
def exactly (m : Cmd) (ty code : Nat) : Ex := decodeF (fmtOf ty) m.fin code
def rounded (m : Cmd) (ty : Nat) (r : Ex × BitVec 6) : Coded :=
  let c := encodeF (fmtOf ty) m.rm m.fout false r.1
  (c.1, c.2 ||| r.2)

/-- The integer functions (08 R158), exact. -/
def integerFns : List (Nat × (Int → Int → Int → Int)) :=
  [(0x08, fun x y _ => x + y), (0x09, fun x y _ => x - y), (0x0A, fun x y _ => x * y), (0x0B, fun x y z => x * y + z),
   (0x0C, fun x y z => x * y - z), (0x0D, fun x y _ => min x y), (0x0E, fun x y _ => max x y), (0x0F, fun x _ _ => |x|),
   (0x10, fun x _ _ => -x)]

/-- The floating-point functions (08 R158, R159): the exact value, which is rounded once, and the flag that the function itself raises
where the value alone does not tell: NV of a signalling operand of VMIN and VMAX, DZ; `down`: whether RM rounds down. VEXP2 and VLOG2
round their exact real result by the model's reading (log entry 19). -/
def floatFns (down : Bool) : List (Nat × (Ex → Ex → Ex → Ex × BitVec 6)) :=
  [(0x08, fun x y _ => (exSum [x, y] down, 0)), (0x09, fun x y _ => (exSum [x, exNeg y] down, 0)), (0x0A, fun x y _ => (exMul x y, 0)),
   (0x0B, fun x y z => (exSum [exMul x y, z] down, 0)), (0x0C, fun x y z => (exSum [exMul x y, exNeg z] down, 0)),
   (0x0D, fun x y _ => exExtreme false x y), (0x0E, fun x y _ => exExtreme true x y),
   (0x0F, fun x _ _ => (if x.isNan then .nan false else if exSign x then exNeg x else x, 0)),
   (0x10, fun x _ _ => (if x.isNan then .nan false else exNeg x, 0)),
   (0x11, fun x y _ => exDiv x y), (0x12, fun x _ _ => (exSqrt x, 0)), (0x13, fun x _ _ => exRsq x),
   (0x14, fun x _ _ => exDiv (.num false 1 0 false) x), (0x15, fun x _ _ => (exExp2 x, 0)), (0x16, fun x _ _ => exLog2 x)]

/-- The least and the greatest integer of a format (07 R126). -/
def lowest (ty : Nat) : Int := if ty = 8 then 0 else -2 ^ (laneBits ty - 1)
def highest (ty : Nat) : Int := if ty = 8 then 255 else 2 ^ (laneBits ty - 1) - 1

/-- The integer that a lane of a format holds. -/
def whole (ty x : Nat) : Int := if ty = 8 then x else (BitVec.ofNat (laneBits ty) x).toInt

/-- An exact integer as a lane: saturated with IS where the command saturates, else wrapped. -/
def asLane (ty : Nat) (sat : Bool) (v : Int) : Coded :=
  let w := laneBits ty
  if sat = true ∧ v < lowest ty then ((BitVec.ofInt w (lowest ty)).toNat, 32)
  else if sat = true ∧ highest ty < v then ((BitVec.ofInt w (highest ty)).toNat, 32)
  else ((BitVec.ofInt w v).toNat, 0)

/-- The logic and shift functions on lanes of `w` bits (08 R161); `n` is the count, a lane of vb or an immediate. -/
def logicFns : List (Nat × (Nat → Nat → Nat)) :=
  [(0x18, fun x y => x &&& y), (0x19, fun x y => x ||| y), (0x1A, fun x y => x ^^^ y)]
def shiftFns (ty w : Nat) : List (Nat × (Nat → Nat → Nat)) :=
  [(0x1B, fun x n => if n < w then x * 2 ^ n % 2 ^ w else 0), (0x1C, fun x n => if n < w then x / 2 ^ n else 0),
   (0x1D, fun x n => if ty = 8 then (if n < w then x / 2 ^ n else 0)
     else (BitVec.ofInt w ((BitVec.ofNat w x).toInt / 2 ^ (min n w))).toNat)]

/-- The conditions of VCMP on integers (08 R162). -/
def meets (cond : Nat) (x y : Int) : Bool :=
  match cond with
  | 0 => decide (x = y)
  | 1 => decide (x ≠ y)
  | 2 => decide (x < y)
  | 3 => decide (x ≤ y)
  | 4 => decide (y < x)
  | 5 => decide (y ≤ x)
  | _ => false

/-- The conditions of VCMP on floating-point values, and when one sets NV (08 R162). -/
def floatMeets (cond : Nat) (x y : Ex) : Bool :=
  let nan := x.isNan || y.isNan
  match cond with
  | 0 => !nan && exCmp x y == .eq
  | 1 => nan || exCmp x y != .eq
  | 2 => !nan && exCmp x y == .lt
  | 3 => !nan && exCmp x y != .gt
  | 4 => !nan && exCmp x y == .gt
  | 5 => !nan && exCmp x y != .lt
  | 6 => nan
  | _ => false
def compareInvalid (cond : Nat) (x y : Ex) : Bool :=
  x.signals || y.signals || (decide (2 ≤ cond ∧ cond ≤ 5) && (x.isNan || y.isNan))

/-- The identity of a reduction, and one step of it, rounded once (08 R165): 0 ADD, 1 MIN, 2 MAX, 3 AND, 4 OR, 5 XOR. -/
def neutral (op ty : Nat) : Nat :=
  let w := laneBits ty
  if isFloatTy ty then
    match op with
    | 0 => 2 ^ (w - 1)
    | 1 => (fmtOf ty).infCode
    | _ => 2 ^ (w - 1) + (fmtOf ty).infCode
  else
    match op with
    | 1 => (BitVec.ofInt w (highest ty)).toNat
    | 2 => (BitVec.ofInt w (lowest ty)).toNat
    | 3 => 2 ^ w - 1
    | _ => 0
def reduces (m : Cmd) (op x y : Nat) : Coded :=
  match op with
  | 0 => if isFloatTy m.ty then rounded m m.ty (exSum [exactly m m.ty x, exactly m m.ty y] (m.rm == 2), 0)
    else asLane m.ty (m.aux / 8 % 2 == 1) (whole m.ty x + whole m.ty y)
  | 1 => if isFloatTy m.ty then rounded m m.ty (exExtreme false (exactly m m.ty x) (exactly m m.ty y))
    else asLane m.ty false (min (whole m.ty x) (whole m.ty y))
  | 2 => if isFloatTy m.ty then rounded m m.ty (exExtreme true (exactly m m.ty x) (exactly m m.ty y))
    else asLane m.ty false (max (whole m.ty x) (whole m.ty y))
  | 3 => (x &&& y, 0)
  | 4 => (x ||| y, 0)
  | _ => (x ^^^ y, 0)

/-- Value `j` of level `n` of the pairwise tree over `x`, with the flags of every step below it (08 R165). -/
def treeAt (f : Nat → Nat → Coded) (x : Nat → Nat) : Nat → Nat → Coded
  | 0, j => (x j, 0)
  | n + 1, j =>
    let p := treeAt f x n (2 * j)
    let q := treeAt f x n (2 * j + 1)
    let r := f p.1 q.1
    (r.1, p.2 ||| q.2 ||| r.2)

/-- Lane `i` after `n` butterfly stages over `y`, with the flags of every step it comes from (08 R170). -/
def butterflyAt (m : Cmd) (y : Nat → Nat) : Nat → Nat → Coded
  | 0, i => (y i, 0)
  | n + 1, i =>
    let low := i / 2 ^ n % 2 = 0
    let p := butterflyAt m y n (if low then i else i - 2 ^ n)
    let q := butterflyAt m y n (if low then i + 2 ^ n else i)
    let b := exactly m m.ty q.1
    let r := rounded m m.ty (exSum [exactly m m.ty p.1, if low then b else exNeg b] (m.rm == 2), 0)
    (r.1, p.2 ||| q.2 ||| r.2)

/-- The floating-point formats whose every value another holds (07 R127, R137). -/
def holdsAll (src dst : Nat) : Bool := src == dst || [(3, 2), (5, 2), (6, 2), (5, 3), (6, 3)].contains (src, dst)

/-- One lane of VCVT (07 R137). -/
def converts (m : Cmd) (src code : Nat) : Coded :=
  let x := exactly m src code
  let w := laneBits m.ty
  if isFloatTy src then
    if isFloatTy m.ty then
      if holdsAll src m.ty then encodeF (fmtOf m.ty) m.rm false false x else encodeF (fmtOf m.ty) m.rm m.fout true x
    else
      match x with
      | .nan _ => (0, 16)
      | .inf n => ((BitVec.ofInt w (if n then lowest m.ty else highest m.ty)).toNat, 16)
      | .num n k e more =>
        let r := roundAt m.rm n k e 0 more
        let v : Int := if n then -(r.1 : Int) else r.1
        if v < lowest m.ty then ((BitVec.ofInt w (lowest m.ty)).toNat, 16)
        else if highest m.ty < v then ((BitVec.ofInt w (highest m.ty)).toNat, 16)
        else ((BitVec.ofInt w v).toNat, if r.2 then 1 else 0)
  else if isFloatTy m.ty then
    encodeF (fmtOf m.ty) m.rm m.fout true (.num (decide (whole src code < 0)) (whole src code).natAbs 0 false)
  else asLane m.ty true (whole src code)

/-- The quotient x ÷ s as a lane of INT4: rounded to an integer, saturated with IS; a NaN gives 0 with NV (07 R132, 08 R168). -/
def quantised (m : Cmd) (lo hi : Int) (x y : Ex) : Coded :=
  match (exDiv x y).1 with
  | .nan _ => (0, 16)
  | .inf n => ((BitVec.ofInt 4 (if n then lo else hi)).toNat, 32)
  | .num n k e more =>
    let r := roundAt m.rm n k e 0 more
    let v : Int := if n then -(r.1 : Int) else r.1
    if v < lo then ((BitVec.ofInt 4 lo).toNat, 32)
    else if hi < v then ((BitVec.ofInt 4 hi).toNat, 32)
    else ((BitVec.ofInt 4 v).toNat, if r.2 then 1 else 0)

/-- The magnitude of an exact value. -/
def magnitude (x : Ex) : Ex := if exSign x then exNeg x else x

/-- `a` is the largest finite magnitude of `n` values, 0 where none is finite; `first` is the first of them with it (08 R168). -/
def Largest (l : Nat → Ex) (n : Nat) (a first : Ex) : Prop :=
  let finite (k : Nat) : Prop := ∃ b c e d, l k = .num b c e d
  (∀ k, k < n → finite k → exCmp a (magnitude (l k)) ≠ .lt) ∧
    ((exIsZero a = true ∧ ∀ k, k < n → finite k → exIsZero (l k) = true) ∨
      ∃ k, k < n ∧ finite k ∧ first = l k ∧ a = magnitude (l k) ∧
        ∀ j, j < k → finite j → exCmp (magnitude (l j)) a = .lt)

/-- The 14 bytes `b` and the flags of the E2M1B block of 24 values (07 R129, R130, 08 R168): the NaN block; else the scale `c` and the
special `p` of the largest finite magnitude, and every value coded by R130. -/
def BlockOf (m : Cmd) (l : Nat → Ex) (b : Nat) (flags : BitVec 6) : Prop :=
  ((∃ k, k < 24 ∧ (l k).isNan = true) → b = 255 * 2 ^ 96 ∧ flags = 0) ∧
    ((∀ k, k < 24 → (l k).isNan = false) →
      ∃ (a first : Ex) (c p : Nat), Largest l 24 a first ∧ b / 2 ^ 96 = c + 256 * p ∧
        (exIsZero a = true → c = 127 ∧ p = 0) ∧
        (∀ n k e d, a = .num n k e d → k ≠ 0 →
          (c : Int) = max 0 (min 254 (e + Nat.log2 k - 2 + 127)) ∧ p = (encodeF e4m3 0 false true (exScale first (127 - (c : Int)))).1) ∧
        (∀ k, k < 24 → b / 2 ^ (4 * k) % 16 = (e2m1Choose m.rm p (exScale (l k) (127 - (c : Int)))).1) ∧
        FlagsOf flags 24 (fun _ => true) (fun k => (e2m1Choose m.rm p (exScale (l k) (127 - (c : Int)))).2))

/-- The value of element `i` of a row of codes: an E2M1B block's (07 R129), an INT4 (07 R126), a KV4 with its scale row (07 R131). -/
def blockElement (v : Row) (i : Nat) : Ex :=
  blockValue (lane v 8 (14 * (i / 24) + 12)) (lane v 8 (14 * (i / 24) + 13)) (lane v 4 (28 * (i / 24) + i % 24))
def intElement (v : Row) (i : Nat) : Ex :=
  let n := whole 10 (lane v 4 i)
  .num (decide (n < 0)) n.natAbs 0 false
def kvElement (v scales : Row) (i : Nat) : Ex := exMul (intElement v i) (decodeF bf16 false (lane scales 16 (i / 128)))

/-- The count of the bits `f` sets below `n`. -/
def countBits (n : Nat) (f : Nat → Bool) : Nat := ((List.range n).filter f).length

/-- The offset and the lines of `len` bytes that a command reads of its scratchpad: sound, and not refused to it (14 R296). -/
def SpadReadable (s : State) (m : Cmd) (off len : Nat) : Prop :=
  off % 64 = 0 ∧ off + len ≤ 2 ^ 22 ∧
    ∀ i, i < len → let p := Place.spad (coreOf m.slot) (off + i)
      Sound s p ∧ stampAllows (metaAt s p) m.slot m.dph = true

/-- Byte `i` of a wide value is the byte at `off + i` of the command's scratchpad. -/
def BytesFrom (s : State) (m : Cmd) (off len : Nat) (v : Nat) : Prop :=
  ∀ i, i < len → v / 256 ^ i % 256 = rawRead s (.spad (coreOf m.slot) (off + i)) 1

/-- 08 R156 to R172, 07 R129 to R132, R137, R138: what a vector command that starts is to write, and its flags: the lanes of the
elementwise functions, under the mask; loads and stores; masks; lane movement; reductions in their tree and scans in lane order;
conversions, blocks, codes and scales; the butterflies of VHAD; the contraction in its order. Where a KV4's value row is its scale row
too, the scales land last (log entry 91, DESIGN CHOICE); a special equal to a regular value gives way to it (log entry 90, DESIGN
CHOICE). -/
def VectorCommandsCompute : Prop :=
  ∀ (s : State) (m : Cmd), StartsAlone s m 0x60 →
    let x := s.slot m.slot
    let w := laneBits m.ty
    let a (i : Nat) : Nat := lane (x.rowRead m.vx.va.toNat) w i
    let b (i : Nat) : Nat := lane (x.rowRead m.vx.vb.toNat) w i
    let d (i : Nat) : Nat := lane (x.rowRead m.vx.vd.toNat) w i
    (∀ row ∈ integerFns, m.vfn = row.1 → isFloatTy m.ty = false →
      StartsRow s m w (takes x m)
        (fun i => asLane m.ty (m.aux % 2 == 1) (row.2 (whole m.ty (a i)) (whole m.ty (b i)) (whole m.ty (d i))))) ∧
    (∀ row ∈ floatFns (m.rm == 2), m.vfn = row.1 → isFloatTy m.ty = true →
      StartsRow s m w (takes x m)
        (fun i => rounded m m.ty (row.2 (exactly m m.ty (a i)) (exactly m m.ty (b i)) (exactly m m.ty (d i))))) ∧
    (∀ row ∈ logicFns, m.vfn = row.1 → StartsRow s m w (takes x m) (fun i => (row.2 (a i) (b i), 0))) ∧
    (∀ row ∈ shiftFns m.ty w, m.vfn = row.1 →
      StartsRow s m w (takes x m) (fun i => (row.2 (a i) (if m.aux = 0 then b i else m.aux), 0))) ∧
    (m.vfn = 0x02 → m.ty ≠ 0 → StartsRow s m w (takes x m) (fun i => (a i, 0))) ∧
    (m.vfn = 0x02 → m.ty = 0 →
      Runs s m [.row m.vx.vd.toNat (x.rowRead m.vx.va.toNat) 0xFFFF (m.tagOf (.row m.vx.va.toNat))] 0) ∧
    (m.vfn = 0x03 → StartsRow s m w (takes x m) (fun _ => (m.scal.toNat, 0))) ∧
    (m.vfn = 0x04 → m.ty ≠ 2 → StartsRow s m w (takes x m) (fun i => (i, 0))) ∧
    (m.vfn = 0x04 → m.ty = 2 →
      StartsRow s m w (takes x m) (fun i => ((encodeF fp32 0 false false (.num false i 0 false)).1, 0))) ∧
    (m.vfn = 0x00 → m.vx.mask = 15 → SpadReadable s m m.scal.toNat 1024 →
      ∃ v, Runs s m [.row m.vx.vd.toNat v 0xFFFF m.ty] 0 ∧ BytesFrom s m m.scal.toNat 1024 v.toNat) ∧
    (m.vfn = 0x00 → SpadReadable s m m.scal.toNat 1024 →
      ∃ v, BytesFrom s m m.scal.toNat 1024 v ∧ StartsRow s m w (takes x m) (fun i => (v / 2 ^ (w * i) % 2 ^ w, 0))) ∧
    (m.vfn = 0x01 →
      ∃ v bytes, Runs s m [.store m.scal.toNat 1024 v bytes] 0 ∧ v.toNat = (x.rowRead m.vx.vb.toNat).toNat ∧
        ∀ i, i < 1024 → bytes.getLsbD i = takes x m (8 * i / w)) ∧
    (m.vfn = 0x20 → isFloatTy m.ty = false →
      ∃ v, Runs s m [.mask m.vx.vd.toNat v] 0 ∧
        ∀ i, i < 1024 → v.getLsbD i =
          (decide (i < 8192 / w) && takes x m i && meets m.aux (whole m.ty (a i)) (whole m.ty (b i)))) ∧
    (m.vfn = 0x20 → isFloatTy m.ty = true →
      ∃ v flags, Runs s m [.mask m.vx.vd.toNat v] flags ∧
        (∀ i, i < 1024 → v.getLsbD i =
          (decide (i < 8192 / w) && takes x m i && floatMeets m.aux (exactly m m.ty (a i)) (exactly m m.ty (b i)))) ∧
        FlagsOf flags (8192 / w) (takes x m)
          (fun i => if compareInvalid m.aux (exactly m m.ty (a i)) (exactly m m.ty (b i)) then 16 else 0)) ∧
    (m.vfn = 0x21 → StartsRow s m w (fun _ => true) (fun i => (if takes x m i then a i else b i, 0))) ∧
    (m.vfn = 0x23 → m.aux ≤ 7 →
      ∃ v, Runs s m [.mask m.vx.vd.toNat v] 0 ∧
        ∀ i, i < 1024 → v.getLsbD i =
          combines m.aux ((x.maskOf m.vx.va.toNat).getLsbD i) ((x.maskOf m.vx.vb.toNat).getLsbD i)) ∧
    (m.vfn = 0x22 →
      ∃ v, Runs s m [.row m.vx.vd.toNat v 0xFFFF 1] 0 ∧
        lane v 32 0 = countBits 1024 (fun i => (x.maskOf m.vx.va.toNat).getLsbD i && takes x m i) ∧
        ∀ i, 0 < i → i < 256 → lane v 32 i = 0) ∧
    (m.vfn = 0x28 → 8192 / w ≤ 512 → m.aux = 0 →
      StartsRow s m w (fun _ => true) (fun i => (a (lane (x.rowRead m.vx.vb.toNat) 16 i % (8192 / w)), 0))) ∧
    (m.vfn = 0x28 → 8192 / w = 1024 →
      let half := 512 * (m.aux % 2)
      StartsKept s m w (fun i => decide (half ≤ i ∧ i < half + 512))
        (fun i => (a (lane (x.rowRead m.vx.vb.toNat) 16 (i - half) % 1024), 0))) ∧
    (m.vfn = 0x29 → StartsRow s m w (fun _ => true)
      (fun i => (a ((i + if m.aux = 0 then lane (x.rowRead m.vx.vb.toNat) 32 0 else m.aux) % (8192 / w)), 0))) ∧
    (m.vfn = 0x2A → StartsRow s m w (fun _ => true)
      (fun i => (if i + m.aux < 8192 / w then a (i + m.aux) else b (i + m.aux - 8192 / w), 0))) ∧
    (m.vfn = 0x2B → StartsRow s m w (fun i => i == lane (x.rowRead m.vx.vb.toNat) 32 0 % (8192 / w)) (fun _ => (a 0, 0))) ∧
    (m.vfn = 0x30 → m.aux % 8 ≤ 5 →
      let op := m.aux % 8
      let r := treeAt (reduces m op) (fun i => if takes x m i then a i else neutral op m.ty) (Nat.log2 (8192 / w)) 0
      ∃ v, Runs s m [.row m.vx.vd.toNat v 0xFFFF m.ty] r.2 ∧ lane v w 0 = r.1 % 2 ^ w ∧ ∀ i, 0 < i → i < 8192 / w → lane v w i = 0) ∧
    (m.vfn = 0x31 → m.aux % 4 ≤ 2 →
      let op := m.aux % 4
      let enters (i : Nat) : Nat := if takes x m i then a i else neutral op m.ty
      let acc (i : Nat) : Nat := ((List.range i).map enters).foldl (fun y z => (reduces m op y z).1) (neutral op m.ty)
      ∃ v flags, Runs s m [.row m.vx.vd.toNat v 0xFFFF m.ty] flags ∧
        (∀ i, i < 8192 / w → lane v w i = acc (if m.aux / 4 % 2 = 1 then i else i + 1) % 2 ^ w) ∧
        FlagsOf flags (8192 / w) (fun _ => true) (fun i => (reduces m op (acc i) (enters i)).2)) ∧
    (m.vfn = 0x34 →
      let src := m.tagOf (.row m.vx.va.toNat)
      let from' (i : Nat) : Coded := converts m src (lane (x.rowRead m.vx.va.toNat) (laneBits src) i)
      let ls := 8192 / laneBits src
      let ld := 8192 / w
      let h := m.aux % 4
      (ld ≤ ls → StartsRow s m w (fun _ => true) (fun i => from' (ld * h + i))) ∧
      (ls < ld → StartsKept s m w (fun i => decide (ls * h ≤ i ∧ i < ls * h + ls)) (fun i => from' (i - ls * h)))) ∧
    (m.vfn = 0x35 → m.tagOf (.row m.vx.va.toNat) ∈ [2, 3] →
      let src := m.tagOf (.row m.vx.va.toNat)
      let from' (i : Nat) : Ex := exactly m src (lane (x.rowRead m.vx.va.toNat) (laneBits src) i)
      let ls := 8192 / laneBits src
      let h := m.aux
      let raw := m.tagOf (.row m.vx.vd.toNat) = 0
      (m.ty = 9 →
        ∃ v sectors tag flags, Runs s m [.row m.vx.vd.toNat v sectors tag] flags ∧ tag % 16 = 9 ∧
          (raw → sectors = 0xFFFF) ∧
          (∀ n, n < 64 → ¬ (h ≤ n ∧ n < h + ls / 24) →
            lane v 112 n = if raw then 0 else lane (x.rowRead m.vx.vd.toNat) 112 n) ∧
          ∃ raised : Nat → BitVec 6,
            (∀ n, n < 64 → h ≤ n → n < h + ls / 24 →
              BlockOf m (fun k => from' (24 * (n - h) + k)) (lane v 112 n) (raised n) ∧
              ∀ i, 14 * n ≤ i → i < 14 * n + 14 → sectors.getLsbD (i / 64) = true) ∧
            FlagsOf flags 64 (fun n => decide (h ≤ n ∧ n < h + ls / 24)) raised) ∧
      (m.ty = 10 →
        let y := exactly m 2 (lane (x.rowRead m.vx.vb.toNat) 32 0)
        StartsKept s m 4 (fun i => decide (ls * h ≤ i ∧ i < ls * h + ls))
          (fun i => if y.isNan || exIsZero y then (0, 16) else quantised m (-8) 7 (from' (i - ls * h)) y)) ∧
      (m.ty = 11 →
        let per := ls / 128
        let inside (g : Nat) : Bool := decide (per * h ≤ g ∧ g < per * h + per)
        ∃ (top : Nat → Ex) (first : Nat → Ex),
          (∀ g, g < per → Largest (fun k => from' (128 * g + k)) 128 (top g) (first g)) ∧
          let scale (g : Nat) : Nat :=
            if exIsZero (top g) then 0 else (encodeF bf16 3 false true (exDiv (top g) (.num false 7 0 false)).1).1
          let code (i : Nat) : Coded :=
            let g := i / 128 - per * h
            if scale g = 0 then (0, 0) else quantised m (-7) 7 (from' (i - ls * h)) (decodeF bf16 false (scale g))
          ∃ v sectors tag u sectors' tag' flags,
            Runs s m [.row m.vx.vd.toNat v sectors tag, .row m.vx.vb.toNat u sectors' tag'] flags ∧ tag % 16 = 11 ∧ tag' % 16 = 3 ∧
              KeptRow x m m.vx.vd.toNat 4 (fun i => inside (i / 128)) code v sectors ∧
              KeptRow x m m.vx.vb.toNat 16 inside (fun g => (scale (g - per * h), 0)) u sectors' ∧
              FlagsOf flags 2048 (fun i => inside (i / 128)) (fun i => (code i).2))) ∧
    (m.vfn = 0x36 →
      let v := x.rowRead m.vx.va.toNat
      let src := m.tagOf (.row m.vx.va.toNat)
      let fills (f : Nat → Ex) : Prop :=
        StartsRow s m w (fun _ => true) (fun i => rounded m m.ty (f (8192 / w * m.aux + i), 0))
      (src = 9 → fills (blockElement v)) ∧ (src = 10 → fills (intElement v)) ∧
        (src = 11 → fills (kvElement v (x.rowRead m.vx.vb.toNat)))) ∧
    (m.vfn = 0x38 → m.ty ∈ [2, 3] →
      let r (i : Nat) : Coded := butterflyAt m a (if m.aux % 2 = 1 then 8 else 7) i
      StartsRow s m w (fun _ => true) r) ∧
    (m.vfn = 0x3C → m.aux % 4 ≤ 2 →
      let stride := 8 ^ (m.aux % 4)
      let op := (x.opOf (m.aux / 4 % 4)).toNat
      let entry (i j : Nat) : Nat := op / 2 ^ (32 * (8 * i + j)) % 2 ^ 32
      let node (base n : Nat) : Nat := lane (x.rowRead (base + n / 256)) 32 (n % 256)
      let sum (n : Nat) : Coded :=
        let p := n / stride % 8
        (List.range 8).foldl
          (fun (acc : Coded) k =>
            let r := rounded m 2 (exSum [exMul (exactly m 2 (if m.aux / 32 % 2 = 1 then entry k p else entry p k))
              (exactly m 2 (node m.vx.va.toNat (n - p * stride + k * stride))), exactly m 2 acc.1] (m.rm == 2), 0)
            (r.1, acc.2 ||| r.2))
          (if m.aux / 16 % 2 = 1 then node m.vx.vd.toNat n else 0, 0)
      ∃ v u flags, Runs s m [.row m.vx.vd.toNat v 0xFFFF 2, .row (m.vx.vd.toNat + 1) u 0xFFFF 2] flags ∧
        (∀ n, n < 256 → lane v 32 n = (sum n).1 % 2 ^ 32 ∧ lane u 32 n = (sum (256 + n)).1 % 2 ^ 32) ∧
        FlagsOf flags 512 (fun _ => true) (fun n => (sum n).2)) ∧
    (m.vfn = 0x37 → Runs s m [.row m.vx.vd.toNat (x.rowRead m.vx.va.toNat) 0xFFFF m.ty] 0) ∧
    (m.vfn = 0x3D →
      ∃ v, Runs s m [.opReg m.vx.vd.toNat v] 0 ∧ v.toNat = (x.rowRead m.vx.va.toNat).toNat % 2 ^ 2048)

/-- Bit `n` of row `i` of a tile (10 R201). -/
def tileBit (t : Tile) (i n : Nat) : Bool := t.getLsbD (256 * i + n)

/-- The start makes a run that is to write tile vd whole, bit `n` of row `i` as `f` says. -/
def StartsTile (s : State) (m : Cmd) (f : Nat → Nat → Bool) : Prop :=
  ∃ v, Runs s m [.tile m.vx.vd.toNat v (BitVec.allOnes 256) 12] 0 ∧ ∀ i n, i < 256 → n < 256 → tileBit v i n = f i n

/-- 10 R203 to R211: what a bit-tile command that starts is to write. -/
def BitCommandsCompute : Prop :=
  ∀ (s : State) (m : Cmd), StartsAlone s m 0x61 →
    let x := s.slot m.slot
    let a := x.tileRead m.vx.va.toNat
    let b := x.tileRead m.vx.vb.toNat
    let d := x.tileRead m.vx.vd.toNat
    (m.vfn = 0x00 → SpadReadable s m m.scal.toNat 8192 →
      ∃ v, Runs s m [.tile m.vx.vd.toNat v (BitVec.allOnes 256) 12] 0 ∧ BytesFrom s m m.scal.toNat 8192 v.toNat) ∧
    (m.vfn = 0x01 → Runs s m [.store m.scal.toNat 8192 b (BitVec.allOnes 8192)] 0) ∧
    (m.vfn = 0x02 → m.aux / 8 % 2 = 0 →
      ∃ v, Runs s m [.row m.vx.vd.toNat v 0xFFFF 12] 0 ∧
        ∀ i n, i < 32 → n < 256 → v.getLsbD (256 * i + n) = tileBit a (32 * (m.aux % 8) + i) n) ∧
    (m.vfn = 0x02 → m.aux / 8 % 2 = 1 →
      ∃ v rows tag, Runs s m [.tile m.vx.vd.toNat v rows tag] 0 ∧ tag % 16 = 12 ∧
        (∀ i n, i < 32 → n < 256 → rows.getLsbD (32 * (m.aux % 8) + i) = true ∧
          tileBit v (32 * (m.aux % 8) + i) n = (x.rowRead m.vx.va.toNat).getLsbD (256 * i + n)) ∧
        ∀ i, i < 256 → i / 32 ≠ m.aux % 8 →
          if m.tagOf (.tile m.vx.vd.toNat) = 0 then rows.getLsbD i = true ∧ ∀ n, n < 256 → tileBit v i n = false
          else rows.getLsbD i = false) ∧
    (m.vfn = 0x03 → m.aux ≤ 6 →
      StartsTile s m (fun i n =>
        match m.aux with
        | 0 => false
        | 1 => true
        | 2 => n == i
        | 3 => decide (n < i)
        | 4 => decide (n ≤ i)
        | 5 => (x.maskOf m.vx.vb.toNat).getLsbD n
        | _ => (x.maskOf m.vx.vb.toNat).getLsbD i)) ∧
    (m.vfn = 0x08 →
      ∃ v, Runs s m [.row m.vx.vd.toNat v 0xFFFF 1] 0 ∧
        ∀ i, i < 256 → lane v 32 i = countBits 256 (fun n => tileBit a i n)) ∧
    (m.vfn = 0x09 →
      ∃ v, Runs s m [.row m.vx.vd.toNat v 0xFFFF 1] 0 ∧
        ∀ i, i < 256 → lane v 32 i = countBits 256 (fun n => tileBit a n i)) ∧
    (m.vfn = 0x0A → StartsTile s m (fun i n => tileBit a n i)) ∧
    (m.vfn = 0x0B →
      StartsTile s m (fun i n =>
        (List.range 256).any (fun k => tileBit a i k && tileBit b k n) || (m.aux % 2 == 1 && tileBit d i n))) ∧
    (m.vfn = 0x0C →
      StartsTile s m (fun i n =>
        (List.range 256).foldl (fun (t : Nat → Nat → Bool) k i n => t i n || (t i k && t k n)) (tileBit a) i n ||
          (m.aux % 2 == 1 && i == n))) ∧
    (m.vfn = 0x0D → m.aux ≤ 7 → StartsTile s m (fun i n => combines m.aux (tileBit a i n) (tileBit b i n))) ∧
    (m.vfn = 0x10 →
      let w := laneBits m.ty
      StartsRow s m w
        (fun i => tileBit (x.tileRead (m.aux % 4)) ((m.scal.toNat % 256 + i / 256) % 256) (i % 256) != (m.aux / 4 % 2 == 1))
        (fun i => (lane (x.rowRead m.vx.va.toNat) w i, 0)))

/-- The first command of the matrix engine may start, no command of the core being under way, and finds what it reads without an error
and not POISON (09 R187, 07 R143). -/
def StartsFirst (s : State) (m : Cmd) : Prop :=
  let c := s.core (coreOf s.me)
  (∃ rest, c.mq = m :: rest) ∧ c.mrun = [] ∧ c.vrun = [] ∧ coreOf m.slot = coreOf s.me ∧ Startable s m ∧ m.nullified = false ∧
    (s.slot m.slot).rowErr = [] ∧ c.activeErr = [] ∧ poisonRow s m = none

/-- The start makes a run of the command without a fault. -/
def MxRuns (s : State) (m : Cmd) (p : Run → Prop) : Prop :=
  ∃ t r, exec .matrixCommandStart s = .next t ∧ (t.core (coreOf s.me)).mrun = [r] ∧ r.cmd = m ∧ r.fault = 0 ∧ p r

/-- Byte `i` of a wide value. -/
def byteOf (v i : Nat) : Nat := v / 256 ^ i % 256

/-- A started MLDS or MSTR has a part to read in this cycle, and nothing of it lands yet (09 R188, R189). -/
def Reads (s : State) (r : Run) : Prop :=
  (s.core (coreOf s.me)).mrun = [r] ∧ r.landedAt = 0 ∧ r.fault = 0 ∧ r.cmd.nullified = false ∧ coreOf r.cmd.slot = coreOf s.me ∧
    r.got < mxHold r.cmd ∧ r.start + r.got ≤ s.cycle ∧ s.cycle < r.land ∧ ∀ e ∈ r.rows, s.cycle < rowLandsAt r e.1

/-- Row `n` of a run is due, the run's last; all its parts are read, no vector command is under way, and with the row the run
completes. -/
def RowDue (s : State) (r : Run) (n : Nat) (acts : BitVec 6144) : Prop :=
  (s.core (coreOf s.me)).vrun = [] ∧ r.olds = [] ∧ (r.cmd.mfn = 0x02 → mxHold r.cmd ≤ r.got) ∧
    (s.core (coreOf s.me)).mrun = [r] ∧ r.landedAt = 0 ∧ r.fault = 0 ∧ r.rows = [(n, acts)] ∧ rowLandsAt r n ≤ s.cycle ∧
    r.land ≤ s.cycle ∧ r.cmd.nullified = false ∧ coreOf r.cmd.slot = coreOf s.me ∧ Counted s r.cmd.scope

/-- The run has completed: its signal is given, its scope counts it no more, and no byte has changed. -/
def Completed (s t : State) (r : Run) : Prop :=
  Signalled r.cmd.w1 r.cmd.slot s t ∧ (t.scope r.cmd.scope).live = (s.scope r.cmd.scope).live - 1 ∧ SlotsKept (· = r.cmd.slot) s t ∧
    BytesKept s t

/-- 09 R173, R175, R182, R188 to R191, 10 R197 to R199, 07 R139, R140: what a matrix or outer command that starts takes up: the first part
of the tile of a load; the first part of the first row, the plane and the predicates of a stream (the plane is taken at the start, log
entry 62, DEDUCED); the parts read in later cycles; the rows of a MZERO, a predicate, a mask, keys, the bits of a comparison; and what its
rows and its completion leave: the sum of products in every lane, zero rows, the written object. -/
def MatrixCommandsCompute : Prop :=
  ∀ (s : State),
    (∀ m, StartsFirst s m →
      let x := s.slot m.slot
      (m.mfn = 0x00 → SpadReadable s m m.scal.toNat 1024 →
        MxRuns s m (fun r => r.got = 1 ∧ r.plane.tag = m.wf ∧ r.plane.dom = m.dom ∧
          ∀ i, i < tileBytes m.wf → byteOf r.plane.bytes.toNat i =
            if i < 1024 then rawRead s (.spad (coreOf s.me) (m.scal.toNat + i)) 1 else 0)) ∧
      (m.mfn = 0x02 → (s.core (coreOf s.me)).active.tag ≠ 15 → (s.core (coreOf s.me)).active.dom = m.dom →
        SpadReadable s m m.scal.toNat (m.combo.stride / m.combo.passes) →
        MxRuns s m (fun r => r.got = 1 ∧ r.plane = (s.core (coreOf s.me)).active ∧
          r.rows.map (·.1) = (List.range m.cnt).map (m.first + ·) ∧
          (∀ k acts, k < m.cnt → (m.first + k, acts) ∈ r.rows → ∀ i, i < 768 → byteOf acts.toNat i =
            if k = 0 ∧ i < m.combo.stride / m.combo.passes then rawRead s (.spad (coreOf s.me) (m.scal.toNat + i)) 1 else 0) ∧
          r.preds = if m.mx.pe = 1 then
            [x.predOf 0 m.mx.pm.toNat, x.predOf 1 m.mx.pk.toNat, x.predOf 2 m.mx.pn.toNat] else [])) ∧
      (m.mfn = 0x03 → MxRuns s m (fun r => r.rows = (List.range m.cnt).map (fun k => (m.first + k, 0)))) ∧
      (m.mfn = 0x04 → MxRuns s m (fun r =>
        r.effs = [.pred (m.cnt % 4) (m.cnt / 4 % 4) (BitVec.setWidth 768 (x.maskOf (m.first % 8)))])) ∧
      (m.mfn = 0x05 → MxRuns s m (fun r =>
        r.effs = [.mask (m.first % 8) (BitVec.setWidth 1024 (x.predOf (m.cnt % 4) (m.cnt / 4 % 4)))])) ∧
      (m.mfn = 0x10 →
        let ty := m.cnt % 16
        let part := m.cnt / 16 % 4
        MxRuns s m (fun r => ∃ v, r.effs = [.key v ty part] ∧
          ∀ i, i < 256 → lane v (laneBits ty) i = lane (x.rowRead m.first) (laneBits ty) (256 * part + i))) ∧
      (m.mfn = 0x11 → isFloatTy x.keyTag = false → m.cnt % 16 ≤ 5 →
        let ty := x.keyTag
        let w := laneBits ty
        MxRuns s m (fun r => ∃ v, r.effs = [.tile (m.cnt / 64) v (BitVec.allOnes 256) 12] ∧
          ∀ i n, i < 256 → n < 256 → tileBit v i n =
            meets (m.cnt % 16) (whole ty (lane (x.rowRead m.first) w (256 * (m.cnt / 16 % 4) + i))) (whole ty (lane x.keyRead w n)))) ∧
      (m.mfn = 0x11 →
        let ty := x.keyTag
        let w := laneBits ty
        MxRuns s m (fun r => ∃ v, r.effs = [.tile (m.cnt / 64) v (BitVec.allOnes 256) 12] ∧
          ∀ i n, i < 256 → n < 256 → tileBit v i n =
            (outerPred (m.cnt % 16) ty m.rounding (lane (x.rowRead m.first) w (256 * (m.cnt / 16 % 4) + i)) (lane x.keyRead w n)
              (256 * (m.cnt / 16 % 4) + i) (256 * x.keyPart + n)).1))) ∧
    (∀ r, Reads s r →
      let part := if r.cmd.mfn = 0x00 then 1024 else r.cmd.combo.stride / r.cmd.combo.passes
      let off := r.cmd.scal.toNat + part * r.got
      SpadReadable s r.cmd off part →
      (r.cmd.mfn = 0x00 → (∀ i, i < 1024 → byteOf r.plane.bytes.toNat (1024 * r.got + i) = 0) →
        ∃ t bytes, exec .matrixCommandComplete s = .next t ∧
          (t.core (coreOf s.me)).mrun = [{ r with got := r.got + 1, plane := { r.plane with bytes := bytes } }] ∧
          (∀ i, i < tileBytes r.cmd.wf → byteOf bytes.toNat i =
            if i / 1024 = r.got then rawRead s (.spad (coreOf s.me) (off + i % 1024)) 1 else byteOf r.plane.bytes.toNat i) ∧
          SlotsKept (fun _ => False) s t ∧ BytesKept s t) ∧
      (r.cmd.mfn = 0x02 → (s.core (coreOf s.me)).activeErr = [] →
        let n := r.cmd.first + r.got / r.cmd.combo.passes
        let first := part * (r.got % r.cmd.combo.passes)
        ∀ acts, (∀ e ∈ r.rows, e.1 = n → e.2 = acts) → (∀ i, i < part → byteOf acts.toNat (first + i) = 0) →
        ∃ t new, exec .matrixCommandComplete s = .next t ∧
          (t.core (coreOf s.me)).mrun =
            [{ r with got := r.got + 1, rows := r.rows.map (fun e => if e.1 = n then (n, new) else e) }] ∧
          (∀ i, i < 768 → byteOf new.toNat i =
            if first ≤ i ∧ i < first + part then rawRead s (.spad (coreOf s.me) (off + (i - first))) 1 else byteOf acts.toNat i) ∧
          SlotsKept (fun _ => False) s t ∧ BytesKept s t)) ∧
    (∀ r n acts, RowDue s r n acts →
      let old := (s.slot r.cmd.slot).rowRead n
      (r.cmd.mfn = 0x03 → r.effs = [] →
        ∃ t, exec .matrixCommandComplete s = .next t ∧ (t.slot r.cmd.slot).rowRead n = 0 ∧
          (t.slot r.cmd.slot).rowTagOf n = r.cmd.combo.tag ∧ Completed s t r) ∧
      (r.cmd.mfn = 0x02 → r.effs = [] →
        ∃ t, exec .matrixCommandComplete s = .next t ∧ (t.slot r.cmd.slot).rowTagOf n = (s.slot r.cmd.slot).rowTagOf n ∧
          (∀ k, k ≠ n → (t.slot r.cmd.slot).rowRead k = (s.slot r.cmd.slot).rowRead k) ∧
          (∀ j, j < 256 → lane ((t.slot r.cmd.slot).rowRead n) 32 j =
            if predBit r.preds 0 n = true ∧ predBit r.preds 2 j = true then
              (sumLane r.cmd r.plane.bytes.toNat acts.toNat (predBit r.preds 1) j (lane old 32 j)).1 % 2 ^ 32
            else lane old 32 j) ∧ Completed s t r) ∧
      (r.cmd.mfn = 0x02 → r.effs = [] → r.cmd.wf = 7 → r.cmd.af = 7 → r.cmd.mx.sat = 0 → r.preds = [] →
        ∃ t, exec .matrixCommandComplete s = .next t ∧
          ∀ j, j < 256 → lane ((t.slot r.cmd.slot).rowRead n) 32 j =
            (BitVec.ofInt 32 ((BitVec.ofNat 32 (lane old 32 j)).toInt +
              ((List.range 384).map (fun k =>
                (BitVec.ofNat 8 (r.plane.bytes.toNat / 256 ^ (384 * j + k))).toInt * (BitVec.ofNat 8 (acts.toNat / 256 ^ k)).toInt)).sum)).toNat)) ∧
    (∀ r e, (s.core (coreOf s.me)).mrun = [r] → r.landedAt = 0 → r.fault = 0 → r.rows = [] → r.land ≤ s.cycle →
      r.cmd.mfn ≠ 0x00 → r.cmd.nullified = false → coreOf r.cmd.slot = coreOf s.me → Counted s r.cmd.scope → r.effs = [e] →
      ∃ t, exec .matrixCommandComplete s = .next t ∧ Landed (s.slot r.cmd.slot) (t.slot r.cmd.slot) e ∧
        OthersStand (s.slot r.cmd.slot) (t.slot r.cmd.slot) e ∧ Completed s t r)

/-! Copies -/

/-- A unit of 8 bytes that a copy reads or writes: it exists, is aligned, is no register, and no failed package owns it. -/
def Usable (s : State) (p : Place) : Prop :=
  Exists p ∧ AlignedAt p 8 ∧ (∀ w, p ≠ .window w) ∧ (∀ pkg a, p = .remote pkg a → pkg ∉ s.ring.failed) ∧
    ∀ a, p = .deep a → a < 2 ^ 34

/-- An address that a copy of slot `k` uses leads to `p`, its translation at hand (13 R276). -/
def LeadsTo (s : State) (k : Nat) (e : JEntry) (kind : AccKind) (va : Word) (p : Place) : Prop :=
  translate s (coreOf k) e.dom va.toNat kind e.sup k = (s, .ok p) ∧ transWait s (coreOf k) e.dom va.toNat = 0 ∧
    (va.toNat / 2 ^ 48 = 0xFF ∨ (tlbFind (s.core (coreOf k)).utlb e.dom va.toNat).isSome = true)

/-- The units of `len` bytes that a copy of slot `k` reads or writes are at `p`; byte `o` of them has the address `addr o`. -/
def CopyAt (s : State) (k : Nat) (e : JEntry) (kind : AccKind) (addr : Nat → Word) (len : Nat) (p : Nat → Place) : Prop :=
  ∀ o, o < len → o % 8 = 0 → LeadsTo s k e kind (addr o) (p o) ∧ Usable s (p o)

/-- The destination of a copy that has marked it is at `p`: where it was marked, or, of an entry that an image has brought back, where its
addresses lead (13 R270, 20 R420). -/
def DestAt (s : State) (k : Nat) (e : JEntry) (p : Nat → Place) : Prop :=
  ∀ o, o < e.len → o % 8 = 0 →
    (homeAt e.homes o = some (p o) ∨ homeAt e.homes o = none ∧ LeadsTo s k e .write (e.dst o) (p o)) ∧ Usable s (p o)

/-- The copy is a CPY or a CPYT of a valid map, of a length that is a multiple of 8 (17 R363, R365). -/
def IsCopy (e : JEntry) : Prop :=
  e.fn ≤ 1 ∧ (e.fn = 1 → mapOk e.map (e.aux.getLsbD 2) = true) ∧ e.len % 8 = 0 ∧ 0 < e.len

/-- The barrier after a copy of `len` bytes, with an arrival or without (17 R353, R354). -/
def settled (b : Bar) (len : Nat) (arv : Bool) : Bar :=
  let n := if arv then 1 else 0
  if b.parv = n ∧ b.pbytes = len then { b with pbytes := 0, phase := (b.phase + 1) % 16, parv := b.exparv }
  else { b with pbytes := b.pbytes - len, parv := b.parv - n }

/-- 14 R300, R301, 17 R350, R353, R363, R365: a CPY or CPYT that starts marks every line of its destination PEND; each part of 4 KiB moves
its bytes from the source to the destination as it was marked, and nothing else; its settlement clears PEND, stamps the lines as written
by its slot, updates its barrier and gives its signal. -/
def CopiesMoveBytes : Prop :=
  ∀ (s : State) (k : Nat) (e : JEntry) (dst : Nat → Place), (s.slot k).journal = [e] → IsCopy e → e.flips = 0 →
    (CopyAt s k e .write e.dst e.len dst → copyQueue s (coreOf s.me) s.cur.q.toNat = [(k, e)] →
      copyFlight s (coreOf s.me) s.cur.q.toNat = [] → e.pushed < s.cycle →
      e.next ≤ s.cycle → e.started = false → e.chunks = 0 → waitToken e.w1 = none → coreOf k = coreOf s.me →
      (∀ o, o < e.len → o % 8 = 0 → (dst o).stamped = true →
        Sound s (dst o) ∧ stampAllows (metaAt s (dst o)) k e.dph = true ∧ ∀ j r, lineStreams (s.role j r) (dst o) = []) →
      ∃ t homes, exec .copyCommandStart s = .next t ∧ (∀ o, o < e.len → o % 8 = 0 → homeAt homes o = some (dst o)) ∧
        (t.slot k).journal = [{ e with
          started := true, running := true, marked := e.len, homes := homes,
          next := Nat.max (s.cycle + (Nat.min 4096 e.len + 127) / 128) (s.cycle + 1) }] ∧
        (∀ o, o < e.len → o % 8 = 0 → (dst o).stamped = true → metaAt t (dst o) = metaAt s (dst o) ||| 0x800000000#36) ∧
        (∀ x, (∀ o, o < e.len → o % 8 = 0 → (dst o).line ≠ x.line) → metaAt t x = metaAt s x) ∧
        SlotsKept (· = k) s t ∧ BytesKept s t) ∧
    (∀ core q rest src, DestAt s k e dst → s.powered = true → s.agenda = .chunk core q :: rest → copyFlight s core q = [(k, e)] →
      coreOf k = core →
      e.q = q → e.next ≤ s.cycle → e.stop = false → 4096 * e.chunks < e.len →
      let o := 4096 * e.chunks
      let n := Nat.min 4096 (e.len - o)
      CopyAt s k e .read (fun i => e.src (o + i)) n src →
      (∀ i, i < n → i % 8 = 0 → (src i).stamped = true → Sound s (src i) ∧ sourceAllowed k e s (src i) = true) →
      (∀ i, i < n → i % 8 = 0 → ∀ a, dst (o + i) = .deep a → undoFirst s a = false) →
      (∀ i j, i < n → j < n → i % 8 = 0 → j % 8 = 0 → i ≠ j → dst (o + i) ≠ dst (o + j)) → (∀ c, (s.core c).einj.getLsbD 0 = false) →
      ∃ t, step s = .next t ∧ (∀ i, i < n → i % 8 = 0 → rawRead t (dst (o + i)) 8 = rawRead s (src i) 8) ∧
        (∀ x, Exists x → (∀ i, i < n → i % 8 = 0 → Outside x (dst (o + i)) 8) → rawRead t x 1 = rawRead s x 1) ∧
        (∀ x, metaAt t x = metaAt s x) ∧
        (t.slot k).journal = [if e.len ≤ o + 4096 then { e with chunks := e.chunks + 1, running := false, finished := true }
          else { e with chunks := e.chunks + 1, next := s.cycle + (Nat.min 4096 (e.len - (o + 4096)) + 127) / 128 }] ∧
        SlotsKept (· = k) s t) ∧
    (DestAt s k e dst → k = s.me → e.finished = true → e.discarded = false → e.marked = e.len → e.len ≤ 4096 * e.chunks → e.err = 0 →
      Counted s e.scope →
      monitorCount s = 0 →
      let Settles (t : State) : Prop :=
        (t.slot k).journal = [] ∧ Signalled e.w1 k s t ∧ (t.scope e.scope).live = (s.scope e.scope).live - 1 ∧
          (∀ o, o < e.len → o % 8 = 0 → (dst o).stamped = true → metaAt t (dst o) = stampOrdered k)
      (e.vc = 0 →
        ∃ t, exec .copySettle s = .next t ∧ Settles t ∧ SlotsKept (· = k) s t ∧ BytesKept s t) ∧
      (∀ bp, e.vc ≠ 0 → translate s (coreOf k) e.dom e.vc.toNat .write e.sup k = (s, .ok bp) →
        (e.vc.toNat / 2 ^ 48 = 0xFF ∨ (tlbFind (s.core (coreOf k)).utlb e.dom e.vc.toNat).isSome = true) → Exists bp →
        AlignedAt bp 16 → bp.stamped = true → Plainly s s bp → Sound s (bp.plus 8) →
        (∀ o, o < e.len → o % 8 = 0 → (dst o).line ≠ bp.line) →
        let b := barOf (rawRead s bp 16)
        b.init = true → e.len ≤ b.pbytes → (e.arv = true → 1 ≤ b.parv) →
        ∃ t, exec .copySettle s = .next t ∧ Settles t ∧ BarrierIs s t bp (settled b e.len e.arv) ∧
          ∀ j, j ≠ k → (∀ r w, (s.role j r).barWait = some w → w.place ≠ bp) → t.slot j = s.slot j))

end Sys2Proof.Said

/-- 14 R286, R289, R300, R304, 02 R29, R32, 08 R149, R150, R156 to R172, 09 R173, R187 to R191, 10 R197 to R211, 17 R344, R349, R350, R363,
R365, 20 R427: accesses, results, merge groups, code lines, the scrub; commands start and land; what vector, bit-tile and matrix commands
compute; what copies move. The model's choices: a group goes home at delay 0 (log entry 8, DESIGN CHOICE), VEXP2 and VLOG2 round the exact
real result (log entry 19, DEDUCED), MSTR takes the plane and MFLIP exchanges the planes at the start (log entry 62, DEDUCED), the keys'
layout (log entry 77, DESIGN CHOICE), E2M1B's and KV4's open points (log entries 90 and 91, DESIGN CHOICE). -/
def Obligations.UnitsDoTheirWork : Prop :=
  UnitsAtWork ∧ VectorCommandsCompute ∧ BitCommandsCompute ∧ MatrixCommandsCompute ∧ CopiesMoveBytes

/-! ### Segments, compute frames and timetables -/

namespace Sys2Proof.Said

/-- An entry of the running frame can be released: it is due, its template's scope is neither parked nor cancelled, its slot is neither
halted nor busy (12 R249, 18 R390). -/
def Releasable (s : State) (e : TEntry) : Prop :=
  s.frame.entries = [e] ∧ e.tick ≤ frameTick s ∧ passedOver s e = false ∧ (s.slot e.slot).halted = false ∧ slotBusy s e.slot = false ∧
    s.frame.mismatch = none

/-- The slot holds the timed strand of a template, with the block of its entry (12 R249, R252). -/
def TimedIn (s1 t : State) (e : TEntry) (ref : RecRef) : Prop :=
  ((t.slot e.slot).strand.map (fun x => (x.ref, x.timed, x.scope))) = some (ref, true, recScope s1 ref.pa) ∧
    ((t.slot e.slot).block.map (fun b => (b.entry, b.tick0, b.eticks, b.ecrc, b.checked))) =
      some (e.index, s1.vcc, e.eticks, e.ecrc, false) ∧
    Begun s1 t e.slot .loader ref (recGet s1 ref.pa 0 4) (s1.vcc + 16) ∧
    Begun s1 t e.slot .computer ref (recGet s1 ref.pa 4 4) (s1.vcc + 16) ∧
    Begun s1 t e.slot .storer ref (recGet s1 ref.pa 8 4) (s1.vcc + 16)

/-- The length of the rotation plan and the given entries of it hold no error. -/
def PlanSound (s : State) (l : List Nat) : Prop := ∀ o ∈ 0 :: l.map (fun k => 8 + 8 * k), Sound s (.deep (planBase s + o))

/-- A segment whose decode has not begun and is due. -/
def DecodeDue (s : State) (g : Seg) : Prop := g.begun = false ∧ g.waiting = false ∧ g.decodeAt ≤ s.cycle

/-- The segment once its decode has claimed buffer `n`, with the codes in force now (17 R371, 18 R386). -/
def decoding (s : State) (g : Seg) (n : Nat) : Seg :=
  let g1 := { g with begun := true, buf := some n, codes := canonicalCodes (s.codeTabs.get (hCtid g.header) []) }
  { g1 with slices := decodeSegment g1 }

/-- Buffer `n` fills with the segment, and every other is as before. -/
def Fills (s t : State) (g : Seg) (n : Nat) : Prop :=
  t.buf n = { st := .fill, holds := 0, header := g.header, seg := g.frame } ∧ ∀ j, j ≠ n → t.buf j = s.buf j

/-- No buffer is free. -/
def NoneFree (s : State) : Prop := ∀ j, j < 3 → (s.buf j).st ≠ .free

/-- The timetable of a segment names no entry. -/
def NoEntries (s : State) (g : Seg) : Prop := (readTable s (hDomain g.header) (hTtidx g.header)).2 = []

/-- The VCC goes on with tick 0 of a frame of segment `g`, and the frame counter counts it (12 R245, R246). -/
def FrameBegins (s t : State) (g : Seg) : Prop :=
  t.frameCtr = s.frameCtr + 1 ∧ t.holdsVcc = [] ∧ t.vcc = s.vcc + 1 ∧ t.frame.running = true ∧ t.frame.no = s.frame.no + 1 ∧
    t.frame.start = t.vcc ∧ t.frame.header = g.header ∧ t.frame.buf = g.buf ∧ t.frame.mismatch = none

/-- The VCC waits for a segment alone, and no record waits for a frame. -/
def AwaitsFrame (s : State) : Prop := s.frame.running = false ∧ s.holdsVcc = [0] ∧ ∀ c, (s.cluster c).frameWait = []

/-- Both ownership entries of buffer `n` hold `v`, in every core (18 R382). -/
def BufOwned (s t : State) (n : Nat) (v : BitVec 8) : Prop :=
  ∀ k i, k < 64 → i < 2 → (t.core k).owner.get (bufOffset s n / 65536 + i) 0 = v

end Sys2Proof.Said

/-- 12 R241, R242, R245, R246, R249, R250, 11 R228, 18 R379, R382 to R384, R386, R387, 22 R458. A whole slot of the ring becomes a
segment. Its decode claims the lowest free buffer; with none free the buffer of the oldest segment that is READY, which is skipped, and
with none READY the segment itself is skipped; at a decode's start the oldest is skipped where more than three wait. 448 cycles later the
buffer is READY, or freed where the decode fails. The oldest segment's frame starts: its buffer is current, the one before free or held,
its timetable read. The frame's end holds the VCC. A due entry places its template's strand, 16 ticks before it issues; an entry that
slipped follows as soon as its slot is free. Late accesses, as the tick before has left them (log entry 35, the model's choice), hold the
VCC, and let it go. That a failing decode keeps its buffer for 448 cycles is the model's reading (log entry 28), so are FRAMESET's signed
comparison (log entry 41) and the plan index of a segment (log entry 84). -/
def Obligations.SegmentsAndFrames : Prop :=
  ∀ (s : State),
    (ringStopped s = false → slotFlits ≤ s.ring.flits → s.ring.frameStart + 512 ≤ s.cycle → s.ring.refilled = [] →
      PlanSound s [s.ring.planIndex] →
      let h : BitVec 512 := BitVec.ofNat 512 (Mem.readNat s.ring.incoming 0 64)
      let load := payloadFrom s.ring.incoming 64
      ∃ t g x, exec .segmentArrival s = .next t ∧ t.segs = s.segs ++ [g] ∧ g.frame = s.ring.frameNo ∧ g.header = h ∧
        g.payload = load ∧ g.status = slotStatus h load ∧ g.decodeAt = s.cycle + 16 ∧ g.begun = false ∧ g.waiting = false ∧
        t.lastHeader = h ∧ t.ring.store = s.ring.store ++ [x] ∧ x.plan = planOf s h ∧ x.frame = s.ring.frameNo ∧
        x.header = (if slotStatus h load = .badCrc then asLost h else h) ∧ x.payload = load ∧ t.ring.flits = 0 ∧
        t.ring.planIndex = planNext s (planOf s h) ∧ t.ring.frameNo = s.ring.frameNo + 1 ∧ t.ring.frameStart = s.cycle ∧
        (monitorCount s = 0 → SlotsKept (fun _ => False) s t) ∧
        (slotStatus h load ≠ .badCrc →
          { t with lastHeader := s.lastHeader, anyHeader := s.anyHeader, segs := s.segs, ring := s.ring } = s)) ∧
    (∀ g n, s.segs = [g] → DecodeDue s g → g.status = .weights → n < 3 → (s.buf n).st = .free →
      (∀ j, j < n → (s.buf j).st ≠ .free) →
      ∃ t, exec .decodeStart s = .next t ∧ Fills s t g n ∧ t.segs = [decoding s g n] ∧
        (monitorCount s = 0 → SlotsKept (fun _ => False) s t)) ∧
    (∀ o g m, s.segs = [o, g] → o.frame ≠ g.frame → DecodeDue s g → g.status = .weights → NoneFree s → o.begun = true →
      o.status = .weights → o.buf = some m → (s.buf m).st = .ready → NoEntries { s with segs := [g] } o →
      ∃ t, exec .decodeStart s = .next t ∧ Fills s t g m ∧ t.segs = [decoding s g m] ∧ t.skipTail = s.skipTail + 1 ∧
        t.parks = s.parks) ∧
    (∀ g, s.segs = [g] → DecodeDue s g → g.status = .weights → NoneFree s → g.buf = none → NoEntries { s with segs := [] } g →
      ∃ t, exec .decodeStart s = .next t ∧ t.segs = [] ∧ t.bufs = s.bufs ∧ t.skipTail = s.skipTail + 1 ∧ t.parks = s.parks) ∧
    (∀ o a b c g n, s.segs = [o, a, b, c, g] → [o.frame, a.frame, b.frame, c.frame, g.frame].Nodup → DecodeDue s g →
      g.status ≠ .weights → (∀ x ∈ [o, a, b, c], x.begun = true ∧ x.waiting = true) → o.status = .weights → o.buf = some n →
      NoEntries { s with segs := [a, b, c, { g with begun := true }] } o →
      ∃ t, exec .decodeStart s = .next t ∧ t.segs = [a, b, c, { g with begun := true }] ∧ (t.buf n).st = .free ∧
        (∀ j, j ≠ n → t.buf j = s.buf j) ∧ t.skipTail = s.skipTail + 1 ∧ t.parks = s.parks) ∧
    (∀ g, s.segs = [g] → g.begun = true → g.waiting = false →
      (g.decodeAt + 448 ≤ s.cycle → g.buf = none →
        exec .decodeComplete s = .next { s with segs := [{ g with waiting := true }] }) ∧
      ∀ n, g.buf = some n →
        (s.cycle < g.decodeAt + 448 →
          ∃ t, exec .decodeComplete s = .next t ∧ t.segs = s.segs ∧ t.bufs = s.bufs ∧
            (monitorCount s = 0 → SlotsKept (fun _ => False) s t)) ∧
        (g.decodeAt + 448 ≤ s.cycle → g.decodes = false →
          ∃ t, exec .decodeComplete s = .next t ∧ (t.buf n).st = .free ∧ BufOwned s t n 0 ∧
            t.segs = [{ g with waiting := true, buf := none, status := .badDecode, slices := [] }] ∧
            SlotsKept (fun _ => False) s t ∧ StoresKept s t) ∧
        (g.decodeAt + 448 ≤ s.cycle → g.decodes = true →
          ∃ t, exec .decodeComplete s = .next t ∧ (t.buf n).st = .ready ∧ t.segs = [{ g with waiting := true, slices := [] }] ∧
            { t with bufs := s.bufs, segs := s.segs } = s)) ∧
    (∀ g rest, s.segs = g :: rest → AwaitsFrame s →
      (g.status = .empty → g.buf = none → g.begun = true → g.waiting = true → (∀ n, n < 3 → (s.buf n).st ≠ .cur) →
        ∃ t, exec .segmentCurrent s = .next t ∧ t.segs = rest ∧ FrameBegins s t g ∧ t.frame.entries = [] ∧
          SlotsKept (fun _ => False) s t ∧ BytesKept s t) ∧
      (∀ n, g.status = .weights → g.buf = some n → n < 3 → (s.buf n).st = .ready → s.parks = [] →
        (hL0 g.header = true ∨ hGen g.header = bgen s (hDomain g.header)) →
        ∃ t s1, exec .segmentCurrent s = .next t ∧ t.segs = rest ∧ FrameBegins s t g ∧ (t.buf n).st = .cur ∧
          BufOwned s t n (BitVec.ofNat 8 (16 + hDomain g.header)) ∧
          (∀ m, m < 3 → (s.buf m).st = .cur → (∀ j, j < 3 → j ≠ m → (s.buf j).st ≠ .cur) →
            ((s.buf m).holds = 0 → (t.buf m).st = .free ∧ BufOwned s t m 0) ∧
            ((s.buf m).holds ≠ 0 → (t.buf m).st = .held ∧ (t.buf m).holds = (s.buf m).holds)) ∧
          t.frame.entries = (readTable s1 (hDomain g.header) (hTtidx g.header)).2 ∧ s1.deep = s.deep ∧ s1.mgmt = t.mgmt ∧
          bgen t (hDomain g.header) = hGen g.header ∧
          (∀ off, off ≠ 0x850 + 128 * hDomain g.header → t.mreg off = s.mreg off))) ∧
    (s.frame.running = true → s.frame.no ≠ 0 → s.frame.start + 511 ≤ s.vcc → (∀ e ∈ s.frame.entries, 511 < e.tick) →
      exec .computeFrameEnd s =
        .next { s with frame := { s.frame with running := false, entries := [] }, holdsVcc := 0 :: s.holdsVcc }) ∧
    (∀ e s1 ref, s.frame.running = true → s.slipping = none → Releasable s e →
      templateRef s (hDomain s.frame.header) e.tmpl = (s1, some ref) → Takable s1 ref.pa → RecQuiet s1 ref.pa →
      ∃ t, exec .timetableRelease s = .next t ∧ TimedIn s1 t e ref ∧ t.frame = { s1.frame with entries := [] } ∧
        (t.scope (recScope s1 ref.pa)).live = ((s1.scope (recScope s1 ref.pa)).live + 1) % 2 ^ 24 ∧
        SlotsKept (· = e.slot) s1 t ∧ BytesAsIn s1 t) ∧
    (∀ e c0 s1 ref, s.slipping = some c0 → Releasable s e → s.mreg 0x230 = 0 →
      templateRef { s with slipping := none, holdsVcc := s.holdsVcc.erase 1 } (hDomain s.frame.header) e.tmpl = (s1, some ref) →
      Takable s1 ref.pa → RecQuiet s1 ref.pa →
      ∃ t, exec .entrySlip s = .next t ∧ TimedIn s1 t e ref ∧ t.slipping = none ∧ t.holdsVcc = s1.holdsVcc ∧
        t.slips = s1.slips + 1 ∧ t.frame.entries = [] ∧ SlotsKept (· = e.slot) s1 t ∧ BytesAsIn s1 t) ∧
    (2 ∉ s.holdsVcc → s.late = true → exec .lateAccessPause s = .next { s with holdsVcc := 2 :: s.holdsVcc }) ∧
    (∀ l r, s.holdsVcc = l ++ 2 :: r → 2 ∉ l → s.late = false →
      exec .lateAccessResume s = .next { s with holdsVcc := l ++ r }) ∧
    (∃ t, exec .frameModeEnable s = .next t ∧ t.frameMode s.cur.dom.toNat = true ∧
      (s.frameMode s.cur.dom.toNat = false → bgen t s.cur.dom.toNat = s.bgenSet.get s.cur.dom.toNat 0 % 2 ^ 16) ∧
      { t with mgmt := s.mgmt } = s) ∧
    (∃ t, exec .frameModeDisable s = .next t ∧ t.frameMode s.cur.dom.toNat = false ∧
      (s.frame.running = true → hDomain s.frame.header = s.cur.dom.toNat → t.frame.entries = []) ∧ t.slots = s.slots ∧
      StoresKept s t) ∧
    (∀ v : BitVec 64, 0 ≤ (v.extractLsb' 0 48 - s.frameCtr).toInt →
      exec (.frameset v) s = .next { s with frameCtr := v.extractLsb' 0 48 })

/-! ### The ring -/

namespace Sys2Proof.Said

/-- Bit `n` of EVENTS is set, every other bit as before (22 R440). -/
def Raised (n : Nat) (s t : State) : Prop := t.mreg 0x20 = s.mreg 0x20 ||| (1#64 <<< n)

/-- Nothing disturbs a write anywhere: no monitor waits, the deep store and its line metadata hold no error, no injection is armed, no write
stands stalled. -/
def AllQuiet (s : State) : Prop :=
  monitorCount s = 0 ∧ s.deepErr = [] ∧ s.deepMetaErr = [] ∧ (∀ k, (s.core k).einj.getLsbD 0 = false) ∧ s.stalled = []

/-- Nothing but the ring, the swap and the management registers is not as before. -/
def RingOnly (s t : State) : Prop := { t with ring := s.ring, swap := s.swap, mgmt := s.mgmt } = s

/-- The place of the ring store that takes the flit at U: a free one for a header, else that of the slot that crosses. -/
def crossing (s : State) : Option Nat := if s.ring.flits = 0 then freePlace s else s.ring.into

/-- A link that begins to train. -/
def trains (s : State) (l : Link) : Link := { l with trained := false, untrainedSince := s.cycle }

/-- GRAFT[1] is the only bit of the register that a latched graft shows; `b` is its value. -/
def GraftShown (t : State) (b : Bool) : Prop := (t.mreg 0x88).getLsbD 1 = b

/-- The store with slot `x` under another header and payload. -/
def replaced (l : List RingSlot) (x : RingSlot) (h : BitVec 512) (payload : Mem) : List RingSlot :=
  l.map (fun y => if y.place = x.place then { y with header := h, payload := payload } else y)

end Sys2Proof.Said

/-- 22 R450 to R457, 18 R394, 23 R463, 01 R13. A flit in sequence is taken, at U into its place of the ring store, and one with an error
discarded; while the ring stands still, nothing is taken and no frame of it ends. A link that loses lock pauses the ring; a link trained
again resends from the first unacknowledged flit and lets the ring go, across a failed package with its report or with the LOST slots of
what is missing. A declared failure is raised everywhere, latches the failed package's grafts and shows at its neighbours; its release
joins it again, or latches it again where the links do not train within 0.2 s. A neighbour that is silent, or untrained, for 1 s is
declared failed. A slot is forwarded from the ring store, with at most 64 KiB unacknowledged; a refill takes its place. A swap pends,
pauses, replaces and resumes. The places of the ring store and the bits that read set are the model's (log entries 83 and 85), and so are
the timing choices that drive forwarding and losses (log entry 44), the plan indices of LOST slots and an EMPTY entry's EMPTY slot (log
entry 84). -/
def Obligations.RingSteps : Prop :=
  ∀ (s : State),
    (∀ seq flit, ringStopped s = false → (s.ring.link s.cur.port).trained = true →
      (∀ k, s.cur.port = .up → seq = (s.ring.link .up).nextRecv → s.ring.flits < slotFlits → crossing s = some k → AllQuiet s →
        let a := ringAddr s k s.ring.flits
        undoFirst s a = false →
        ∃ t, exec (.linkFlitReceive seq true flit) s = .next t ∧ t.ring.flits = s.ring.flits + 1 ∧ t.ring.into = some k ∧
          Mem.readNat t.ring.incoming (64 * s.ring.flits) 64 = flit.toNat ∧ rawRead t (.deep a) 64 = flit.toNat ∧
          (∀ q, Outside q (.deep a) 64 → rawRead t q 1 = rawRead s q 1) ∧
          (t.ring.link .up).nextRecv = seq + 1 ∧ (t.ring.link .up).discarding = false ∧ SlotsKept (fun _ => False) s t) ∧
      (s.cur.port = .down → seq = (s.ring.link .down).nextRecv →
        ∃ t, exec (.linkFlitReceive seq true flit) s = .next t ∧ (t.ring.link .down).nextRecv = seq + 1 ∧
          (t.ring.link .down).discarding = false ∧ (t.ring.link .down).silentSince = s.cycle ∧ RingOnly s t) ∧
      (s.cur.port = .up → seq = (s.ring.link .up).nextRecv → s.ring.flits < slotFlits → crossing s = none →
        exec (.linkFlitReceive seq true flit) s = .next s) ∧
      ((s.ring.link s.cur.port).discarding = false →
        ∃ t, exec (.linkFlitReceive seq false flit) s = .next t ∧ (t.ring.link s.cur.port).discarding = true ∧
          (t.ring.link s.cur.port).nextRecv = (s.ring.link s.cur.port).nextRecv ∧ t.ring.incoming = s.ring.incoming ∧
          t.ring.flits = s.ring.flits ∧ RingOnly s t)) ∧
    (ringStopped s = true →
      (∀ seq ok flit, exec (.linkFlitReceive seq ok flit) s = .next s) ∧ exec .segmentArrival s = .next s ∧
        exec .ringSlotForward s = .next s) ∧
    (∃ t, exec .linkRetrain s = .next t ∧ t.ring.store = s.ring.store ∧ RingOnly s t ∧
      (s.cur.pos.toNat = s.ringPos → (t.ring.link s.cur.port).trained = false ∧ t.ring.paused = true) ∧
      (s.cur.pos.toNat ≠ s.ringPos → s.cur.pos.toNat ∈ t.ring.away ∧ ringStopped t = true)) ∧
    (s.ring.releasing = none → s.cur.pos.toNat = s.ringPos →
      (s.cur.port = .up →
        ∃ t, exec .retrainComplete s = .next t ∧ t.ring.up.trained = true ∧ t.ring.down = s.ring.down ∧
          t.ring.paused = (!s.ring.down.trained || s.ring.latched) ∧ RingOnly s t ∧
          (s.ring.up.retrainedOver = true → s.anyHeader = true →
            t.ring.report = some (planBefore s s.ring.planIndex) ∧ t.ring.incoming = [] ∧ t.ring.flits = 0)) ∧
      (s.cur.port = .down → s.ring.down.retrainedOver = false →
        ∃ t, exec .retrainComplete s = .next t ∧ t.ring.down.trained = true ∧ t.ring.up = s.ring.up ∧
          t.ring.down.nextSend = s.ring.down.nextSend - BitVec.ofNat 16 (s.ring.down.sent - s.ring.down.acked) ∧
          t.ring.down.sent = s.ring.down.acked ∧ t.ring.paused = (!s.ring.up.trained || s.ring.latched) ∧ RingOnly s t) ∧
      (∀ n rest, s.cur.port = .down → s.ring.down.retrainedOver = true → s.delays = n :: rest →
        PlanSound s (lastPlans s s.ring.sentPlan n) →
        ∃ t, exec .retrainComplete s = .next t ∧ t.ring.down.trained = true ∧ t.ring.down.retrainedOver = false ∧
          t.ring.lost = (lastPlans s s.ring.sentPlan n).map (lostOfPlan s) ∧ t.ring.store = s.ring.store ∧ t.slots = s.slots)) ∧
    (s.ring.releasing = none → s.cur.pos.toNat ≠ s.ringPos →
      ∃ t, exec .retrainComplete s = .next t ∧ s.cur.pos.toNat ∉ t.ring.away ∧ RingOnly s t) ∧
    (∀ c0, s.ring.releasing = some (s.ringPos, c0) → s.cur.pos.toNat = s.ringPos →
      (s.cur.port = .down → s.ring.down.retrainedOver = false) →
      let other := if s.cur.port = .up then s.ring.down else s.ring.up
      (s.cycle < c0 + 220000000 → other.trained = true →
        ∃ t, exec .retrainComplete s = .next t ∧ t.ring.releasing = none ∧ t.ring.latched = s.ring.latched ∧
          t.ring.paused = false ∧ s.ringPos ∉ t.ring.failed ∧ t.ring.store = [] ∧ t.ring.up.trained = true ∧
          t.ring.down.trained = true ∧ (t.mreg 0x88).getLsbD 0 = false ∧ (t.mreg 0x88).getLsbD 2 = false ∧ Raised 0 s t ∧
          RingOnly s t) ∧
      (c0 + 220000000 ≤ s.cycle ∨ other.trained = false →
        ∃ t, exec .retrainComplete s = .next t ∧ t.ring.releasing = s.ring.releasing ∧ t.ring.paused = true ∧
          t.ring.failed = s.ring.failed ∧ (t.ring.link s.cur.port).trained = true ∧ RingOnly s t)) ∧
    (∀ k c0, s.ring.releasing = some (k, c0) → k ≠ s.ringPos → s.cur.pos.toNat = k →
      (s.cycle < c0 + 220000000 →
        ∃ t, exec .retrainComplete s = .next t ∧ t.ring.releasing = none ∧ t.ring.paused = false ∧ k ∉ t.ring.failed ∧
          t.ring.store = s.ring.store ∧ t.ring.up.trained = true ∧ t.ring.down.trained = true ∧ Raised 0 s t ∧ RingOnly s t) ∧
      (c0 + 220000000 ≤ s.cycle →
        ∃ t, exec .retrainComplete s = .next t ∧ t.ring.releasing = s.ring.releasing ∧ t.ring.failed = s.ring.failed ∧
          RingOnly s t)) ∧
    (∀ i ∈ [Instr.graftDeclare, Instr.packagePowerLoss],
      ∃ t, exec i s = .next t ∧ s.cur.pos.toNat ∈ t.ring.failed ∧ ringStopped t = true ∧ Raised 3 s t ∧
        (s.cur.pos.toNat ≠ s.ringPos → (∀ p, neighbour s p ≠ s.cur.pos.toNat) →
          s.cur.pos.toNat ∈ t.ring.away ∧ t.ring.paused = s.ring.paused) ∧
        (s.cur.pos.toNat = s.ringPos → t.ring.latched = true ∧ t.ring.former = s.mreg 0x80 ∧ GraftShown t true) ∧
        (s.cur.pos.toNat ≠ s.ringPos → ∀ p, neighbour s p = s.cur.pos.toNat →
          (t.ring.link p).trained = false ∧ (t.ring.link p).retrainedOver = true ∧ GraftShown t true) ∧
        t.powered = (s.powered && !(decide (i = .packagePowerLoss) && decide (s.cur.pos.toNat = s.ringPos))) ∧
        t.slots = s.slots ∧ StoresKept s t) ∧
    (s.cur.pos.toNat = s.ringPos → field (s.mreg 0) 0 4 = 4 → s.ring.latched = true → s.mreg 0x80 = s.ring.former →
      (∀ d, s.frameMode d = false) → s.ring.releasing = none →
      ∃ t, exec .graftRelease s = .next t ∧ RingOnly s t ∧
        t.ring = { s.ring with
          releasing := some (s.ringPos, s.cycle), paused := true, latched := false, up := trains s s.ring.up,
          down := trains s s.ring.down } ∧ GraftShown t false ∧
        (t.mreg 0x88).getLsbD 2 = true) ∧
    (s.cur.pos.toNat ≠ s.ringPos → s.cur.pos.toNat ∈ s.ring.failed → s.ring.releasing = none →
      ∃ t, exec .graftRelease s = .next t ∧ RingOnly s t ∧
        (let n := Nat.max 1 s.ringLen
         t.ring = { s.ring with
          releasing := some (s.cur.pos.toNat, s.cycle), paused := true,
          up := if (s.cur.pos.toNat + 1) % n = s.ringPos then trains s s.ring.up else s.ring.up,
          down := if (s.ringPos + 1) % n = s.cur.pos.toNat then trains s s.ring.down else s.ring.down }) ∧
        (nextTo s s.cur.pos.toNat = true → GraftShown t false)) ∧
    (∀ p c0, s.ring.releasing = some (p, c0) → c0 + 220000000 ≤ s.cycle →
      ∃ t, exec .graftTrainTimeout s = .next t ∧ Raised 3 s t ∧ RingOnly s t ∧ (t.mreg 0x88).getLsbD 2 = false ∧
        (p = s.ringPos → t.ring = { s.ring with releasing := none, paused := true, latched := true } ∧ GraftShown t true) ∧
        (p ≠ s.ringPos →
          t.ring = { s.ring with
            releasing := none, paused := false, up := { s.ring.up with trained := true, silentSince := s.cycle },
            down := { s.ring.down with trained := true, silentSince := s.cycle } } ∧
          (nextTo s p = true → GraftShown t true))) ∧
    (s.cur.pos.toNat = s.ringPos → s.ring.heartbeat + 1100000 ≤ s.cycle →
      exec .heartbeatSend s = .next { s with ring := { s.ring with heartbeat := s.cycle } }) ∧
    (∀ p, s.cur.pos.toNat ≠ s.ringPos → neighbour s p = s.cur.pos.toNat →
      ∃ t, exec .heartbeatSend s = .next t ∧ (t.ring.link p).silentSince = s.cycle ∧ t.ring.heartbeat = s.ring.heartbeat ∧
        RingOnly s t) ∧
    (let l := s.ring.link s.cur.port
     let dead := l.silentSince + 1100000000 ≤ s.cycle ∨ (l.trained = false ∧ l.untrainedSince + 1100000000 ≤ s.cycle)
     (dead → neighbour s s.cur.port ≠ s.ringPos → s.ring.latched = false → s.ring.releasing = none →
      ∃ t, exec .heartbeatTimeout s = .next t ∧ neighbour s s.cur.port ∈ t.ring.failed ∧ Raised 3 s t ∧
        (t.ring.link s.cur.port).silentSince = s.cycle ∧ RingOnly s t) ∧
     (¬ dead → exec .heartbeatTimeout s = .next s)) ∧
    (∀ x rest, s.ring.store = x :: rest → ringStopped s = false → s.ring.down.trained = true →
      (s.delays = [] → s.ring.down.acked ≤ slotFlits → s.ring.down.sent ≤ slotFlits →
        ∃ t, exec .ringSlotForward s = .next t ∧ t.ring.store = rest ∧ t.ring.sent = x.header ∧ t.ring.sentPlan = x.plan ∧
          t.ring.down.nextSend = s.ring.down.nextSend + BitVec.ofNat 16 (slotFlits - s.ring.down.sent) ∧
          t.ring.down.sent = 0 ∧ t.ring.down.acked = 0 ∧ RingOnly s t) ∧
      (∀ n ds, s.delays = n :: ds → 0 < n → s.ring.down.acked ≤ slotFlits - n → s.ring.down.sent ≤ s.ring.down.acked + 1024 →
        ∃ t, exec .ringSlotForward s = .next t ∧ t.ring.store = s.ring.store ∧ t.ring.down.acked = slotFlits - n ∧
          t.ring.down.sent ≤ t.ring.down.acked + 1024 ∧ t.slots = s.slots)) ∧
    (∀ lost rest, s.ring.refills = lost :: rest →
      let img := imageSlot s (s.domWord (hDomain lost) 8) (hSegidx lost)
      (imageOk img.1 lost (hGen lost) = true →
        ∃ t, exec .refillComplete s = .next t ∧ t.ring.refills = rest ∧ img ∈ t.ring.refilled ∧
          (lostSlots s img.1 = [] → t.ring.store = s.ring.store ∧ RingOnly s t) ∧
          (∀ x, lostSlots s img.1 = [x] → t.ring.store = replaced s.ring.store x img.1 img.2)) ∧
      (imageOk img.1 lost (hGen lost) = false →
        ∃ t, exec .refillComplete s = .next t ∧ t.ring.refills = rest ∧ t.ring.store = s.ring.store ∧ Raised 1 s t ∧
          RingOnly s t)) ∧
    (s.swap.pend = false →
      ∃ t, exec .swapGo s = .next t ∧ t.swap.pend = true ∧ t.swap.source = s.domWord s.swap.dom 9 ∧ t.swap.dom = s.swap.dom ∧
        (t.mreg 0xC0).getLsbD 0 = true ∧ (t.mreg 0xC0).getLsbD 1 = true ∧ (t.mreg 0xC0).getLsbD 3 = false ∧ t.ring = s.ring ∧
        RingOnly s t) ∧
    (s.swap.pend = false →
      ∃ t, exec .swapResume s = .next t ∧ t.swap = { s.swap with resume := true } ∧ (t.mreg 0xC0).getLsbD 3 = true ∧
        t.ring = s.ring ∧ RingOnly s t) ∧
    (s.swap.pend = true →
      (s.swap.paused = false → (s.ringPos = 0 → s.swap.since + planLen s ≤ s.ring.frameNo) →
        (s.ring.store = [] →
          ∃ t, exec .swapPause s = .next t ∧ t.swap.paused = true ∧ t.swap.pend = true ∧ (t.mreg 0xC0).getLsbD 2 = true ∧
            ringStopped t = true ∧ Raised 2 s t ∧ RingOnly s t) ∧
        ∀ x, s.ring.store = [x] → hKind x.header = 0 → hDomain x.header = s.swap.dom → headerValid x.header = true →
          let img := imageSlot s (BitVec.ofNat 64 (field s.swap.source 0 48)) (hSegidx x.header)
          imageOk img.1 x.header (field s.swap.source 48 16) = true →
          ∃ t, exec .swapPause s = .next t ∧ t.swap.paused = true ∧ t.ring.store = replaced s.ring.store x img.1 img.2 ∧
            (monitorCount s = 0 → SlotsKept (fun _ => False) s t)) ∧
      ∃ t, exec .swapResume s = .next t ∧ t.swap.pend = false ∧ t.swap.paused = false ∧
        t.mreg (0x840 + 128 * s.swap.dom) = BitVec.ofNat 64 (field (s.domWord s.swap.dom 9) 0 48) ∧
        (t.mreg 0xC0).getLsbD 0 = false ∧ (t.mreg 0xC0).getLsbD 1 = false ∧ (t.mreg 0xC0).getLsbD 3 = true ∧ RingOnly s t)

/-! ### The host's side: the management window, reset, firmware, the accesses of other packages -/

namespace Sys2Proof.Said

/-- The lines of `n` bytes of the deep store from `a` are logged or need no logging. -/
def Logged (s : State) (a n : Nat) : Prop := ∀ i, i < n → undoFirst s (a + i) = false

/-- The management register at `off` holds `v`, and nothing else is not as before. -/
def MregSet (off : Nat) (v : Word) (s t : State) : Prop :=
  t.mreg off = v ∧ (∀ o, o ≠ off → t.mreg o = s.mreg o) ∧ { t with mgmt := s.mgmt } = s

/-- The registers that a write stores as it stands (22 R440, R441): the image's address and length, the launch queue, the rotation plan,
the key-value table, the owners of the event groups. -/
def plainRegisters : List (BitVec 16) :=
  [0x8, 0x10, 0x40, 0x48, 0x90, 0x248, 0x250, 0x600, 0x608, 0x678, 0x800, 0x808, 0x810, 0x840, 0x848, 0x868, 0x870, 0x878]

/-- Registers that ignore a write: LQHEAD, and offsets that the table does not name (22 R440, R441). -/
def deafRegisters : List (BitVec 16) := [0x28, 0x58, 0x98, 0x260, 0x2F8, 0x300, 0x680, 0x1048, 0x3060, 0x3800, 0xFFF8, 0x9]

/-- Die `d` is the lowest live one. -/
def LowestLive (live : BitVec 4) (d : Nat) : Prop := d < 4 ∧ live.getLsbD d = true ∧ ∀ j, j < d → live.getLsbD j = false

/-- Bytes outside the `n` of the deep store from `a` read as in `s`. -/
def DeepElsewhere (s t : State) (a n : Nat) : Prop := ∀ q, Outside q (.deep a) n → rawRead t q 1 = rawRead s q 1

/-- The second-stage entry of a block as 128 bits. -/
def blockEntry (s : State) (gbn : Nat) : BitVec 128 := BitVec.ofNat 128 (rawRead s (.deep (secondStage s gbn)) 16)

/-- The block's REF is `n`, and the rest of its entry is as before, its reserved bits zero (13 R280, R281). -/
def RefIs (s t : State) (gbn n : Nat) : Prop :=
  kvRef (blockEntry t gbn) = n ∧ (blockEntry t gbn).extractLsb' 0 96 = (blockEntry s gbn).extractLsb' 0 96 ∧
    (blockEntry t gbn).extractLsb' 112 6 = (blockEntry s gbn).extractLsb' 112 6 ∧ (blockEntry t gbn).extractLsb' 118 10 = 2

/-- REF of a block with entry `b` goes to `n`: up by one at a retain (1), down by one at a release (2) that leaves some. -/
def Counts (b : BitVec 128) (op n : Nat) : Prop :=
  (op = 1 ∧ kvRef b < 65535 ∧ n = kvRef b + 1) ∨ (op = 2 ∧ 1 < kvRef b ∧ n = kvRef b - 1)

/-- The block of GBN `gbn` is this package's, allocated for the domain, and its entry can be read (13 R280, R281). -/
def BlockStands (s : State) (dom gbn : Nat) : Prop :=
  gbn < (s.mreg 0x250).toNat ∧ kvValid (blockEntry s gbn) dom = true ∧ secondStage s gbn % 16 = 0 ∧
    metaBad (metaAt s (.deep (secondStage s gbn))) = false

/-- Entry `j` of a command's table stands at `tp`, is valid and names that block in tier 0 of this package (13 R279, 17 R366). -/
def TableNames (s : State) (slot : Nat) (e : JEntry) (j : Nat) (kind : AccKind) (tp gbn : Nat) : Prop :=
  let w := rawRead s (.deep tp) 8
  LeadsTo s slot e kind (e.va + BitVec.ofNat 64 (8 * j)) (.deep tp) ∧ tp % 8 = 0 ∧ tp < 2 ^ 34 ∧ Sound s (.deep tp) ∧
    w / 2 ^ 63 = 1 ∧ w / 2 ^ 56 % 4 = 0 ∧ w / 2 ^ 48 % 256 = s.ringPos ∧ w % 2 ^ 34 = gbn ∧ BlockStands s e.dom gbn

/-- The one key-value command in flight of an own queue is due, and nothing has failed or stopped it. -/
def OwnDue (s : State) (core q slot : Nat) (e : JEntry) : Prop :=
  copyFlight s core q = [(slot, e)] ∧ (s.slot slot).journal = [e] ∧ e.next ≤ s.cycle ∧ e.stop = false ∧ e.err = 0

/-- Where a block's bytes begin (13 R280). -/
def blockBase (b : BitVec 128) : Place :=
  if (b.extractLsb' 116 2).toNat = 0 then .deep ((b.extractLsb' 0 64).toNat % 2 ^ 34) else .host (b.extractLsb' 0 64).toNat

/-- A message of `len` bytes has reached the record `ref` of this package (11 R215, R223, 12 R260, 17 R370): CPTR, s1 and s2 say so; with a
join count it waits for joins and counts nowhere, else it counts in its scope and waits for its event condition or is ready in its home
cluster. No byte outside the record and the buffer at `dst` has changed. -/
def Delivered (s t : State) (ref : RecRef) (handler : Word) (len : Nat) (dst : Nat → Place) : Prop :=
  let pa := ref.pa
  let cl := homeCluster pa
  recGet t pa 4 4 = handler.toNat % 2 ^ 32 ∧ recReg t pa 1 = recReg s pa 3 ∧ recReg t pa 2 = BitVec.ofNat 64 len ∧
    (∀ x, Exists x → Outside x (.deep pa) 64 → (∀ o, o < len → o % 8 = 0 → Outside x (dst o) 8) → rawRead t x 1 = rawRead s x 1) ∧
    (recJoinc s pa ≠ 0 → recState t pa = stWaitJoin ∧ t.clusters = s.clusters ∧ t.scopes = s.scopes) ∧
    (recJoinc s pa = 0 →
      (t.scope (recScope s pa)).live = ((s.scope (recScope s pa)).live + 1) % 2 ^ 24 ∧
      (recEventHolds s cl pa = true → (s.cluster cl).ready.length < 960 →
        recState t pa = stRunning ∧ ∃ e, (t.cluster cl).ready = (s.cluster cl).ready ++ [e] ∧ e.ref = ref ∧ e.fresh = true) ∧
      (recEventHolds s cl pa = false → (s.cluster cl).wait.length < 64 →
        recState t pa = stWaitEv ∧ ∃ e, (t.cluster cl).wait = (s.cluster cl).wait ++ [e] ∧ e.ref = ref))

/-- A record that a message may wake: DORMANT, on no list of suspended strands, at rest, and with a place for it (11 R215, R218). -/
def AwaitsMessage (s : State) (pa : Nat) : Prop :=
  let cl := homeCluster pa
  RecQuiet s pa ∧ recState s pa = stDormant ∧ (∀ e ∈ s.dormant, e.1.pa ≠ pa) ∧
    (recJoinc s pa = 0 →
      if recEventHolds s cl pa = true then (s.cluster cl).ready.length < 960 else (s.cluster cl).wait.length < 64)

/-- The image of the firmware stands in the host's memory with a length that the ROM takes (22 R443), and die 0 has general region and an
undo log for it. -/
def ImageOffered (s : State) : Prop :=
  let n := (s.mreg 0x10).toNat
  n % 64 = 0 ∧ 256 ≤ n ∧ n ≤ 67108864 ∧ s.host.wf = true ∧ s.deep.wf = true ∧ AllQuiet s ∧ s.ringStoreMiB 0 ≤ 3776 ∧
    (s.undo.get 0 {}).lines.length + n / 64 ≤ undoCapacity

/-- No translation of the core's is in error, and none of the page is under way. -/
def WalkQuiet (s : State) (core dom va : Nat) : Prop :=
  (∀ x ∈ (s.core core).utlb ++ (s.cluster (core / 4)).tlb, x.flips = 0) ∧ ∀ w ∈ s.walks, w.covers dom va = false

/-- What a management write does beyond storing its register (22 R440 to R442, R444 to R446, R452 to R458, 11 R228, 12 R246, 13 R270, 20
R411). Bits that no field names are dropped (log entry 89), and FWGO, GRAFT, SWAP and CORECTL read as log entry 85 says: the model's
choices. -/
def RegistersWritten (s : State) : Prop :=
  let write (off : Nat) (v : BitVec 64) := exec (.mgmtRegWrite (BitVec.ofNat 16 off) v) s
  (∀ off ∈ deafRegisters, ∀ v, exec (.mgmtRegWrite off v) s = .next s) ∧
  (∀ v, (v ≠ 4 ∨ field (s.mreg 0) 0 4 ≠ 2 → write 0 v = .next s) ∧
    ∀ d, v = 4 → field (s.mreg 0) 0 4 = 2 → LowestLive s.dispatch.liveDies d →
      ∃ t, write 0 v = .next t ∧ t.dispatch.leader = some d ∧ field (t.mreg 0) 0 4 = 4 ∧ field (t.mreg 0) 4 4 = d ∧
        field (t.mreg 0) 8 4 = s.dispatch.liveDies.toNat ∧ { t with dispatch := s.dispatch, mgmt := s.mgmt } = s) ∧
  (∀ v, (v.getLsbD 0 = false ∨ field (s.mreg 0) 0 4 = 1 → write 0x18 v = .next s) ∧
    (v.getLsbD 0 = true → field (s.mreg 0) 0 4 ≠ 1 → write 0x18 v = exec .fwDownload s)) ∧
  (∀ v, write 0x20 v = exec (.eventsClear v) s) ∧
  (∀ v, ∃ t, write 0x50 v = .next t ∧ MregSet 0x50 (v &&& 0xFFFFFFFF) s t) ∧
  (∀ v, ∃ t, write 0x80 v = .next t ∧ t.mreg 0x80 = v &&& 0x1FFFF ∧ t.ringPos = field v 0 8 ∧ t.ringLen = field v 8 9 ∧
    (t.ring.link .up).silentSince = s.cycle ∧ (t.ring.link .down).silentSince = s.cycle ∧ RingOnly s t) ∧
  (∀ v, (v.getLsbD 0 = false → v.getLsbD 2 = false → write 0x88 v = .next s) ∧
    (v.getLsbD 0 = true → v.getLsbD 2 = false →
      ∃ t, write 0x88 v = .next t ∧ s.ringPos ∈ t.ring.failed ∧ t.ring.latched = true ∧ t.ring.former = s.mreg 0x80 ∧
        (t.mreg 0x88).getLsbD 0 = true ∧ GraftShown t true ∧ Raised 3 s t ∧ RingOnly s t) ∧
    (v.getLsbD 0 = false → v.getLsbD 2 = true → s.cur.pos.toNat = s.ringPos → write 0x88 v = exec .graftRelease s)) ∧
  (∀ v, ∃ t, write 0xC0 v = .next t ∧ t.swap.dom = field v 8 4 ∧ field (t.mreg 0xC0) 8 4 = field v 8 4 ∧ t.ring = s.ring ∧
    (∀ o, o ≠ 0xC0 → o ≠ 0x840 + 128 * field v 8 4 → t.mreg o = s.mreg o) ∧ RingOnly s t ∧
    (v.getLsbD 0 = false → v.getLsbD 3 = false → t.swap = { s.swap with dom := field v 8 4 }) ∧
    (v.getLsbD 0 = true → v.getLsbD 3 = false → s.swap.pend = false →
      t.swap.pend = true ∧ t.swap.source = s.domWord (field v 8 4) 9) ∧
    (v.getLsbD 0 = false → v.getLsbD 3 = true → s.swap.pend = true → t.swap.pend = false ∧ t.swap.paused = false)) ∧
  (∀ v, write 0x100 v = exec (.frameset v) s) ∧
  (∀ v, write 0x180 v = exec (.attestRequest v) s) ∧
  (∀ v, ∃ t, write 0x200 v = .next t ∧ t.stgBase = field v 0 22 ∧ t.mreg 0x200 = v &&& 0x3FFFFF ∧
    { t with mgmt := s.mgmt, regionsSet := s.regionsSet } = s) ∧
  (∀ d v, d < 4 → ∃ t, write (0x208 + 8 * d) v = .next t ∧ t.ringStoreMiB d = v.toNat ∧ t.mreg (0x208 + 8 * d) = v ∧
    { t with mgmt := s.mgmt, regionsSet := s.regionsSet } = s) ∧
  (∀ off v, (off = 0x228 ∨ off = 0x230) → ∃ t, write off v = .next t ∧ t.mreg off = v ∧ t.slipTail = 0 ∧
    { t with mgmt := s.mgmt, slipTail := s.slipTail } = s) ∧
  (∀ off v, (off = 0x238 ∨ off = 0x240) → ∃ t, write off v = .next t ∧ t.mreg off = v ∧ t.skipTail = 0 ∧
    { t with mgmt := s.mgmt, skipTail := s.skipTail } = s) ∧
  (∀ v, ∃ t, write 0x258 v = .next t ∧ MregSet 0x258 (v &&& 0x1FFF) s t) ∧
  (∀ c v, c < 16 → ∃ t, write (0x600 + 8 * c) v = .next t ∧ MregSet (0x600 + 8 * c) v s t) ∧
  (∀ d w v, d < 16 →
    let off := 0x800 + 128 * d + 8 * w
    (w ∈ [0, 1, 2, 8, 9, 13, 14, 15] → ∃ t, write off v = .next t ∧ MregSet off v s t) ∧
    (w = 3 → s.cur.dom.toNat = d → write off v = exec (if v.getLsbD 0 then .frameModeEnable else .frameModeDisable) s) ∧
    (w ∈ [4, 5, 6, 7] → (s.frameMode d = true → write off v = .next s) ∧
      (s.frameMode d = false → ∃ t, write off v = .next t ∧ MregSet off v s t)) ∧
    (w = 10 → (s.frameMode d = true → write off v = .next s) ∧
      (s.frameMode d = false → ∃ t, write off v = .next t ∧ bgen t d = field v 0 16 ∧ t.mreg off = v &&& 0xFFFF ∧
        { t with mgmt := s.mgmt, bgenSet := s.bgenSet } = s)) ∧
    (w ∈ [11, 12] → ∃ t, write off v = .next t ∧ t.mreg off = v ∧ t.kvTails.get d 0 = 0 ∧
      { t with mgmt := s.mgmt, kvTails := s.kvTails } = s)) ∧
  (∀ k w v, k < 64 → w < 8 → ∃ t, write (0x1000 + 128 * k + 8 * w) v = .next t ∧
    (∀ j, j < 8 → (t.core k).owner.get (8 * w + j) 0 = v.extractLsb' (8 * j) 8 &&& 0x1F) ∧ OnlyCore k s t) ∧
  (∀ k v, k < 64 → ∃ t, write (0x1000 + 128 * k + 64) v = .next t ∧ (t.core k).withdraw = v.getLsbD 0 ∧
    (v.getLsbD 1 = false → (t.core k).restart = (s.core k).restart ∧ t.slots = s.slots) ∧
    (v.getLsbD 1 = true → (t.core k).restart = true ∧
      (s.dispatch.liveDies.getLsbD (k / 16) = true → ∀ j, j < 4 → (s.slot (4 * k + j)).halted = true → t.slot (4 * k + j) = {}) ∧
      ∀ j, (s.slot j).halted = false ∨ coreOf j ≠ k → t.slot j = s.slot j) ∧
    (∀ j, j ≠ k → t.core j = s.core j) ∧ { t with cores := s.cores, slots := s.slots } = s) ∧
  (∀ c w v, c < 16 → w < 12 → ∃ t, write (0x3000 + 128 * c + 8 * w) v = .next t ∧
    t.mreg (0x3000 + 128 * c + 8 * w) = v ∧
    (w ≠ 9 → MregSet (0x3000 + 128 * c + 8 * w) v s t) ∧
    (w = 9 → (t.cluster c).saves = (List.range v.toNat).map (fun i =>
      BitVec.ofNat 64 (Mem.readNat s.deep (((s.mreg (0x3000 + 128 * c + 64)).toNat + 8 * i) % 2 ^ 34) 8))))

end Sys2Proof.Said

/-- 02 R40, 11 R215, 13 R276, R278, R281, 17 R370, 20 R442, 22 R440 to R444: a management write stores its register, or changes what it
stands for; EVENTS clears where a one is written. A page walk fills the TLBs. Another package reads, writes and updates this owner's deep
store (its write leaves the line's stamp, log entry 40, the model's reading), resolves, retains and releases a block, and sends a message;
so do this package's own KVGET, KVPUT and MSG (the S bit of a message's record is log entry 51, the model's choice). A power-up reset
leaves the reset state, but a latched graft latched (what it keeps is log entry 45, the model's reading). The ROM copies the image and
checks it, in two steps (log entry 42, the model's reading). An attestation report holds the measurement and the signature over its first
112 bytes. The hash and the curve are those of the published standards, the fused hash and the identity key free values (log entry 7). How
long a W1S bit reads 1 is log entry 85, that bits no field names are dropped log entry 89: the model's choices. -/
def Obligations.HostAndNeighbours : Prop :=
  ∀ (s : State),
    (∀ off ∈ plainRegisters, ∀ v : BitVec 64,
      ∃ t, exec (.mgmtRegWrite off v) s = .next t ∧ MregSet off.toNat v s t) ∧
    RegistersWritten s ∧
    (∀ mask : BitVec 64, ∃ t, exec (.eventsClear mask) s = .next t ∧ MregSet 0x20 (s.mreg 0x20 &&& ~~~mask) s t) ∧
    (∀ va : BitVec 56,
      (va.toNat / 2 ^ 48 = 0xFF →
        (inWindow va.toNat = true → exec (.translationWalk va) s = .next s) ∧
        (inWindow va.toNat = false → exec (.translationWalk va) s = .next (logXlate s s.me 1 (BitVec.setWidth 64 va)))) ∧
      (va.toNat / 2 ^ 48 ≠ 0xFF → ∀ s1,
        WalkQuiet s (coreOf s.me) (s.slot s.me).domain va.toNat →
        (∀ leaf, lookup s (coreOf s.me) (s.slot s.me).domain va.toNat s.me = (s1, .ok leaf) →
          ∃ t, exec (.translationWalk va) s = .next t ∧ leaf ∈ (t.core (coreOf s.me)).utlb ∧ t.walks = s.walks ∧
            (tlbFind (s.core (coreOf s.me)).utlb (s.slot s.me).domain va.toNat = none →
              tlbFind (s.cluster (clusterOf s.me)).tlb (s.slot s.me).domain va.toNat = none →
              leaf ∈ (t.cluster (clusterOf s.me)).tlb) ∧
            { t with cores := s1.cores, clusters := s1.clusters, walks := s1.walks } = s1) ∧
        (∀ reason, lookup s (coreOf s.me) (s.slot s.me).domain va.toNat s.me = (s1, .error reason) →
          exec (.translationWalk va) s = .next (logXlate s1 s.me reason (BitVec.setWidth 64 va)) ∧
            (s1.core (coreOf s.me)).utlb = (s.core (coreOf s.me)).utlb ∧
            (s1.cluster (clusterOf s.me)).tlb = (s.cluster (clusterOf s.me)).tlb))) ∧
    (∀ acc : RemoteAccess, AllQuiet s →
      let n := 2 ^ acc.w.toNat
      let a := acc.pa.toNat / n * n
      let x := rawRead s (.deep a) n
      let d := acc.data.toNat % 2 ^ (8 * n)
      let Stored (v : Nat) : Prop :=
        ∃ t, exec (.tier1RemoteAccess acc) s = .next t ∧ rawRead t (.deep a) n = v ∧ metaAt t (.deep a) = metaAt s (.deep a) ∧
          DeepElsewhere s t a n ∧ SlotsKept (fun _ => False) s t
      Sound s (.deep a) →
      (acc.kind = 0 → exec (.tier1RemoteAccess acc) s = .next s) ∧
      (acc.kind = 1 → Logged s a n → Stored d) ∧
      (acc.kind = 2 → acc.fn.toNat < 12 → n ∈ [4, 8] → Logged s a n →
        Stored (atomicNew acc.fn.toNat (8 * n) x d % 2 ^ (8 * n))) ∧
      (acc.kind = 2 → acc.fn = 12 → n ∈ [4, 8] →
        (x ≠ d → exec (.tier1RemoteAccess acc) s = .next s) ∧
        (x = d → Logged s a n → Stored (acc.data2.toNat % 2 ^ (8 * n))))) ∧
    (∀ (dom : BitVec 4) (gbn : BitVec 34), AllQuiet s → BlockStands s dom.toNat gbn.toNat →
      let pa := secondStage s gbn.toNat
      exec (.kvOwnerLookup (.peer dom gbn 0)) s = .next s ∧
      ∀ (op : BitVec 2) (n : Nat), Counts (blockEntry s gbn.toNat) op.toNat n → Logged s pa 16 →
        ∃ t, exec (.kvOwnerLookup (.peer dom gbn op)) s = .next t ∧ RefIs s t gbn.toNat n ∧ DeepElsewhere s t pa 16 ∧
          SlotsKept (fun _ => False) s t) ∧
    (∀ (core : BitVec 6) (q : BitVec 1) (slot : Nat) (e : JEntry) (tp gbn : Nat), OwnDue s core.toNat q.toNat slot e → AllQuiet s →
      (∀ n, e.fn = 3 → e.chunks < kvEntries e →
        TableNames s slot e (e.vd.toNat + e.chunks) (if e.kvMode = 2 then .write else .read) tp gbn →
        Counts (blockEntry s gbn) e.kvMode n →
        let pa := secondStage s gbn
        Logged s pa 16 → Logged s tp 8 → pa / 64 ≠ tp / 64 →
        ∃ t, exec (.kvOwnerLookup (.own core q)) s = .next t ∧ RefIs s t gbn n ∧
          rawRead t (.deep tp) 8 =
            (if e.kvMode = 2 then rawRead s (.deep tp) 8 &&& 0x03FF0003FFFFFFFF else rawRead s (.deep tp) 8) ∧
          (∀ x, Outside x (.deep pa) 16 → Outside x (.deep tp) 8 → rawRead t x 1 = rawRead s x 1) ∧
          (t.slot slot).journal = [if kvEntries e ≤ e.chunks + 1 then { e with chunks := e.chunks + 1, running := false, finished := true }
            else { e with chunks := e.chunks + 1, next := s.cycle + 1 }] ∧ SlotsKept (· = slot) s t) ∧
      (∀ dst : Nat → Place, e.chunks = 0 → e.first = 0 → e.vb.toNat % 64 + e.kvCount ≤ 64 →
        TableNames s slot e (e.vb.toNat / 64) .read tp gbn →
        let b := blockEntry s gbn
        let p := kvLen b / 64
        let n := p * e.kvCount
        let far (o : Nat) : Place := (blockBase b).plus (p * (e.vb.toNat % 64) + o)
        kvLen b % 512 = 0 → 512 ≤ kvLen b → kvLen b ≤ 2 ^ 20 →
        (∀ o, o < n → o % 8 = 0 → Usable s (far o) ∧ ((far o).stamped = true → Sound s (far o))) →
        (∀ o, o < n → o % 8 = 0 → (dst o).stamped = true → Sound s (dst o)) →
        (∀ o o', o < n → o' < n → o % 8 = 0 → o' % 8 = 0 → (dst o).line ≠ (far o').line) →
        (e.fn = 2 → CopyAt s slot e .write e.dst n dst →
          (∀ o, o < n → o % 8 = 0 → (dst o).stamped = true ∧ stampAllows (metaAt s (dst o)) slot e.dph = true ∧
            (∀ j r, lineStreams (s.role j r) (dst o) = []) ∧ ∀ a, dst o = .deep a → undoFirst s a = false) →
          (∀ o o', o < n → o' < n → o % 8 = 0 → o' % 8 = 0 → o ≠ o' → dst o ≠ dst o') →
          ∃ t homes, exec (.kvOwnerLookup (.own core q)) s = .next t ∧
            (∀ o, o < n → o % 8 = 0 → rawRead t (dst o) 8 = rawRead s (far o) 8 ∧
              metaAt t (dst o) = metaAt s (dst o) ||| 0x800000000#36 ∧ homeAt homes o = some (dst o)) ∧
            (∀ x, Sys2Proof.Said.Exists x → (∀ o, o < n → o % 8 = 0 → Outside x (dst o) 8) → rawRead t x 1 = rawRead s x 1) ∧
            (t.slot slot).journal = [{ e with
              chunks := 1, first := p, marked := n, homes := homes, running := false, finished := true }] ∧
            SlotsKept (· = slot) s t) ∧
        (e.fn = 3 → e.kvMode = 0 → CopyAt s slot e .read e.dst n dst →
          (∀ o, o < n → o % 8 = 0 → (dst o).stamped = true → sourceAllowed slot e s (dst o) = true) →
          (∀ o, o < n → o % 8 = 0 → ∀ a, far o = .deep a → undoFirst s a = false) →
          ∃ t, exec (.kvOwnerLookup (.own core q)) s = .next t ∧
            (∀ o, o < n → o % 8 = 0 → rawRead t (far o) 8 = rawRead s (dst o) 8) ∧
            (∀ x, Sys2Proof.Said.Exists x → (∀ o, o < n → o % 8 = 0 → Outside x (far o) 8) → rawRead t x 1 = rawRead s x 1) ∧
            (t.slot slot).journal = [{ e with chunks := 1, first := p, running := false, finished := true }] ∧
            SlotsKept (· = slot) s t))) ∧
    (∀ (handler va : BitVec 64) (record : BitVec 34) (sup : Bool), AllQuiet s →
      (AwaitsMessage s record.toNat →
        ∃ t, exec (.messageDelivery (.peer handler va record sup [])) s = .next t ∧
          Delivered s t ⟨va, s.cur.dom.toNat, record.toNat, sup⟩ handler 0 (fun _ => .deep record.toNat) ∧
          SlotsKept (fun _ => False) s t) ∧
      (RecQuiet s record.toNat → recState s record.toNat ≠ stDormant →
        ∀ l, exec (.messageDelivery (.peer handler va record sup l)) s = .next s)) ∧
    (∀ (core : BitVec 6) (q : BitVec 1) (slot : Nat) (e : JEntry) (pa : Nat) (src : Nat → Place), OwnDue s core.toNat q.toNat slot e →
      e.fn = 4 → e.chunks = 0 → AllQuiet s → CopyAt s slot e .read e.src e.msgLen src →
      (∀ o, o < e.msgLen → o % 8 = 0 → (src o).stamped = true → Sound s (src o) ∧ sourceAllowed slot e s (src o) = true) →
      LeadsTo s slot e .write e.vb (.deep pa) →
      let done : JEntry := { e with chunks := 1, running := false, finished := true }
      (RecQuiet s pa → recState s pa ≠ stDormant →
        ∃ t, exec (.messageDelivery (.own core q)) s = .next t ∧ (t.slot slot).journal = [{ done with err := 0x0B00 }] ∧
          SlotsKept (· = slot) s t ∧ BytesKept s t) ∧
      (AwaitsMessage s pa → (recReg s pa 4).toNat < e.msgLen →
        ∃ t, exec (.messageDelivery (.own core q)) s = .next t ∧ (t.slot slot).journal = [{ done with err := 0x0C00 }] ∧
          SlotsKept (· = slot) s t ∧ BytesKept s t) ∧
      (∀ dst : Nat → Place, AwaitsMessage s pa → e.msgLen ≤ (recReg s pa 4).toNat →
        (∀ o, o < e.msgLen → o % 8 = 0 →
          let va := (recReg s pa 3 + BitVec.ofNat 64 o).toNat
          let first := 4 * homeCluster pa
          translate s first e.dom va .write true (16 * homeCluster pa) = (s, .ok (dst o)) ∧
            (va / 2 ^ 48 = 0xFF ∨ (tlbFind (s.core first).utlb e.dom va).isSome = true) ∧ Usable s (dst o) ∧
            (dst o).line ≠ .deep pa ∧ ∀ a, dst o = .deep a → undoFirst s a = false) →
        (∀ o o', o < e.msgLen → o' < e.msgLen → o % 8 = 0 → o' % 8 = 0 → o ≠ o' → dst o ≠ dst o') →
        let sup := ((pageEntry s (coreOf slot) e.dom e.vb.toNat).map (fun x => x.leaf.getLsbD 7)).getD false
        ∃ t, exec (.messageDelivery (.own core q)) s = .next t ∧ Delivered s t ⟨e.vb, e.dom, pa, sup⟩ e.vd e.msgLen dst ∧
          (∀ o, o < e.msgLen → o % 8 = 0 → rawRead t (dst o) 8 = rawRead s (src o) 8) ∧ (t.slot slot).journal = [done] ∧
          SlotsKept (· = slot) s t)) ∧
    (let r : State :=
      { State.reset with
        inputs := s.inputs.map (fun e => (e.1 - s.cycle, e.2)), delays := s.delays, freeCount := s.freeCount,
        host := s.host, remote := s.remote, rom := s.rom,
        strikes := s.strikes.map (fun e => { e with cycle := e.cycle - s.cycle }) }
     (s.ring.latched = false → exec .powerUpReset s = .next r) ∧
      (s.ring.latched = true →
        ∃ t, exec .powerUpReset s = .next t ∧
          t.ring = { failed := s.ring.failed, latched := true, former := s.ring.former, paused := true } ∧ t.mreg 0x88 = 2 ∧
          { t with ring := r.ring, mgmt := r.mgmt } = r)) ∧
    (ImageOffered s → field (s.mreg 0) 0 4 = 0 →
      ∃ t, exec .fwDownload s = .next t ∧ t.mreg 0 = 1 ∧ t.mreg 0x18 = 1 ∧
        (∀ i, i < (s.mreg 0x10).toNat → rawRead t (.deep i) 1 = rawRead s (.host ((s.mreg 0x8).toNat + i)) 1) ∧
        (∀ i, (s.mreg 0x10).toNat ≤ i → s.regionOf i ≠ .undo → rawRead t (.deep i) 1 = rawRead s (.deep i) 1) ∧
        SlotsKept (fun _ => False) s t) ∧
    ((field (s.mreg 0) 0 4 = 0 ∨ field (s.mreg 0) 0 4 = 3) →
      ((s.mreg 0x10).toNat % 64 ≠ 0 ∨ (s.mreg 0x10).toNat < 256 ∨ 67108864 < (s.mreg 0x10).toNat) →
      exec .fwDownload s = .next (s.setMreg 0 3)) ∧
    ((field (s.mreg 0) 0 4 = 2 ∨ field (s.mreg 0) 0 4 = 4) → ∃ t, exec .fwDownload s = .next t ∧ MregSet 0x18 1 s t) ∧
    (field (s.mreg 0) 0 4 = 1 →
      (imageAccepted s = true → (s.slot 0).strand = some bootStrand →
        ∃ t, exec .fwDownload s = .next t ∧ field (t.mreg 0) 0 4 = 2 ∧ t.measurement = imageHash s ∧
          (t.role 0 .computer).pc = codeAddr (Mem.readNat t.deep 96 4) 1) ∧
      (imageAccepted s = false →
        ∃ t, exec .fwDownload s = .next t ∧ t.mreg 0 = 3 ∧ t.mreg 0x18 = 0 ∧ { t with mgmt := s.mgmt } = s)) ∧
    (∀ a : BitVec 64, AllQuiet s → a.toNat + 208 ≤ 2 ^ 34 → Logged s a.toNat 208 →
      ∃ t, exec (.attestRequest a) s = .next t ∧ t.mreg 0x180 = 0 ∧
        (∀ i, i < 48 → rawRead t (.deep (a.toNat + 64 + i)) 1 = s.measurement.toNat / 256 ^ (47 - i) % 256) ∧
        (let sig := identitySign (sha384 ((List.range 112).map (fun i => t.deep.byte (a.toNat + i))))
         ∀ i, i < 96 → rawRead t (.deep (a.toNat + 112 + i)) 1 = sig.toNat / 256 ^ (95 - i) % 256) ∧
        (∀ i, i < 64 → rawRead t (.deep (a.toNat + i)) 1 = rawRead s (.deep (a.toNat + i)) 1) ∧
        (∀ i, i < a.toNat ∨ a.toNat + 208 ≤ i → rawRead t (.deep i) 1 = rawRead s (.deep i) 1) ∧
        SlotsKept (fun _ => False) s t)

/-! ### Dispatchers and launches -/

namespace Sys2Proof.Said

/-- Nothing but the launches and the dispatchers is not as before. -/
def LaunchOnly (s t : State) : Prop := { t with launches := s.launches, dispatch := s.dispatch } = s

/-- The queue holds a record, a leader is elected, and the record's bytes are `raw` (22 R447). -/
def NextRecord (s : State) (raw : BitVec 512) : Prop :=
  s.mreg 0x58 ≠ s.mreg 0x50 ∧ s.mreg 0x48 ≠ 0 ∧ s.dispatch.leader ≠ none ∧
    raw = BitVec.ofNat 512 (Mem.readNat s.host ((s.mreg 0x40).toNat + 64 * ((s.mreg 0x58).toNat % (s.mreg 0x48).toNat)) 64)

/-- The die that a failure takes: the leader's; or the context's where it is live and does not lead, else the mirror's. -/
def Fails (s : State) (i : Instr) (gone : Nat) : Prop :=
  (i = .leaderFailover ∧ s.dispatch.leader = some gone) ∨
    (i = .mirrorDieFailure ∧
      ((gone = dieOf s.me ∧ dieLive s gone = true ∧ s.dispatch.leader ≠ some gone) ∨
        ((dieLive s (dieOf s.me) = false ∨ s.dispatch.leader = some (dieOf s.me)) ∧ s.dispatch.mirrorDie = some gone)))

/-- A launch's record stands on die `d`: in a slot or a list of its clusters, else where it was granted (11 R232, R233, 22 R446). -/
def StandsOn (s : State) (r : Nat × Nat) (d : Nat) : Prop := (dieHolding s r.1).getD r.2 = d

/-- The record at `pa` is an index of launch `x`, of the number that grant `g` has reached (22 R447, R448). -/
def Indexed (s1 t : State) (x : Launch) (g : Grant) (pa : Nat) : Prop :=
  t.dispatch.mirror = [] ∧ recReg t pa 1 = BitVec.ofNat 64 (g.first + g.done) ∧
    recGet t pa 4 4 = x.template.toNat / 2 ^ 32 % 2 ^ 32 ∧ t.launches = [{ x with records := x.records ++ [(pa, g.die)] }] ∧
    SlotsKept (fun _ => False) s1 t

end Sys2Proof.Said

/-- 22 R442, R445 to R448, 11 R215, R217, R223: the lowest live die leads; with a die gone, its slots are out of service, what ran there
is lost to its launch, and the lowest die left leads. A launch record is read in its turn, and a malformed one completes with status 1; a
leader grants at most 64 indices at a time to the die chosen (log entry 36), of a launch that has lost some too; an index takes a FREE
entry of its pool and runs from its cluster's ready or spill queue, or waits for its joins; a finished launch leaves its completion
record, and EVENTS[4]. A core that restarts has its halted slots back as after reset. That a failed die's slots stay empty and halted and
that its strands' records count as lost is the model's reading (log entry 43). -/
def Obligations.LaunchesAndDispatch : Prop :=
  ∀ (s : State),
    (∀ d, field (s.mreg 0) 0 4 = 4 → LowestLive s.dispatch.liveDies d →
      ∃ t, exec .dispatcherElection s = .next t ∧ t.dispatch.leader = some d ∧ field (t.mreg 0) 4 4 = d ∧
        field (t.mreg 0) 0 4 = 4 ∧ t.dispatch.liveDies = s.dispatch.liveDies ∧
        (∀ m, t.dispatch.mirrorDie = some m → m ≠ d ∧ s.dispatch.liveDies.getLsbD m = true) ∧
        { t with dispatch := s.dispatch, mgmt := s.mgmt } = s) ∧
    (∀ gone d i, gone < 4 → LowestLive (s.dispatch.liveDies &&& ~~~(1#4 <<< gone)) d → Fails s i gone →
        ∃ t, exec i s = .next t ∧ t.dispatch.leader = some d ∧
          t.dispatch.liveDies = s.dispatch.liveDies &&& ~~~(1#4 <<< gone) ∧
          (∀ j, j < 64 → (t.slot (64 * gone + j)).strand = none ∧ (t.slot (64 * gone + j)).halted = true) ∧
          (∀ k, k / 64 ≠ gone → t.slot k = s.slot k) ∧ StoresKept s t ∧
          (∀ x, s.launches = [x] → (∃ r ∈ x.records, StandsOn s r gone) →
            ∃ y, t.launches = [y] ∧ y.id = x.id ∧ y.next = x.next ∧ y.status = (if x.status = 0 then 3 else x.status) ∧
              x.lost < y.lost ∧ ∀ r, r ∈ y.records ↔ r ∈ x.records ∧ ¬ StandsOn s r gone)) ∧
    (∀ raw, NextRecord s raw →
      (launchFieldsOk s ⟨raw⟩ = false →
        ∃ t l, exec .launchRecordRead s = .next t ∧ t.launches = s.launches ++ [l] ∧ l.status = 1 ∧ l.records = [] ∧
          t.mreg 0x58 = BitVec.ofNat 64 (((s.mreg 0x58).toNat + 1) % 2 ^ 32) ∧ SlotsKept (fun _ => False) s t ∧ StoresKept s t) ∧
      (∀ s0 s1 text0 text, launchFieldsOk s ⟨raw⟩ = true → LaunchRec.field ⟨raw⟩ 13 1 % 2 = 0 → LaunchRec.field ⟨raw⟩ 40 4 = 0 →
        readTemplate { s with seqNo := s.seqNo + 1 } (LaunchRec.field ⟨raw⟩ 12 1) (LaunchRec.field ⟨raw⟩ 0 8)
          (decide (LaunchRec.field ⟨raw⟩ 13 1 / 2 = 1)) = (s0, some text0) →
        readTemplate s0 (LaunchRec.field ⟨raw⟩ 12 1) (LaunchRec.field ⟨raw⟩ 0 8)
          (decide (LaunchRec.field ⟨raw⟩ 13 1 / 2 = 1)) = (s1, some text) →
        ∃ t l, exec .launchRecordRead s = .next t ∧ t.launches = s1.launches ++ [l] ∧ l.status = 0 ∧ l.template = text ∧
          l.nidx = LaunchRec.field ⟨raw⟩ 8 4 ∧ l.next = 0 ∧ l.cookie.toNat = LaunchRec.field ⟨raw⟩ 56 8 ∧
          t.mreg 0x58 = BitVec.ofNat 64 (((s1.mreg 0x58).toNat + 1) % 2 ^ 32))) ∧
    (∀ l r x die c, s.launches = l ++ x :: r → (∀ y ∈ l, y.spawns = false ∨ y.nidx ≤ y.next) → x.status ≠ 1 → x.status ≠ 2 →
      x.next < x.nidx →
      s.dispatch.leader ≠ none → grantDie s = some (die, c) → (∀ y ∈ l ++ r, y.id ≠ x.id) →
      ∃ t, exec .indexGrant s = .next t ∧
        t.dispatch.mirror =
          s.dispatch.mirror ++ [⟨x.id, x.next, Nat.min 64 (x.nidx - x.next), 0, die, c, false, s.cycle⟩] ∧
        t.launches = l ++ { x with next := x.next + Nat.min 64 (x.nidx - x.next) } :: r ∧ LaunchOnly s t) ∧
    (∀ g, s.dispatch.mirror = [g] → g.retryAt ≤ s.cycle → g.acked = false → s.dispatch.liveDies = 0 →
      ∃ t, exec .launchPoolRetry s = .next t ∧ t.dispatch.mirror = [{ g with retryAt := s.cycle + 1024 }] ∧ LaunchOnly s t) ∧
    (∀ g x s1 pa leaf, s.dispatch.mirror = [g] → g.retryAt ≤ s.cycle → (g.acked = true ∨ dieLive s g.die = true) →
      s.launches = [x] → x.id = g.launch →
      indexKept s x = false → hwDeep s x.dom (poolEntry s x) .write true = (s1, some (pa, leaf)) → AllQuiet s1 →
      RecQuiet s1 pa →
      let cl := g.cluster
      let ref : RecRef := ⟨BitVec.ofNat 64 (poolEntry s x), x.dom, pa, leaf.leaf.getLsbD 7⟩
      let c := x.template.toNat / 2 ^ 96 % 2 ^ 14
      let joinc := x.template.toNat / 2 ^ 128 % 2 ^ 16
      (recState s1 pa ≠ stFree →
        ∃ t, exec .launchPoolRetry s = .next t ∧
          t.dispatch.mirror = [{ g with acked := true, retryAt := s.cycle + 1024 }] ∧ LaunchOnly s1 t) ∧
      (recState s1 pa = stFree → g.done + 1 = g.count → scopeDead s1 c = false →
        (joinc ≠ 0 →
          ∃ t, exec .launchPoolRetry s = .next t ∧ Indexed s1 t x g pa ∧ recState t pa = stWaitJoin ∧ DeepElsewhere s1 t pa 64) ∧
        (joinc = 0 →
          eventHolds (eventGroup s1 cl (x.template.toNat / 2 ^ 160 % 2 ^ 8 / 16)) (BitVec.ofNat 16 (x.template.toNat / 2 ^ 144)) = true →
          ((s1.cluster cl).ready.length < 960 →
            ∃ t e, exec .launchPoolRetry s = .next t ∧ Indexed s1 t x g pa ∧ recState t pa = stRunning ∧
              DeepElsewhere s1 t pa 64 ∧ (t.cluster cl).ready = (s1.cluster cl).ready ++ [e] ∧ e.ref = ref ∧ e.fresh = true ∧
              (t.scope c).live = ((s1.scope c).live + 1) % 2 ^ 24) ∧
          (∀ a, 960 ≤ (s1.cluster cl).ready.length → (s1.cluster cl).spill.length < (s1.clusterWord cl 1).toNat →
            listTail s1 cl 0 = some (.deep a) → a % 8 = 0 → a / 64 ≠ pa / 64 → undoFirst s1 a = false →
            ∃ t e, exec .launchPoolRetry s = .next t ∧ Indexed s1 t x g pa ∧ recState t pa = stRunning ∧
              rawRead t (.deep a) 8 = poolEntry s x % 2 ^ 64 ∧ (t.cluster cl).spill = (s1.cluster cl).spill ++ [e] ∧
              e.ref = ref ∧ e.fresh = true ∧ (t.cluster cl).ready = (s1.cluster cl).ready)))) ∧
    (∀ l r x, s.launches = l ++ x :: r → (∀ y ∈ l, launchOver s y = false) → (∀ y ∈ l ++ r, y.id ≠ x.id) →
      (x.status = 1 ∨ x.status = 2 ∨ x.nidx ≤ x.next ∧ x.records = [] ∧ ∀ g ∈ s.dispatch.mirror, g.launch ≠ x.id) →
      x.status < 2 ^ 32 →
      ∃ t, exec .launchCompletion s = .next t ∧ t.launches = l ++ r ∧ Raised 4 s t ∧
        Mem.readNat t.host x.compl 8 = x.cookie.toNat ∧ Mem.readNat t.host (x.compl + 8) 4 = x.status ∧
        Mem.readNat t.host (x.compl + 12) 4 = x.lost % 2 ^ 32 ∧
        (∀ a, a < x.compl ∨ x.compl + 16 ≤ a → t.host.byte a = s.host.byte a) ∧
        { t with launches := s.launches, mgmt := s.mgmt, host := s.host } = s) ∧
    (s.dispatch.liveDies.getLsbD (coreOf s.me / 16) = true →
      ∃ t, exec .coreRestart s = .next t ∧
        (∀ j, j < 4 → (s.slot (4 * coreOf s.me + j)).halted = true → t.slot (4 * coreOf s.me + j) = {}) ∧
        (∀ k, (s.slot k).halted = false ∨ coreOf k ≠ coreOf s.me → t.slot k = s.slot k) ∧ { t with slots := s.slots } = s)
end

