-- ==== Sys2Proof/Laws/Sparse.lean ====
section
/-! SUPPORT. The laws of sparse arrays and of memories: a read after a write, and the canonical form that every operation
keeps. -/

namespace Sys2Proof

namespace Sp

variable {α : Type}

@[simp] theorem get_nil (k : Nat) (d : α) : Sp.get [] k d = d := rfl

@[simp] theorem get_set_self (m : Sp α) (k : Nat) (v d : α) : (m.set k v).get k d = v := by
  induction m with
  | nil => simp [set, get]
  | cons e r ih =>
    obtain ⟨j, w⟩ := e
    simp only [set]
    split_ifs with h1 h2
    · simp [get]
    · simp [get]
    · simp [get, h2, ih]

theorem get_set_ne (m : Sp α) {k i : Nat} (h : i ≠ k) (v d : α) : (m.set k v).get i d = m.get i d := by
  induction m with
  | nil => simp [set, get, h]
  | cons e r ih =>
    obtain ⟨j, w⟩ := e
    simp only [set]
    split_ifs with h1 h2
    · simp [get, h]
    · subst h2; simp [get, h]
    · simp [get, ih]

theorem get_set (m : Sp α) (k i : Nat) (v d : α) : (m.set k v).get i d = if i = k then v else m.get i d := by
  split_ifs with h
  · subst h; simp
  · exact get_set_ne m h v d

@[simp] theorem get_del_self (m : Sp α) (k : Nat) (d : α) : (m.del k).get k d = d := by
  induction m with
  | nil => rfl
  | cons e r ih =>
    obtain ⟨j, w⟩ := e
    simp only [del]
    split_ifs with h
    · exact ih
    · simp [get, h, ih]

theorem get_del_ne (m : Sp α) {k i : Nat} (h : i ≠ k) (d : α) : (m.del k).get i d = m.get i d := by
  induction m with
  | nil => rfl
  | cons e r ih =>
    obtain ⟨j, w⟩ := e
    simp only [del]
    split_ifs with h1
    · subst h1; simp [get, h, ih]
    · simp [get, ih]

theorem get_put [DecidableEq α] (m : Sp α) (k i : Nat) (v d : α) :
    (m.put k v d).get i d = if i = k then v else m.get i d := by
  unfold put
  split_ifs with h1 h2 h2
  · subst h1 h2; simp
  · exact get_del_ne m h2 d
  · subst h2; simp
  · exact get_set_ne m h2 v d

@[simp] theorem get_put_self [DecidableEq α] (m : Sp α) (k : Nat) (v d : α) : (m.put k v d).get k d = v := by
  simp [get_put]

theorem get_put_ne [DecidableEq α] (m : Sp α) {k i : Nat} (h : i ≠ k) (v d : α) :
    (m.put k v d).get i d = m.get i d := by simp [get_put, h]

/-! ### The canonical form -/

theorem risingFrom_mono (m : Sp α) {a b : Nat} (h : a ≤ b) (hb : m.risingFrom b = true) : m.risingFrom a = true := by
  cases m with
  | nil => rfl
  | cons e r =>
    obtain ⟨j, w⟩ := e
    simp only [risingFrom, Bool.and_eq_true, decide_eq_true_eq] at hb ⊢
    exact ⟨by omega, hb.2⟩

theorem risingFrom_set (m : Sp α) (k lo : Nat) (v : α) (hk : lo ≤ k) (h : m.risingFrom lo = true) :
    (m.set k v).risingFrom lo = true := by
  induction m generalizing lo with
  | nil => simp [set, risingFrom, hk]
  | cons e r ih =>
    obtain ⟨j, w⟩ := e
    simp only [risingFrom, Bool.and_eq_true, decide_eq_true_eq] at h
    simp only [set]
    split_ifs with h1 h2
    · simp [risingFrom, hk, h.2]; omega
    · subst h2; simp [risingFrom, h.1, h.2]
    · simp only [risingFrom, Bool.and_eq_true, decide_eq_true_eq]
      exact ⟨h.1, ih (j + 1) (by omega) h.2⟩

theorem risingFrom_del (m : Sp α) (k lo : Nat) (h : m.risingFrom lo = true) : (m.del k).risingFrom lo = true := by
  induction m generalizing lo with
  | nil => rfl
  | cons e r ih =>
    obtain ⟨j, w⟩ := e
    simp only [risingFrom, Bool.and_eq_true, decide_eq_true_eq] at h
    simp only [del]
    split_ifs with h1
    · exact risingFrom_mono _ (by omega) (ih (j + 1) h.2)
    · simp only [risingFrom, Bool.and_eq_true, decide_eq_true_eq]
      exact ⟨h.1, ih (j + 1) h.2⟩

theorem mem_set {m : Sp α} {k : Nat} {v : α} {e : Nat × α} (h : e ∈ m.set k v) : e = (k, v) ∨ e ∈ m := by
  induction m with
  | nil => simpa [set] using h
  | cons x r ih =>
    obtain ⟨j, w⟩ := x
    simp only [set] at h
    split_ifs at h with h1 h2
    · simpa using h
    · simp only [List.mem_cons] at h ⊢; tauto
    · simp only [List.mem_cons] at h ⊢
      rcases h with h | h
      · exact .inr (.inl h)
      · rcases ih h with h | h
        · exact .inl h
        · exact .inr (.inr h)

theorem mem_del {m : Sp α} {k : Nat} {e : Nat × α} (h : e ∈ m.del k) : e ∈ m := by
  induction m with
  | nil => simp [del] at h
  | cons x r ih =>
    obtain ⟨j, w⟩ := x
    simp only [del] at h
    split_ifs at h with h1
    · exact List.mem_cons_of_mem _ (ih h)
    · simp only [List.mem_cons] at h ⊢
      exact h.imp id ih

theorem wf_iff [DecidableEq α] (m : Sp α) (d : α) :
    m.wf d = true ↔ m.risingFrom 0 = true ∧ ∀ e ∈ m, e.2 ≠ d := by
  simp [wf]

theorem wf_put [DecidableEq α] (m : Sp α) (k : Nat) (v d : α) (h : m.wf d = true) : (m.put k v d).wf d = true := by
  rw [wf_iff] at h ⊢
  unfold put
  split_ifs with hv
  · exact ⟨risingFrom_del m k 0 h.1, fun e he => h.2 e (mem_del he)⟩
  · refine ⟨risingFrom_set m k 0 v (by omega) h.1, fun e he => ?_⟩
    rcases mem_set he with rfl | he
    · exact hv
    · exact h.2 e he

/-- Below every listed key the array reads its default. -/
theorem get_of_lt (m : Sp α) {lo k : Nat} (d : α) (h : m.risingFrom lo = true) (hk : k < lo) : m.get k d = d := by
  induction m generalizing lo with
  | nil => rfl
  | cons e r ih =>
    obtain ⟨j, w⟩ := e
    simp only [risingFrom, Bool.and_eq_true, decide_eq_true_eq] at h
    have : k ≠ j := by omega
    simp only [get, this, if_false]
    exact ih h.2 (by omega)

/-- Two canonical arrays that read alike are equal data. -/
theorem wf_ext [DecidableEq α] (m n : Sp α) (d : α) (hm : m.wf d = true) (hn : n.wf d = true)
    (h : ∀ k, m.get k d = n.get k d) : m = n := by
  rw [wf_iff] at hm hn
  obtain ⟨hm1, hm2⟩ := hm
  obtain ⟨hn1, hn2⟩ := hn
  generalize 0 = lo at hm1 hn1
  induction m generalizing n lo with
  | nil =>
    cases n with
    | nil => rfl
    | cons e r => exact absurd (by simpa [get] using (h e.1).symm) (hn2 e (by simp))
  | cons e r ih =>
    cases n with
    | nil => exact absurd (by simpa [get] using h e.1) (hm2 e (by simp))
    | cons f q =>
      obtain ⟨j, w⟩ := e
      obtain ⟨i, v⟩ := f
      simp only [risingFrom, Bool.and_eq_true, decide_eq_true_eq] at hm1 hn1
      have hij : j = i := by
        by_contra hne
        rcases Nat.lt_or_gt_of_ne hne with hlt | hlt
        · have := h j
          simp only [get, if_neg hne, get_of_lt q d hn1.2 (by omega : j < i + 1)] at this
          exact hm2 (j, w) (by simp) this
        · have := h i
          simp only [get, if_neg (Ne.symm hne), get_of_lt r d hm1.2 (by omega : i < j + 1)] at this
          exact hn2 (i, v) (by simp) this.symm
      subst hij
      have hw : w = v := by simpa [get] using h j
      subst hw
      have hr : r = q := by
        refine ih q (fun k => ?_) (fun e he => hm2 e (List.mem_cons_of_mem _ he))
          (fun e he => hn2 e (List.mem_cons_of_mem _ he)) (j + 1) hm1.2 hn1.2
        by_cases hk : k = j
        · subst hk; rw [get_of_lt r d hm1.2 (by omega), get_of_lt q d hn1.2 (by omega)]
        · simpa [get, hk] using h k
      rw [hr]

end Sp

namespace Mem

@[simp] theorem byte_setByte_self (m : Mem) (a : Nat) (b : Byte) : (m.setByte a b).byte a = b :=
  Sp.get_put_self (α := Byte) m a b 0

theorem byte_setByte_ne (m : Mem) {a i : Nat} (h : i ≠ a) (b : Byte) : (m.setByte a b).byte i = m.byte i :=
  Sp.get_put_ne (α := Byte) m h b 0

theorem wf_setByte (m : Mem) (a : Nat) (b : Byte) (h : m.wf = true) : (m.setByte a b).wf = true :=
  Sp.wf_put (α := Byte) m a b 0 h

theorem wf_writeNat (m : Mem) (a n v : Nat) (h : m.wf = true) : (m.writeNat a n v).wf = true := by
  induction n generalizing m a v with
  | zero => exact h
  | succ k ih => exact ih _ _ _ (wf_setByte m a _ h)

/-- A store leaves every byte outside it. -/
theorem byte_writeNat_outside (m : Mem) (a n v i : Nat) (h : i < a ∨ a + n ≤ i) : (m.writeNat a n v).byte i = m.byte i := by
  induction n generalizing m a v with
  | zero => rfl
  | succ k ih =>
    simp only [writeNat]
    rw [ih _ _ _ (by omega), byte_setByte_ne m (by omega)]

/-- A byte of a store reads as the byte stored. -/
theorem byte_writeNat_inside (m : Mem) (a n v i : Nat) (h : i < n) :
    (m.writeNat a n v).byte (a + i) = BitVec.ofNat 8 (v / 256 ^ i) := by
  induction n generalizing m a v i with
  | zero => omega
  | succ k ih =>
    simp only [writeNat]
    cases i with
    | zero => rw [Nat.add_zero, byte_writeNat_outside _ _ _ _ _ (by omega)]; simp
    | succ j =>
      have := ih (m.setByte a (BitVec.ofNat 8 v)) (a + 1) (v / 256) j (by omega)
      rw [show a + (j + 1) = a + 1 + j by omega, this, Nat.pow_succ, Nat.mul_comm, Nat.div_div_eq_div_mul]

theorem readNat_lt (m : Mem) (a n : Nat) : m.readNat a n < 256 ^ n := by
  induction n generalizing a with
  | zero => simp [readNat]
  | succ k ih =>
    simp only [readNat]
    have h1 := (m.byte a).isLt
    have h2 := ih (a + 1)
    rw [Nat.pow_succ]
    omega

/-- A read after a store to the same bytes gives the value stored. -/
theorem readNat_writeNat (m : Mem) (a n v : Nat) : (m.writeNat a n v).readNat a n = v % 256 ^ n := by
  have key : ∀ (n : Nat) (w : Mem) (a v : Nat), (∀ i, i < n → w.byte (a + i) = BitVec.ofNat 8 (v / 256 ^ i)) →
      w.readNat a n = v % 256 ^ n := by
    intro n
    induction n with
    | zero => intro w a v _; simp [readNat, Nat.mod_one]
    | succ k ih =>
      intro w a v h
      have h0 := h 0 (by omega)
      have hr := ih w (a + 1) (v / 256) (fun i hi => by
        have := h (i + 1) (by omega)
        rw [show a + (i + 1) = a + 1 + i by omega] at this
        rw [this, Nat.pow_succ, Nat.mul_comm, Nat.div_div_eq_div_mul])
      simp only [readNat]
      rw [hr]
      simp only [Nat.add_zero, Nat.pow_zero, Nat.div_one] at h0
      rw [h0, Nat.pow_succ, Nat.mul_comm (256 ^ k) 256, Nat.mod_mul]
      simp
  exact key n _ a v (fun i hi => byte_writeNat_inside m a n v i hi)

/-- A read outside a store gives what it gave before. -/
theorem readNat_writeNat_outside (m : Mem) (a n v b k : Nat) (h : b + k ≤ a ∨ a + n ≤ b) :
    (m.writeNat a n v).readNat b k = m.readNat b k := by
  induction k generalizing b with
  | zero => rfl
  | succ j ih => simp only [readNat]; rw [ih (b + 1) (by omega), byte_writeNat_outside _ _ _ _ _ (by omega)]

end Mem

end Sys2Proof
end

