-- ==== Sys2Proof/Laws/State.lean ====
section
/-! SUPPORT. One law per field per update of the state, of a slot and of a role context, and the reads of a slot, core, cluster and
management register after each update. -/

namespace Sys2Proof.Machine

/-! ### The state's fields under each update -/

@[simp] theorem State.setSlot_cycle (s : State) (k : Nat) (x : Slot) : (s.setSlot k x).cycle = s.cycle := rfl
@[simp] theorem State.setSlot_agenda (s : State) (k : Nat) (x : Slot) : (s.setSlot k x).agenda = s.agenda := rfl
@[simp] theorem State.setSlot_inputs (s : State) (k : Nat) (x : Slot) : (s.setSlot k x).inputs = s.inputs := rfl
@[simp] theorem State.setSlot_delays (s : State) (k : Nat) (x : Slot) : (s.setSlot k x).delays = s.delays := rfl
@[simp] theorem State.setSlot_freeCount (s : State) (k : Nat) (x : Slot) : (s.setSlot k x).freeCount = s.freeCount := rfl
@[simp] theorem State.setSlot_seqNo (s : State) (k : Nat) (x : Slot) : (s.setSlot k x).seqNo = s.seqNo := rfl
@[simp] theorem State.setSlot_cur (s : State) (k : Nat) (x : Slot) : (s.setSlot k x).cur = s.cur := rfl
@[simp] theorem State.setSlot_issued (s : State) (k : Nat) (x : Slot) : (s.setSlot k x).issued = s.issued := rfl
@[simp] theorem State.setSlot_powered (s : State) (k : Nat) (x : Slot) : (s.setSlot k x).powered = s.powered := rfl
@[simp] theorem State.setSlot_cores (s : State) (k : Nat) (x : Slot) : (s.setSlot k x).cores = s.cores := rfl
@[simp] theorem State.setSlot_clusters (s : State) (k : Nat) (x : Slot) : (s.setSlot k x).clusters = s.clusters := rfl
@[simp] theorem State.setSlot_deep (s : State) (k : Nat) (x : Slot) : (s.setSlot k x).deep = s.deep := rfl
@[simp] theorem State.setSlot_deepMeta (s : State) (k : Nat) (x : Slot) : (s.setSlot k x).deepMeta = s.deepMeta := rfl
@[simp] theorem State.setSlot_deepErr (s : State) (k : Nat) (x : Slot) : (s.setSlot k x).deepErr = s.deepErr := rfl
@[simp] theorem State.setSlot_host (s : State) (k : Nat) (x : Slot) : (s.setSlot k x).host = s.host := rfl
@[simp] theorem State.setSlot_remote (s : State) (k : Nat) (x : Slot) : (s.setSlot k x).remote = s.remote := rfl
@[simp] theorem State.setSlot_rom (s : State) (k : Nat) (x : Slot) : (s.setSlot k x).rom = s.rom := rfl
@[simp] theorem State.setSlot_windowBase (s : State) (k : Nat) (x : Slot) : (s.setSlot k x).windowBase = s.windowBase := rfl
@[simp] theorem State.setSlot_mgmt (s : State) (k : Nat) (x : Slot) : (s.setSlot k x).mgmt = s.mgmt := rfl
@[simp] theorem State.setSlot_measurement (s : State) (k : Nat) (x : Slot) : (s.setSlot k x).measurement = s.measurement := rfl
@[simp] theorem State.setSlot_vcc (s : State) (k : Nat) (x : Slot) : (s.setSlot k x).vcc = s.vcc := rfl
@[simp] theorem State.setSlot_ticks (s : State) (k : Nat) (x : Slot) : (s.setSlot k x).ticks = s.ticks := rfl
@[simp] theorem State.setSlot_holdsVcc (s : State) (k : Nat) (x : Slot) : (s.setSlot k x).holdsVcc = s.holdsVcc := rfl
@[simp] theorem State.setSlot_frameCtr (s : State) (k : Nat) (x : Slot) : (s.setSlot k x).frameCtr = s.frameCtr := rfl
@[simp] theorem State.setSlot_frame (s : State) (k : Nat) (x : Slot) : (s.setSlot k x).frame = s.frame := rfl
@[simp] theorem State.setSlot_slips (s : State) (k : Nat) (x : Slot) : (s.setSlot k x).slips = s.slips := rfl
@[simp] theorem State.setSlot_slipTail (s : State) (k : Nat) (x : Slot) : (s.setSlot k x).slipTail = s.slipTail := rfl
@[simp] theorem State.setSlot_skipTail (s : State) (k : Nat) (x : Slot) : (s.setSlot k x).skipTail = s.skipTail := rfl
@[simp] theorem State.setSlot_kvTails (s : State) (k : Nat) (x : Slot) : (s.setSlot k x).kvTails = s.kvTails := rfl
@[simp] theorem State.setSlot_slipping (s : State) (k : Nat) (x : Slot) : (s.setSlot k x).slipping = s.slipping := rfl
@[simp] theorem State.setSlot_bufs (s : State) (k : Nat) (x : Slot) : (s.setSlot k x).bufs = s.bufs := rfl
@[simp] theorem State.setSlot_segs (s : State) (k : Nat) (x : Slot) : (s.setSlot k x).segs = s.segs := rfl
@[simp] theorem State.setSlot_lastHeader (s : State) (k : Nat) (x : Slot) : (s.setSlot k x).lastHeader = s.lastHeader := rfl
@[simp] theorem State.setSlot_anyHeader (s : State) (k : Nat) (x : Slot) : (s.setSlot k x).anyHeader = s.anyHeader := rfl
@[simp] theorem State.setSlot_codeTabs (s : State) (k : Nat) (x : Slot) : (s.setSlot k x).codeTabs = s.codeTabs := rfl
@[simp] theorem State.setSlot_parks (s : State) (k : Nat) (x : Slot) : (s.setSlot k x).parks = s.parks := rfl
@[simp] theorem State.setSlot_scopes (s : State) (k : Nat) (x : Slot) : (s.setSlot k x).scopes = s.scopes := rfl
@[simp] theorem State.setSlot_phasers (s : State) (k : Nat) (x : Slot) : (s.setSlot k x).phasers = s.phasers := rfl
@[simp] theorem State.setSlot_members (s : State) (k : Nat) (x : Slot) : (s.setSlot k x).members = s.members := rfl
@[simp] theorem State.setSlot_phWait (s : State) (k : Nat) (x : Slot) : (s.setSlot k x).phWait = s.phWait := rfl
@[simp] theorem State.setSlot_dormant (s : State) (k : Nat) (x : Slot) : (s.setSlot k x).dormant = s.dormant := rfl
@[simp] theorem State.setSlot_ring (s : State) (k : Nat) (x : Slot) : (s.setSlot k x).ring = s.ring := rfl
@[simp] theorem State.setSlot_swap (s : State) (k : Nat) (x : Slot) : (s.setSlot k x).swap = s.swap := rfl
@[simp] theorem State.setSlot_dispatch (s : State) (k : Nat) (x : Slot) : (s.setSlot k x).dispatch = s.dispatch := rfl
@[simp] theorem State.setSlot_launches (s : State) (k : Nat) (x : Slot) : (s.setSlot k x).launches = s.launches := rfl
@[simp] theorem State.setSlot_cursors (s : State) (k : Nat) (x : Slot) : (s.setSlot k x).cursors = s.cursors := rfl
@[simp] theorem State.setSlot_snap (s : State) (k : Nat) (x : Slot) : (s.setSlot k x).snap = s.snap := rfl
@[simp] theorem State.setSlot_snapAt (s : State) (k : Nat) (x : Slot) : (s.setSlot k x).snapAt = s.snapAt := rfl
@[simp] theorem State.setSlot_snapRegs (s : State) (k : Nat) (x : Slot) : (s.setSlot k x).snapRegs = s.snapRegs := rfl
@[simp] theorem State.setSlot_undo (s : State) (k : Nat) (x : Slot) : (s.setSlot k x).undo = s.undo := rfl
@[simp] theorem State.setSlot_interval (s : State) (k : Nat) (x : Slot) : (s.setSlot k x).interval = s.interval := rfl
@[simp] theorem State.setSlot_scrubbed (s : State) (k : Nat) (x : Slot) : (s.setSlot k x).scrubbed = s.scrubbed := rfl
@[simp] theorem State.setSlot_stalled (s : State) (k : Nat) (x : Slot) : (s.setSlot k x).stalled = s.stalled := rfl
@[simp] theorem State.setSlot_deepMetaErr (s : State) (k : Nat) (x : Slot) : (s.setSlot k x).deepMetaErr = s.deepMetaErr := rfl
@[simp] theorem State.setSlot_strikes (s : State) (k : Nat) (x : Slot) : (s.setSlot k x).strikes = s.strikes := rfl
@[simp] theorem State.setSlot_late (s : State) (k : Nat) (x : Slot) : (s.setSlot k x).late = s.late := rfl
@[simp] theorem State.setSlot_walks (s : State) (k : Nat) (x : Slot) : (s.setSlot k x).walks = s.walks := rfl
@[simp] theorem State.setSlot_bgenSet (s : State) (k : Nat) (x : Slot) : (s.setSlot k x).bgenSet = s.bgenSet := rfl
@[simp] theorem State.setSlot_regionsSet (s : State) (k : Nat) (x : Slot) : (s.setSlot k x).regionsSet = s.regionsSet := rfl
@[simp] theorem State.setSlot_preemptedOn (s : State) (k : Nat) (x : Slot) : (s.setSlot k x).preemptedOn = s.preemptedOn := rfl
@[simp] theorem State.setSlot_exitedOn (s : State) (k : Nat) (x : Slot) : (s.setSlot k x).exitedOn = s.exitedOn := rfl

@[simp] theorem State.modSlot_cycle (s : State) (k : Nat) (f : Slot → Slot) : (s.modSlot k f).cycle = s.cycle := rfl
@[simp] theorem State.modSlot_agenda (s : State) (k : Nat) (f : Slot → Slot) : (s.modSlot k f).agenda = s.agenda := rfl
@[simp] theorem State.modSlot_inputs (s : State) (k : Nat) (f : Slot → Slot) : (s.modSlot k f).inputs = s.inputs := rfl
@[simp] theorem State.modSlot_delays (s : State) (k : Nat) (f : Slot → Slot) : (s.modSlot k f).delays = s.delays := rfl
@[simp] theorem State.modSlot_freeCount (s : State) (k : Nat) (f : Slot → Slot) : (s.modSlot k f).freeCount = s.freeCount := rfl
@[simp] theorem State.modSlot_seqNo (s : State) (k : Nat) (f : Slot → Slot) : (s.modSlot k f).seqNo = s.seqNo := rfl
@[simp] theorem State.modSlot_cur (s : State) (k : Nat) (f : Slot → Slot) : (s.modSlot k f).cur = s.cur := rfl
@[simp] theorem State.modSlot_issued (s : State) (k : Nat) (f : Slot → Slot) : (s.modSlot k f).issued = s.issued := rfl
@[simp] theorem State.modSlot_powered (s : State) (k : Nat) (f : Slot → Slot) : (s.modSlot k f).powered = s.powered := rfl
@[simp] theorem State.modSlot_cores (s : State) (k : Nat) (f : Slot → Slot) : (s.modSlot k f).cores = s.cores := rfl
@[simp] theorem State.modSlot_clusters (s : State) (k : Nat) (f : Slot → Slot) : (s.modSlot k f).clusters = s.clusters := rfl
@[simp] theorem State.modSlot_deep (s : State) (k : Nat) (f : Slot → Slot) : (s.modSlot k f).deep = s.deep := rfl
@[simp] theorem State.modSlot_deepMeta (s : State) (k : Nat) (f : Slot → Slot) : (s.modSlot k f).deepMeta = s.deepMeta := rfl
@[simp] theorem State.modSlot_deepErr (s : State) (k : Nat) (f : Slot → Slot) : (s.modSlot k f).deepErr = s.deepErr := rfl
@[simp] theorem State.modSlot_host (s : State) (k : Nat) (f : Slot → Slot) : (s.modSlot k f).host = s.host := rfl
@[simp] theorem State.modSlot_remote (s : State) (k : Nat) (f : Slot → Slot) : (s.modSlot k f).remote = s.remote := rfl
@[simp] theorem State.modSlot_rom (s : State) (k : Nat) (f : Slot → Slot) : (s.modSlot k f).rom = s.rom := rfl
@[simp] theorem State.modSlot_windowBase (s : State) (k : Nat) (f : Slot → Slot) : (s.modSlot k f).windowBase = s.windowBase := rfl
@[simp] theorem State.modSlot_mgmt (s : State) (k : Nat) (f : Slot → Slot) : (s.modSlot k f).mgmt = s.mgmt := rfl
@[simp] theorem State.modSlot_measurement (s : State) (k : Nat) (f : Slot → Slot) : (s.modSlot k f).measurement = s.measurement := rfl
@[simp] theorem State.modSlot_vcc (s : State) (k : Nat) (f : Slot → Slot) : (s.modSlot k f).vcc = s.vcc := rfl
@[simp] theorem State.modSlot_ticks (s : State) (k : Nat) (f : Slot → Slot) : (s.modSlot k f).ticks = s.ticks := rfl
@[simp] theorem State.modSlot_holdsVcc (s : State) (k : Nat) (f : Slot → Slot) : (s.modSlot k f).holdsVcc = s.holdsVcc := rfl
@[simp] theorem State.modSlot_frameCtr (s : State) (k : Nat) (f : Slot → Slot) : (s.modSlot k f).frameCtr = s.frameCtr := rfl
@[simp] theorem State.modSlot_frame (s : State) (k : Nat) (f : Slot → Slot) : (s.modSlot k f).frame = s.frame := rfl
@[simp] theorem State.modSlot_slips (s : State) (k : Nat) (f : Slot → Slot) : (s.modSlot k f).slips = s.slips := rfl
@[simp] theorem State.modSlot_slipTail (s : State) (k : Nat) (f : Slot → Slot) : (s.modSlot k f).slipTail = s.slipTail := rfl
@[simp] theorem State.modSlot_skipTail (s : State) (k : Nat) (f : Slot → Slot) : (s.modSlot k f).skipTail = s.skipTail := rfl
@[simp] theorem State.modSlot_kvTails (s : State) (k : Nat) (f : Slot → Slot) : (s.modSlot k f).kvTails = s.kvTails := rfl
@[simp] theorem State.modSlot_slipping (s : State) (k : Nat) (f : Slot → Slot) : (s.modSlot k f).slipping = s.slipping := rfl
@[simp] theorem State.modSlot_bufs (s : State) (k : Nat) (f : Slot → Slot) : (s.modSlot k f).bufs = s.bufs := rfl
@[simp] theorem State.modSlot_segs (s : State) (k : Nat) (f : Slot → Slot) : (s.modSlot k f).segs = s.segs := rfl
@[simp] theorem State.modSlot_lastHeader (s : State) (k : Nat) (f : Slot → Slot) : (s.modSlot k f).lastHeader = s.lastHeader := rfl
@[simp] theorem State.modSlot_anyHeader (s : State) (k : Nat) (f : Slot → Slot) : (s.modSlot k f).anyHeader = s.anyHeader := rfl
@[simp] theorem State.modSlot_codeTabs (s : State) (k : Nat) (f : Slot → Slot) : (s.modSlot k f).codeTabs = s.codeTabs := rfl
@[simp] theorem State.modSlot_parks (s : State) (k : Nat) (f : Slot → Slot) : (s.modSlot k f).parks = s.parks := rfl
@[simp] theorem State.modSlot_scopes (s : State) (k : Nat) (f : Slot → Slot) : (s.modSlot k f).scopes = s.scopes := rfl
@[simp] theorem State.modSlot_phasers (s : State) (k : Nat) (f : Slot → Slot) : (s.modSlot k f).phasers = s.phasers := rfl
@[simp] theorem State.modSlot_members (s : State) (k : Nat) (f : Slot → Slot) : (s.modSlot k f).members = s.members := rfl
@[simp] theorem State.modSlot_phWait (s : State) (k : Nat) (f : Slot → Slot) : (s.modSlot k f).phWait = s.phWait := rfl
@[simp] theorem State.modSlot_dormant (s : State) (k : Nat) (f : Slot → Slot) : (s.modSlot k f).dormant = s.dormant := rfl
@[simp] theorem State.modSlot_ring (s : State) (k : Nat) (f : Slot → Slot) : (s.modSlot k f).ring = s.ring := rfl
@[simp] theorem State.modSlot_swap (s : State) (k : Nat) (f : Slot → Slot) : (s.modSlot k f).swap = s.swap := rfl
@[simp] theorem State.modSlot_dispatch (s : State) (k : Nat) (f : Slot → Slot) : (s.modSlot k f).dispatch = s.dispatch := rfl
@[simp] theorem State.modSlot_launches (s : State) (k : Nat) (f : Slot → Slot) : (s.modSlot k f).launches = s.launches := rfl
@[simp] theorem State.modSlot_cursors (s : State) (k : Nat) (f : Slot → Slot) : (s.modSlot k f).cursors = s.cursors := rfl
@[simp] theorem State.modSlot_snap (s : State) (k : Nat) (f : Slot → Slot) : (s.modSlot k f).snap = s.snap := rfl
@[simp] theorem State.modSlot_snapAt (s : State) (k : Nat) (f : Slot → Slot) : (s.modSlot k f).snapAt = s.snapAt := rfl
@[simp] theorem State.modSlot_snapRegs (s : State) (k : Nat) (f : Slot → Slot) : (s.modSlot k f).snapRegs = s.snapRegs := rfl
@[simp] theorem State.modSlot_undo (s : State) (k : Nat) (f : Slot → Slot) : (s.modSlot k f).undo = s.undo := rfl
@[simp] theorem State.modSlot_interval (s : State) (k : Nat) (f : Slot → Slot) : (s.modSlot k f).interval = s.interval := rfl
@[simp] theorem State.modSlot_scrubbed (s : State) (k : Nat) (f : Slot → Slot) : (s.modSlot k f).scrubbed = s.scrubbed := rfl
@[simp] theorem State.modSlot_stalled (s : State) (k : Nat) (f : Slot → Slot) : (s.modSlot k f).stalled = s.stalled := rfl
@[simp] theorem State.modSlot_deepMetaErr (s : State) (k : Nat) (f : Slot → Slot) : (s.modSlot k f).deepMetaErr = s.deepMetaErr := rfl
@[simp] theorem State.modSlot_strikes (s : State) (k : Nat) (f : Slot → Slot) : (s.modSlot k f).strikes = s.strikes := rfl
@[simp] theorem State.modSlot_late (s : State) (k : Nat) (f : Slot → Slot) : (s.modSlot k f).late = s.late := rfl
@[simp] theorem State.modSlot_walks (s : State) (k : Nat) (f : Slot → Slot) : (s.modSlot k f).walks = s.walks := rfl
@[simp] theorem State.modSlot_bgenSet (s : State) (k : Nat) (f : Slot → Slot) : (s.modSlot k f).bgenSet = s.bgenSet := rfl
@[simp] theorem State.modSlot_regionsSet (s : State) (k : Nat) (f : Slot → Slot) : (s.modSlot k f).regionsSet = s.regionsSet := rfl
@[simp] theorem State.modSlot_preemptedOn (s : State) (k : Nat) (f : Slot → Slot) : (s.modSlot k f).preemptedOn = s.preemptedOn := rfl
@[simp] theorem State.modSlot_exitedOn (s : State) (k : Nat) (f : Slot → Slot) : (s.modSlot k f).exitedOn = s.exitedOn := rfl

@[simp] theorem State.modRole_cycle (s : State) (k : Nat) (r : Role) (f : RoleCtx → RoleCtx) : (s.modRole k r f).cycle = s.cycle := rfl
@[simp] theorem State.modRole_agenda (s : State) (k : Nat) (r : Role) (f : RoleCtx → RoleCtx) : (s.modRole k r f).agenda = s.agenda := rfl
@[simp] theorem State.modRole_inputs (s : State) (k : Nat) (r : Role) (f : RoleCtx → RoleCtx) : (s.modRole k r f).inputs = s.inputs := rfl
@[simp] theorem State.modRole_delays (s : State) (k : Nat) (r : Role) (f : RoleCtx → RoleCtx) : (s.modRole k r f).delays = s.delays := rfl
@[simp] theorem State.modRole_freeCount (s : State) (k : Nat) (r : Role) (f : RoleCtx → RoleCtx) : (s.modRole k r f).freeCount = s.freeCount := rfl
@[simp] theorem State.modRole_seqNo (s : State) (k : Nat) (r : Role) (f : RoleCtx → RoleCtx) : (s.modRole k r f).seqNo = s.seqNo := rfl
@[simp] theorem State.modRole_cur (s : State) (k : Nat) (r : Role) (f : RoleCtx → RoleCtx) : (s.modRole k r f).cur = s.cur := rfl
@[simp] theorem State.modRole_issued (s : State) (k : Nat) (r : Role) (f : RoleCtx → RoleCtx) : (s.modRole k r f).issued = s.issued := rfl
@[simp] theorem State.modRole_powered (s : State) (k : Nat) (r : Role) (f : RoleCtx → RoleCtx) : (s.modRole k r f).powered = s.powered := rfl
@[simp] theorem State.modRole_cores (s : State) (k : Nat) (r : Role) (f : RoleCtx → RoleCtx) : (s.modRole k r f).cores = s.cores := rfl
@[simp] theorem State.modRole_clusters (s : State) (k : Nat) (r : Role) (f : RoleCtx → RoleCtx) : (s.modRole k r f).clusters = s.clusters := rfl
@[simp] theorem State.modRole_deep (s : State) (k : Nat) (r : Role) (f : RoleCtx → RoleCtx) : (s.modRole k r f).deep = s.deep := rfl
@[simp] theorem State.modRole_deepMeta (s : State) (k : Nat) (r : Role) (f : RoleCtx → RoleCtx) : (s.modRole k r f).deepMeta = s.deepMeta := rfl
@[simp] theorem State.modRole_deepErr (s : State) (k : Nat) (r : Role) (f : RoleCtx → RoleCtx) : (s.modRole k r f).deepErr = s.deepErr := rfl
@[simp] theorem State.modRole_host (s : State) (k : Nat) (r : Role) (f : RoleCtx → RoleCtx) : (s.modRole k r f).host = s.host := rfl
@[simp] theorem State.modRole_remote (s : State) (k : Nat) (r : Role) (f : RoleCtx → RoleCtx) : (s.modRole k r f).remote = s.remote := rfl
@[simp] theorem State.modRole_rom (s : State) (k : Nat) (r : Role) (f : RoleCtx → RoleCtx) : (s.modRole k r f).rom = s.rom := rfl
@[simp] theorem State.modRole_windowBase (s : State) (k : Nat) (r : Role) (f : RoleCtx → RoleCtx) : (s.modRole k r f).windowBase = s.windowBase := rfl
@[simp] theorem State.modRole_mgmt (s : State) (k : Nat) (r : Role) (f : RoleCtx → RoleCtx) : (s.modRole k r f).mgmt = s.mgmt := rfl
@[simp] theorem State.modRole_measurement (s : State) (k : Nat) (r : Role) (f : RoleCtx → RoleCtx) : (s.modRole k r f).measurement = s.measurement := rfl
@[simp] theorem State.modRole_vcc (s : State) (k : Nat) (r : Role) (f : RoleCtx → RoleCtx) : (s.modRole k r f).vcc = s.vcc := rfl
@[simp] theorem State.modRole_ticks (s : State) (k : Nat) (r : Role) (f : RoleCtx → RoleCtx) : (s.modRole k r f).ticks = s.ticks := rfl
@[simp] theorem State.modRole_holdsVcc (s : State) (k : Nat) (r : Role) (f : RoleCtx → RoleCtx) : (s.modRole k r f).holdsVcc = s.holdsVcc := rfl
@[simp] theorem State.modRole_frameCtr (s : State) (k : Nat) (r : Role) (f : RoleCtx → RoleCtx) : (s.modRole k r f).frameCtr = s.frameCtr := rfl
@[simp] theorem State.modRole_frame (s : State) (k : Nat) (r : Role) (f : RoleCtx → RoleCtx) : (s.modRole k r f).frame = s.frame := rfl
@[simp] theorem State.modRole_slips (s : State) (k : Nat) (r : Role) (f : RoleCtx → RoleCtx) : (s.modRole k r f).slips = s.slips := rfl
@[simp] theorem State.modRole_slipTail (s : State) (k : Nat) (r : Role) (f : RoleCtx → RoleCtx) : (s.modRole k r f).slipTail = s.slipTail := rfl
@[simp] theorem State.modRole_skipTail (s : State) (k : Nat) (r : Role) (f : RoleCtx → RoleCtx) : (s.modRole k r f).skipTail = s.skipTail := rfl
@[simp] theorem State.modRole_kvTails (s : State) (k : Nat) (r : Role) (f : RoleCtx → RoleCtx) : (s.modRole k r f).kvTails = s.kvTails := rfl
@[simp] theorem State.modRole_slipping (s : State) (k : Nat) (r : Role) (f : RoleCtx → RoleCtx) : (s.modRole k r f).slipping = s.slipping := rfl
@[simp] theorem State.modRole_bufs (s : State) (k : Nat) (r : Role) (f : RoleCtx → RoleCtx) : (s.modRole k r f).bufs = s.bufs := rfl
@[simp] theorem State.modRole_segs (s : State) (k : Nat) (r : Role) (f : RoleCtx → RoleCtx) : (s.modRole k r f).segs = s.segs := rfl
@[simp] theorem State.modRole_lastHeader (s : State) (k : Nat) (r : Role) (f : RoleCtx → RoleCtx) : (s.modRole k r f).lastHeader = s.lastHeader := rfl
@[simp] theorem State.modRole_anyHeader (s : State) (k : Nat) (r : Role) (f : RoleCtx → RoleCtx) : (s.modRole k r f).anyHeader = s.anyHeader := rfl
@[simp] theorem State.modRole_codeTabs (s : State) (k : Nat) (r : Role) (f : RoleCtx → RoleCtx) : (s.modRole k r f).codeTabs = s.codeTabs := rfl
@[simp] theorem State.modRole_parks (s : State) (k : Nat) (r : Role) (f : RoleCtx → RoleCtx) : (s.modRole k r f).parks = s.parks := rfl
@[simp] theorem State.modRole_scopes (s : State) (k : Nat) (r : Role) (f : RoleCtx → RoleCtx) : (s.modRole k r f).scopes = s.scopes := rfl
@[simp] theorem State.modRole_phasers (s : State) (k : Nat) (r : Role) (f : RoleCtx → RoleCtx) : (s.modRole k r f).phasers = s.phasers := rfl
@[simp] theorem State.modRole_members (s : State) (k : Nat) (r : Role) (f : RoleCtx → RoleCtx) : (s.modRole k r f).members = s.members := rfl
@[simp] theorem State.modRole_phWait (s : State) (k : Nat) (r : Role) (f : RoleCtx → RoleCtx) : (s.modRole k r f).phWait = s.phWait := rfl
@[simp] theorem State.modRole_dormant (s : State) (k : Nat) (r : Role) (f : RoleCtx → RoleCtx) : (s.modRole k r f).dormant = s.dormant := rfl
@[simp] theorem State.modRole_ring (s : State) (k : Nat) (r : Role) (f : RoleCtx → RoleCtx) : (s.modRole k r f).ring = s.ring := rfl
@[simp] theorem State.modRole_swap (s : State) (k : Nat) (r : Role) (f : RoleCtx → RoleCtx) : (s.modRole k r f).swap = s.swap := rfl
@[simp] theorem State.modRole_dispatch (s : State) (k : Nat) (r : Role) (f : RoleCtx → RoleCtx) : (s.modRole k r f).dispatch = s.dispatch := rfl
@[simp] theorem State.modRole_launches (s : State) (k : Nat) (r : Role) (f : RoleCtx → RoleCtx) : (s.modRole k r f).launches = s.launches := rfl
@[simp] theorem State.modRole_cursors (s : State) (k : Nat) (r : Role) (f : RoleCtx → RoleCtx) : (s.modRole k r f).cursors = s.cursors := rfl
@[simp] theorem State.modRole_snap (s : State) (k : Nat) (r : Role) (f : RoleCtx → RoleCtx) : (s.modRole k r f).snap = s.snap := rfl
@[simp] theorem State.modRole_snapAt (s : State) (k : Nat) (r : Role) (f : RoleCtx → RoleCtx) : (s.modRole k r f).snapAt = s.snapAt := rfl
@[simp] theorem State.modRole_snapRegs (s : State) (k : Nat) (r : Role) (f : RoleCtx → RoleCtx) : (s.modRole k r f).snapRegs = s.snapRegs := rfl
@[simp] theorem State.modRole_undo (s : State) (k : Nat) (r : Role) (f : RoleCtx → RoleCtx) : (s.modRole k r f).undo = s.undo := rfl
@[simp] theorem State.modRole_interval (s : State) (k : Nat) (r : Role) (f : RoleCtx → RoleCtx) : (s.modRole k r f).interval = s.interval := rfl
@[simp] theorem State.modRole_scrubbed (s : State) (k : Nat) (r : Role) (f : RoleCtx → RoleCtx) : (s.modRole k r f).scrubbed = s.scrubbed := rfl
@[simp] theorem State.modRole_stalled (s : State) (k : Nat) (r : Role) (f : RoleCtx → RoleCtx) : (s.modRole k r f).stalled = s.stalled := rfl
@[simp] theorem State.modRole_deepMetaErr (s : State) (k : Nat) (r : Role) (f : RoleCtx → RoleCtx) : (s.modRole k r f).deepMetaErr = s.deepMetaErr := rfl
@[simp] theorem State.modRole_strikes (s : State) (k : Nat) (r : Role) (f : RoleCtx → RoleCtx) : (s.modRole k r f).strikes = s.strikes := rfl
@[simp] theorem State.modRole_late (s : State) (k : Nat) (r : Role) (f : RoleCtx → RoleCtx) : (s.modRole k r f).late = s.late := rfl
@[simp] theorem State.modRole_walks (s : State) (k : Nat) (r : Role) (f : RoleCtx → RoleCtx) : (s.modRole k r f).walks = s.walks := rfl
@[simp] theorem State.modRole_bgenSet (s : State) (k : Nat) (r : Role) (f : RoleCtx → RoleCtx) : (s.modRole k r f).bgenSet = s.bgenSet := rfl
@[simp] theorem State.modRole_regionsSet (s : State) (k : Nat) (r : Role) (f : RoleCtx → RoleCtx) : (s.modRole k r f).regionsSet = s.regionsSet := rfl
@[simp] theorem State.modRole_preemptedOn (s : State) (k : Nat) (r : Role) (f : RoleCtx → RoleCtx) : (s.modRole k r f).preemptedOn = s.preemptedOn := rfl
@[simp] theorem State.modRole_exitedOn (s : State) (k : Nat) (r : Role) (f : RoleCtx → RoleCtx) : (s.modRole k r f).exitedOn = s.exitedOn := rfl

@[simp] theorem State.modMe_cycle (s : State) (f : RoleCtx → RoleCtx) : (s.modMe f).cycle = s.cycle := rfl
@[simp] theorem State.modMe_agenda (s : State) (f : RoleCtx → RoleCtx) : (s.modMe f).agenda = s.agenda := rfl
@[simp] theorem State.modMe_inputs (s : State) (f : RoleCtx → RoleCtx) : (s.modMe f).inputs = s.inputs := rfl
@[simp] theorem State.modMe_delays (s : State) (f : RoleCtx → RoleCtx) : (s.modMe f).delays = s.delays := rfl
@[simp] theorem State.modMe_freeCount (s : State) (f : RoleCtx → RoleCtx) : (s.modMe f).freeCount = s.freeCount := rfl
@[simp] theorem State.modMe_seqNo (s : State) (f : RoleCtx → RoleCtx) : (s.modMe f).seqNo = s.seqNo := rfl
@[simp] theorem State.modMe_cur (s : State) (f : RoleCtx → RoleCtx) : (s.modMe f).cur = s.cur := rfl
@[simp] theorem State.modMe_issued (s : State) (f : RoleCtx → RoleCtx) : (s.modMe f).issued = s.issued := rfl
@[simp] theorem State.modMe_powered (s : State) (f : RoleCtx → RoleCtx) : (s.modMe f).powered = s.powered := rfl
@[simp] theorem State.modMe_cores (s : State) (f : RoleCtx → RoleCtx) : (s.modMe f).cores = s.cores := rfl
@[simp] theorem State.modMe_clusters (s : State) (f : RoleCtx → RoleCtx) : (s.modMe f).clusters = s.clusters := rfl
@[simp] theorem State.modMe_deep (s : State) (f : RoleCtx → RoleCtx) : (s.modMe f).deep = s.deep := rfl
@[simp] theorem State.modMe_deepMeta (s : State) (f : RoleCtx → RoleCtx) : (s.modMe f).deepMeta = s.deepMeta := rfl
@[simp] theorem State.modMe_deepErr (s : State) (f : RoleCtx → RoleCtx) : (s.modMe f).deepErr = s.deepErr := rfl
@[simp] theorem State.modMe_host (s : State) (f : RoleCtx → RoleCtx) : (s.modMe f).host = s.host := rfl
@[simp] theorem State.modMe_remote (s : State) (f : RoleCtx → RoleCtx) : (s.modMe f).remote = s.remote := rfl
@[simp] theorem State.modMe_rom (s : State) (f : RoleCtx → RoleCtx) : (s.modMe f).rom = s.rom := rfl
@[simp] theorem State.modMe_windowBase (s : State) (f : RoleCtx → RoleCtx) : (s.modMe f).windowBase = s.windowBase := rfl
@[simp] theorem State.modMe_mgmt (s : State) (f : RoleCtx → RoleCtx) : (s.modMe f).mgmt = s.mgmt := rfl
@[simp] theorem State.modMe_measurement (s : State) (f : RoleCtx → RoleCtx) : (s.modMe f).measurement = s.measurement := rfl
@[simp] theorem State.modMe_vcc (s : State) (f : RoleCtx → RoleCtx) : (s.modMe f).vcc = s.vcc := rfl
@[simp] theorem State.modMe_ticks (s : State) (f : RoleCtx → RoleCtx) : (s.modMe f).ticks = s.ticks := rfl
@[simp] theorem State.modMe_holdsVcc (s : State) (f : RoleCtx → RoleCtx) : (s.modMe f).holdsVcc = s.holdsVcc := rfl
@[simp] theorem State.modMe_frameCtr (s : State) (f : RoleCtx → RoleCtx) : (s.modMe f).frameCtr = s.frameCtr := rfl
@[simp] theorem State.modMe_frame (s : State) (f : RoleCtx → RoleCtx) : (s.modMe f).frame = s.frame := rfl
@[simp] theorem State.modMe_slips (s : State) (f : RoleCtx → RoleCtx) : (s.modMe f).slips = s.slips := rfl
@[simp] theorem State.modMe_slipTail (s : State) (f : RoleCtx → RoleCtx) : (s.modMe f).slipTail = s.slipTail := rfl
@[simp] theorem State.modMe_skipTail (s : State) (f : RoleCtx → RoleCtx) : (s.modMe f).skipTail = s.skipTail := rfl
@[simp] theorem State.modMe_kvTails (s : State) (f : RoleCtx → RoleCtx) : (s.modMe f).kvTails = s.kvTails := rfl
@[simp] theorem State.modMe_slipping (s : State) (f : RoleCtx → RoleCtx) : (s.modMe f).slipping = s.slipping := rfl
@[simp] theorem State.modMe_bufs (s : State) (f : RoleCtx → RoleCtx) : (s.modMe f).bufs = s.bufs := rfl
@[simp] theorem State.modMe_segs (s : State) (f : RoleCtx → RoleCtx) : (s.modMe f).segs = s.segs := rfl
@[simp] theorem State.modMe_lastHeader (s : State) (f : RoleCtx → RoleCtx) : (s.modMe f).lastHeader = s.lastHeader := rfl
@[simp] theorem State.modMe_anyHeader (s : State) (f : RoleCtx → RoleCtx) : (s.modMe f).anyHeader = s.anyHeader := rfl
@[simp] theorem State.modMe_codeTabs (s : State) (f : RoleCtx → RoleCtx) : (s.modMe f).codeTabs = s.codeTabs := rfl
@[simp] theorem State.modMe_parks (s : State) (f : RoleCtx → RoleCtx) : (s.modMe f).parks = s.parks := rfl
@[simp] theorem State.modMe_scopes (s : State) (f : RoleCtx → RoleCtx) : (s.modMe f).scopes = s.scopes := rfl
@[simp] theorem State.modMe_phasers (s : State) (f : RoleCtx → RoleCtx) : (s.modMe f).phasers = s.phasers := rfl
@[simp] theorem State.modMe_members (s : State) (f : RoleCtx → RoleCtx) : (s.modMe f).members = s.members := rfl
@[simp] theorem State.modMe_phWait (s : State) (f : RoleCtx → RoleCtx) : (s.modMe f).phWait = s.phWait := rfl
@[simp] theorem State.modMe_dormant (s : State) (f : RoleCtx → RoleCtx) : (s.modMe f).dormant = s.dormant := rfl
@[simp] theorem State.modMe_ring (s : State) (f : RoleCtx → RoleCtx) : (s.modMe f).ring = s.ring := rfl
@[simp] theorem State.modMe_swap (s : State) (f : RoleCtx → RoleCtx) : (s.modMe f).swap = s.swap := rfl
@[simp] theorem State.modMe_dispatch (s : State) (f : RoleCtx → RoleCtx) : (s.modMe f).dispatch = s.dispatch := rfl
@[simp] theorem State.modMe_launches (s : State) (f : RoleCtx → RoleCtx) : (s.modMe f).launches = s.launches := rfl
@[simp] theorem State.modMe_cursors (s : State) (f : RoleCtx → RoleCtx) : (s.modMe f).cursors = s.cursors := rfl
@[simp] theorem State.modMe_snap (s : State) (f : RoleCtx → RoleCtx) : (s.modMe f).snap = s.snap := rfl
@[simp] theorem State.modMe_snapAt (s : State) (f : RoleCtx → RoleCtx) : (s.modMe f).snapAt = s.snapAt := rfl
@[simp] theorem State.modMe_snapRegs (s : State) (f : RoleCtx → RoleCtx) : (s.modMe f).snapRegs = s.snapRegs := rfl
@[simp] theorem State.modMe_undo (s : State) (f : RoleCtx → RoleCtx) : (s.modMe f).undo = s.undo := rfl
@[simp] theorem State.modMe_interval (s : State) (f : RoleCtx → RoleCtx) : (s.modMe f).interval = s.interval := rfl
@[simp] theorem State.modMe_scrubbed (s : State) (f : RoleCtx → RoleCtx) : (s.modMe f).scrubbed = s.scrubbed := rfl
@[simp] theorem State.modMe_stalled (s : State) (f : RoleCtx → RoleCtx) : (s.modMe f).stalled = s.stalled := rfl
@[simp] theorem State.modMe_deepMetaErr (s : State) (f : RoleCtx → RoleCtx) : (s.modMe f).deepMetaErr = s.deepMetaErr := rfl
@[simp] theorem State.modMe_strikes (s : State) (f : RoleCtx → RoleCtx) : (s.modMe f).strikes = s.strikes := rfl
@[simp] theorem State.modMe_late (s : State) (f : RoleCtx → RoleCtx) : (s.modMe f).late = s.late := rfl
@[simp] theorem State.modMe_walks (s : State) (f : RoleCtx → RoleCtx) : (s.modMe f).walks = s.walks := rfl
@[simp] theorem State.modMe_bgenSet (s : State) (f : RoleCtx → RoleCtx) : (s.modMe f).bgenSet = s.bgenSet := rfl
@[simp] theorem State.modMe_regionsSet (s : State) (f : RoleCtx → RoleCtx) : (s.modMe f).regionsSet = s.regionsSet := rfl
@[simp] theorem State.modMe_preemptedOn (s : State) (f : RoleCtx → RoleCtx) : (s.modMe f).preemptedOn = s.preemptedOn := rfl
@[simp] theorem State.modMe_exitedOn (s : State) (f : RoleCtx → RoleCtx) : (s.modMe f).exitedOn = s.exitedOn := rfl

@[simp] theorem State.modCore_cycle (s : State) (k : Nat) (f : Core → Core) : (s.modCore k f).cycle = s.cycle := rfl
@[simp] theorem State.modCore_agenda (s : State) (k : Nat) (f : Core → Core) : (s.modCore k f).agenda = s.agenda := rfl
@[simp] theorem State.modCore_inputs (s : State) (k : Nat) (f : Core → Core) : (s.modCore k f).inputs = s.inputs := rfl
@[simp] theorem State.modCore_delays (s : State) (k : Nat) (f : Core → Core) : (s.modCore k f).delays = s.delays := rfl
@[simp] theorem State.modCore_freeCount (s : State) (k : Nat) (f : Core → Core) : (s.modCore k f).freeCount = s.freeCount := rfl
@[simp] theorem State.modCore_seqNo (s : State) (k : Nat) (f : Core → Core) : (s.modCore k f).seqNo = s.seqNo := rfl
@[simp] theorem State.modCore_cur (s : State) (k : Nat) (f : Core → Core) : (s.modCore k f).cur = s.cur := rfl
@[simp] theorem State.modCore_issued (s : State) (k : Nat) (f : Core → Core) : (s.modCore k f).issued = s.issued := rfl
@[simp] theorem State.modCore_powered (s : State) (k : Nat) (f : Core → Core) : (s.modCore k f).powered = s.powered := rfl
@[simp] theorem State.modCore_slots (s : State) (k : Nat) (f : Core → Core) : (s.modCore k f).slots = s.slots := rfl
@[simp] theorem State.modCore_clusters (s : State) (k : Nat) (f : Core → Core) : (s.modCore k f).clusters = s.clusters := rfl
@[simp] theorem State.modCore_deep (s : State) (k : Nat) (f : Core → Core) : (s.modCore k f).deep = s.deep := rfl
@[simp] theorem State.modCore_deepMeta (s : State) (k : Nat) (f : Core → Core) : (s.modCore k f).deepMeta = s.deepMeta := rfl
@[simp] theorem State.modCore_deepErr (s : State) (k : Nat) (f : Core → Core) : (s.modCore k f).deepErr = s.deepErr := rfl
@[simp] theorem State.modCore_host (s : State) (k : Nat) (f : Core → Core) : (s.modCore k f).host = s.host := rfl
@[simp] theorem State.modCore_remote (s : State) (k : Nat) (f : Core → Core) : (s.modCore k f).remote = s.remote := rfl
@[simp] theorem State.modCore_rom (s : State) (k : Nat) (f : Core → Core) : (s.modCore k f).rom = s.rom := rfl
@[simp] theorem State.modCore_windowBase (s : State) (k : Nat) (f : Core → Core) : (s.modCore k f).windowBase = s.windowBase := rfl
@[simp] theorem State.modCore_mgmt (s : State) (k : Nat) (f : Core → Core) : (s.modCore k f).mgmt = s.mgmt := rfl
@[simp] theorem State.modCore_measurement (s : State) (k : Nat) (f : Core → Core) : (s.modCore k f).measurement = s.measurement := rfl
@[simp] theorem State.modCore_vcc (s : State) (k : Nat) (f : Core → Core) : (s.modCore k f).vcc = s.vcc := rfl
@[simp] theorem State.modCore_ticks (s : State) (k : Nat) (f : Core → Core) : (s.modCore k f).ticks = s.ticks := rfl
@[simp] theorem State.modCore_holdsVcc (s : State) (k : Nat) (f : Core → Core) : (s.modCore k f).holdsVcc = s.holdsVcc := rfl
@[simp] theorem State.modCore_frameCtr (s : State) (k : Nat) (f : Core → Core) : (s.modCore k f).frameCtr = s.frameCtr := rfl
@[simp] theorem State.modCore_frame (s : State) (k : Nat) (f : Core → Core) : (s.modCore k f).frame = s.frame := rfl
@[simp] theorem State.modCore_slips (s : State) (k : Nat) (f : Core → Core) : (s.modCore k f).slips = s.slips := rfl
@[simp] theorem State.modCore_slipTail (s : State) (k : Nat) (f : Core → Core) : (s.modCore k f).slipTail = s.slipTail := rfl
@[simp] theorem State.modCore_skipTail (s : State) (k : Nat) (f : Core → Core) : (s.modCore k f).skipTail = s.skipTail := rfl
@[simp] theorem State.modCore_kvTails (s : State) (k : Nat) (f : Core → Core) : (s.modCore k f).kvTails = s.kvTails := rfl
@[simp] theorem State.modCore_slipping (s : State) (k : Nat) (f : Core → Core) : (s.modCore k f).slipping = s.slipping := rfl
@[simp] theorem State.modCore_bufs (s : State) (k : Nat) (f : Core → Core) : (s.modCore k f).bufs = s.bufs := rfl
@[simp] theorem State.modCore_segs (s : State) (k : Nat) (f : Core → Core) : (s.modCore k f).segs = s.segs := rfl
@[simp] theorem State.modCore_lastHeader (s : State) (k : Nat) (f : Core → Core) : (s.modCore k f).lastHeader = s.lastHeader := rfl
@[simp] theorem State.modCore_anyHeader (s : State) (k : Nat) (f : Core → Core) : (s.modCore k f).anyHeader = s.anyHeader := rfl
@[simp] theorem State.modCore_codeTabs (s : State) (k : Nat) (f : Core → Core) : (s.modCore k f).codeTabs = s.codeTabs := rfl
@[simp] theorem State.modCore_parks (s : State) (k : Nat) (f : Core → Core) : (s.modCore k f).parks = s.parks := rfl
@[simp] theorem State.modCore_scopes (s : State) (k : Nat) (f : Core → Core) : (s.modCore k f).scopes = s.scopes := rfl
@[simp] theorem State.modCore_phasers (s : State) (k : Nat) (f : Core → Core) : (s.modCore k f).phasers = s.phasers := rfl
@[simp] theorem State.modCore_members (s : State) (k : Nat) (f : Core → Core) : (s.modCore k f).members = s.members := rfl
@[simp] theorem State.modCore_phWait (s : State) (k : Nat) (f : Core → Core) : (s.modCore k f).phWait = s.phWait := rfl
@[simp] theorem State.modCore_dormant (s : State) (k : Nat) (f : Core → Core) : (s.modCore k f).dormant = s.dormant := rfl
@[simp] theorem State.modCore_ring (s : State) (k : Nat) (f : Core → Core) : (s.modCore k f).ring = s.ring := rfl
@[simp] theorem State.modCore_swap (s : State) (k : Nat) (f : Core → Core) : (s.modCore k f).swap = s.swap := rfl
@[simp] theorem State.modCore_dispatch (s : State) (k : Nat) (f : Core → Core) : (s.modCore k f).dispatch = s.dispatch := rfl
@[simp] theorem State.modCore_launches (s : State) (k : Nat) (f : Core → Core) : (s.modCore k f).launches = s.launches := rfl
@[simp] theorem State.modCore_cursors (s : State) (k : Nat) (f : Core → Core) : (s.modCore k f).cursors = s.cursors := rfl
@[simp] theorem State.modCore_snap (s : State) (k : Nat) (f : Core → Core) : (s.modCore k f).snap = s.snap := rfl
@[simp] theorem State.modCore_snapAt (s : State) (k : Nat) (f : Core → Core) : (s.modCore k f).snapAt = s.snapAt := rfl
@[simp] theorem State.modCore_snapRegs (s : State) (k : Nat) (f : Core → Core) : (s.modCore k f).snapRegs = s.snapRegs := rfl
@[simp] theorem State.modCore_undo (s : State) (k : Nat) (f : Core → Core) : (s.modCore k f).undo = s.undo := rfl
@[simp] theorem State.modCore_interval (s : State) (k : Nat) (f : Core → Core) : (s.modCore k f).interval = s.interval := rfl
@[simp] theorem State.modCore_scrubbed (s : State) (k : Nat) (f : Core → Core) : (s.modCore k f).scrubbed = s.scrubbed := rfl
@[simp] theorem State.modCore_stalled (s : State) (k : Nat) (f : Core → Core) : (s.modCore k f).stalled = s.stalled := rfl
@[simp] theorem State.modCore_deepMetaErr (s : State) (k : Nat) (f : Core → Core) : (s.modCore k f).deepMetaErr = s.deepMetaErr := rfl
@[simp] theorem State.modCore_strikes (s : State) (k : Nat) (f : Core → Core) : (s.modCore k f).strikes = s.strikes := rfl
@[simp] theorem State.modCore_late (s : State) (k : Nat) (f : Core → Core) : (s.modCore k f).late = s.late := rfl
@[simp] theorem State.modCore_walks (s : State) (k : Nat) (f : Core → Core) : (s.modCore k f).walks = s.walks := rfl
@[simp] theorem State.modCore_bgenSet (s : State) (k : Nat) (f : Core → Core) : (s.modCore k f).bgenSet = s.bgenSet := rfl
@[simp] theorem State.modCore_regionsSet (s : State) (k : Nat) (f : Core → Core) : (s.modCore k f).regionsSet = s.regionsSet := rfl
@[simp] theorem State.modCore_preemptedOn (s : State) (k : Nat) (f : Core → Core) : (s.modCore k f).preemptedOn = s.preemptedOn := rfl
@[simp] theorem State.modCore_exitedOn (s : State) (k : Nat) (f : Core → Core) : (s.modCore k f).exitedOn = s.exitedOn := rfl

@[simp] theorem State.modCluster_cycle (s : State) (k : Nat) (f : Cluster → Cluster) : (s.modCluster k f).cycle = s.cycle := rfl
@[simp] theorem State.modCluster_agenda (s : State) (k : Nat) (f : Cluster → Cluster) : (s.modCluster k f).agenda = s.agenda := rfl
@[simp] theorem State.modCluster_inputs (s : State) (k : Nat) (f : Cluster → Cluster) : (s.modCluster k f).inputs = s.inputs := rfl
@[simp] theorem State.modCluster_delays (s : State) (k : Nat) (f : Cluster → Cluster) : (s.modCluster k f).delays = s.delays := rfl
@[simp] theorem State.modCluster_freeCount (s : State) (k : Nat) (f : Cluster → Cluster) : (s.modCluster k f).freeCount = s.freeCount := rfl
@[simp] theorem State.modCluster_seqNo (s : State) (k : Nat) (f : Cluster → Cluster) : (s.modCluster k f).seqNo = s.seqNo := rfl
@[simp] theorem State.modCluster_cur (s : State) (k : Nat) (f : Cluster → Cluster) : (s.modCluster k f).cur = s.cur := rfl
@[simp] theorem State.modCluster_issued (s : State) (k : Nat) (f : Cluster → Cluster) : (s.modCluster k f).issued = s.issued := rfl
@[simp] theorem State.modCluster_powered (s : State) (k : Nat) (f : Cluster → Cluster) : (s.modCluster k f).powered = s.powered := rfl
@[simp] theorem State.modCluster_slots (s : State) (k : Nat) (f : Cluster → Cluster) : (s.modCluster k f).slots = s.slots := rfl
@[simp] theorem State.modCluster_cores (s : State) (k : Nat) (f : Cluster → Cluster) : (s.modCluster k f).cores = s.cores := rfl
@[simp] theorem State.modCluster_deep (s : State) (k : Nat) (f : Cluster → Cluster) : (s.modCluster k f).deep = s.deep := rfl
@[simp] theorem State.modCluster_deepMeta (s : State) (k : Nat) (f : Cluster → Cluster) : (s.modCluster k f).deepMeta = s.deepMeta := rfl
@[simp] theorem State.modCluster_deepErr (s : State) (k : Nat) (f : Cluster → Cluster) : (s.modCluster k f).deepErr = s.deepErr := rfl
@[simp] theorem State.modCluster_host (s : State) (k : Nat) (f : Cluster → Cluster) : (s.modCluster k f).host = s.host := rfl
@[simp] theorem State.modCluster_remote (s : State) (k : Nat) (f : Cluster → Cluster) : (s.modCluster k f).remote = s.remote := rfl
@[simp] theorem State.modCluster_rom (s : State) (k : Nat) (f : Cluster → Cluster) : (s.modCluster k f).rom = s.rom := rfl
@[simp] theorem State.modCluster_windowBase (s : State) (k : Nat) (f : Cluster → Cluster) : (s.modCluster k f).windowBase = s.windowBase := rfl
@[simp] theorem State.modCluster_mgmt (s : State) (k : Nat) (f : Cluster → Cluster) : (s.modCluster k f).mgmt = s.mgmt := rfl
@[simp] theorem State.modCluster_measurement (s : State) (k : Nat) (f : Cluster → Cluster) : (s.modCluster k f).measurement = s.measurement := rfl
@[simp] theorem State.modCluster_vcc (s : State) (k : Nat) (f : Cluster → Cluster) : (s.modCluster k f).vcc = s.vcc := rfl
@[simp] theorem State.modCluster_ticks (s : State) (k : Nat) (f : Cluster → Cluster) : (s.modCluster k f).ticks = s.ticks := rfl
@[simp] theorem State.modCluster_holdsVcc (s : State) (k : Nat) (f : Cluster → Cluster) : (s.modCluster k f).holdsVcc = s.holdsVcc := rfl
@[simp] theorem State.modCluster_frameCtr (s : State) (k : Nat) (f : Cluster → Cluster) : (s.modCluster k f).frameCtr = s.frameCtr := rfl
@[simp] theorem State.modCluster_frame (s : State) (k : Nat) (f : Cluster → Cluster) : (s.modCluster k f).frame = s.frame := rfl
@[simp] theorem State.modCluster_slips (s : State) (k : Nat) (f : Cluster → Cluster) : (s.modCluster k f).slips = s.slips := rfl
@[simp] theorem State.modCluster_slipTail (s : State) (k : Nat) (f : Cluster → Cluster) : (s.modCluster k f).slipTail = s.slipTail := rfl
@[simp] theorem State.modCluster_skipTail (s : State) (k : Nat) (f : Cluster → Cluster) : (s.modCluster k f).skipTail = s.skipTail := rfl
@[simp] theorem State.modCluster_kvTails (s : State) (k : Nat) (f : Cluster → Cluster) : (s.modCluster k f).kvTails = s.kvTails := rfl
@[simp] theorem State.modCluster_slipping (s : State) (k : Nat) (f : Cluster → Cluster) : (s.modCluster k f).slipping = s.slipping := rfl
@[simp] theorem State.modCluster_bufs (s : State) (k : Nat) (f : Cluster → Cluster) : (s.modCluster k f).bufs = s.bufs := rfl
@[simp] theorem State.modCluster_segs (s : State) (k : Nat) (f : Cluster → Cluster) : (s.modCluster k f).segs = s.segs := rfl
@[simp] theorem State.modCluster_lastHeader (s : State) (k : Nat) (f : Cluster → Cluster) : (s.modCluster k f).lastHeader = s.lastHeader := rfl
@[simp] theorem State.modCluster_anyHeader (s : State) (k : Nat) (f : Cluster → Cluster) : (s.modCluster k f).anyHeader = s.anyHeader := rfl
@[simp] theorem State.modCluster_codeTabs (s : State) (k : Nat) (f : Cluster → Cluster) : (s.modCluster k f).codeTabs = s.codeTabs := rfl
@[simp] theorem State.modCluster_parks (s : State) (k : Nat) (f : Cluster → Cluster) : (s.modCluster k f).parks = s.parks := rfl
@[simp] theorem State.modCluster_scopes (s : State) (k : Nat) (f : Cluster → Cluster) : (s.modCluster k f).scopes = s.scopes := rfl
@[simp] theorem State.modCluster_phasers (s : State) (k : Nat) (f : Cluster → Cluster) : (s.modCluster k f).phasers = s.phasers := rfl
@[simp] theorem State.modCluster_members (s : State) (k : Nat) (f : Cluster → Cluster) : (s.modCluster k f).members = s.members := rfl
@[simp] theorem State.modCluster_phWait (s : State) (k : Nat) (f : Cluster → Cluster) : (s.modCluster k f).phWait = s.phWait := rfl
@[simp] theorem State.modCluster_dormant (s : State) (k : Nat) (f : Cluster → Cluster) : (s.modCluster k f).dormant = s.dormant := rfl
@[simp] theorem State.modCluster_ring (s : State) (k : Nat) (f : Cluster → Cluster) : (s.modCluster k f).ring = s.ring := rfl
@[simp] theorem State.modCluster_swap (s : State) (k : Nat) (f : Cluster → Cluster) : (s.modCluster k f).swap = s.swap := rfl
@[simp] theorem State.modCluster_dispatch (s : State) (k : Nat) (f : Cluster → Cluster) : (s.modCluster k f).dispatch = s.dispatch := rfl
@[simp] theorem State.modCluster_launches (s : State) (k : Nat) (f : Cluster → Cluster) : (s.modCluster k f).launches = s.launches := rfl
@[simp] theorem State.modCluster_cursors (s : State) (k : Nat) (f : Cluster → Cluster) : (s.modCluster k f).cursors = s.cursors := rfl
@[simp] theorem State.modCluster_snap (s : State) (k : Nat) (f : Cluster → Cluster) : (s.modCluster k f).snap = s.snap := rfl
@[simp] theorem State.modCluster_snapAt (s : State) (k : Nat) (f : Cluster → Cluster) : (s.modCluster k f).snapAt = s.snapAt := rfl
@[simp] theorem State.modCluster_snapRegs (s : State) (k : Nat) (f : Cluster → Cluster) : (s.modCluster k f).snapRegs = s.snapRegs := rfl
@[simp] theorem State.modCluster_undo (s : State) (k : Nat) (f : Cluster → Cluster) : (s.modCluster k f).undo = s.undo := rfl
@[simp] theorem State.modCluster_interval (s : State) (k : Nat) (f : Cluster → Cluster) : (s.modCluster k f).interval = s.interval := rfl
@[simp] theorem State.modCluster_scrubbed (s : State) (k : Nat) (f : Cluster → Cluster) : (s.modCluster k f).scrubbed = s.scrubbed := rfl
@[simp] theorem State.modCluster_stalled (s : State) (k : Nat) (f : Cluster → Cluster) : (s.modCluster k f).stalled = s.stalled := rfl
@[simp] theorem State.modCluster_deepMetaErr (s : State) (k : Nat) (f : Cluster → Cluster) : (s.modCluster k f).deepMetaErr = s.deepMetaErr := rfl
@[simp] theorem State.modCluster_strikes (s : State) (k : Nat) (f : Cluster → Cluster) : (s.modCluster k f).strikes = s.strikes := rfl
@[simp] theorem State.modCluster_late (s : State) (k : Nat) (f : Cluster → Cluster) : (s.modCluster k f).late = s.late := rfl
@[simp] theorem State.modCluster_walks (s : State) (k : Nat) (f : Cluster → Cluster) : (s.modCluster k f).walks = s.walks := rfl
@[simp] theorem State.modCluster_bgenSet (s : State) (k : Nat) (f : Cluster → Cluster) : (s.modCluster k f).bgenSet = s.bgenSet := rfl
@[simp] theorem State.modCluster_regionsSet (s : State) (k : Nat) (f : Cluster → Cluster) : (s.modCluster k f).regionsSet = s.regionsSet := rfl
@[simp] theorem State.modCluster_preemptedOn (s : State) (k : Nat) (f : Cluster → Cluster) : (s.modCluster k f).preemptedOn = s.preemptedOn := rfl
@[simp] theorem State.modCluster_exitedOn (s : State) (k : Nat) (f : Cluster → Cluster) : (s.modCluster k f).exitedOn = s.exitedOn := rfl

@[simp] theorem State.setMreg_cycle (s : State) (off : Nat) (v : Word) : (s.setMreg off v).cycle = s.cycle := rfl
@[simp] theorem State.setMreg_agenda (s : State) (off : Nat) (v : Word) : (s.setMreg off v).agenda = s.agenda := rfl
@[simp] theorem State.setMreg_inputs (s : State) (off : Nat) (v : Word) : (s.setMreg off v).inputs = s.inputs := rfl
@[simp] theorem State.setMreg_delays (s : State) (off : Nat) (v : Word) : (s.setMreg off v).delays = s.delays := rfl
@[simp] theorem State.setMreg_freeCount (s : State) (off : Nat) (v : Word) : (s.setMreg off v).freeCount = s.freeCount := rfl
@[simp] theorem State.setMreg_seqNo (s : State) (off : Nat) (v : Word) : (s.setMreg off v).seqNo = s.seqNo := rfl
@[simp] theorem State.setMreg_cur (s : State) (off : Nat) (v : Word) : (s.setMreg off v).cur = s.cur := rfl
@[simp] theorem State.setMreg_issued (s : State) (off : Nat) (v : Word) : (s.setMreg off v).issued = s.issued := rfl
@[simp] theorem State.setMreg_powered (s : State) (off : Nat) (v : Word) : (s.setMreg off v).powered = s.powered := rfl
@[simp] theorem State.setMreg_slots (s : State) (off : Nat) (v : Word) : (s.setMreg off v).slots = s.slots := rfl
@[simp] theorem State.setMreg_cores (s : State) (off : Nat) (v : Word) : (s.setMreg off v).cores = s.cores := rfl
@[simp] theorem State.setMreg_clusters (s : State) (off : Nat) (v : Word) : (s.setMreg off v).clusters = s.clusters := rfl
@[simp] theorem State.setMreg_deep (s : State) (off : Nat) (v : Word) : (s.setMreg off v).deep = s.deep := rfl
@[simp] theorem State.setMreg_deepMeta (s : State) (off : Nat) (v : Word) : (s.setMreg off v).deepMeta = s.deepMeta := rfl
@[simp] theorem State.setMreg_deepErr (s : State) (off : Nat) (v : Word) : (s.setMreg off v).deepErr = s.deepErr := rfl
@[simp] theorem State.setMreg_host (s : State) (off : Nat) (v : Word) : (s.setMreg off v).host = s.host := rfl
@[simp] theorem State.setMreg_remote (s : State) (off : Nat) (v : Word) : (s.setMreg off v).remote = s.remote := rfl
@[simp] theorem State.setMreg_rom (s : State) (off : Nat) (v : Word) : (s.setMreg off v).rom = s.rom := rfl
@[simp] theorem State.setMreg_windowBase (s : State) (off : Nat) (v : Word) : (s.setMreg off v).windowBase = s.windowBase := rfl
@[simp] theorem State.setMreg_measurement (s : State) (off : Nat) (v : Word) : (s.setMreg off v).measurement = s.measurement := rfl
@[simp] theorem State.setMreg_vcc (s : State) (off : Nat) (v : Word) : (s.setMreg off v).vcc = s.vcc := rfl
@[simp] theorem State.setMreg_ticks (s : State) (off : Nat) (v : Word) : (s.setMreg off v).ticks = s.ticks := rfl
@[simp] theorem State.setMreg_holdsVcc (s : State) (off : Nat) (v : Word) : (s.setMreg off v).holdsVcc = s.holdsVcc := rfl
@[simp] theorem State.setMreg_frameCtr (s : State) (off : Nat) (v : Word) : (s.setMreg off v).frameCtr = s.frameCtr := rfl
@[simp] theorem State.setMreg_frame (s : State) (off : Nat) (v : Word) : (s.setMreg off v).frame = s.frame := rfl
@[simp] theorem State.setMreg_slips (s : State) (off : Nat) (v : Word) : (s.setMreg off v).slips = s.slips := rfl
@[simp] theorem State.setMreg_slipTail (s : State) (off : Nat) (v : Word) : (s.setMreg off v).slipTail = s.slipTail := rfl
@[simp] theorem State.setMreg_skipTail (s : State) (off : Nat) (v : Word) : (s.setMreg off v).skipTail = s.skipTail := rfl
@[simp] theorem State.setMreg_kvTails (s : State) (off : Nat) (v : Word) : (s.setMreg off v).kvTails = s.kvTails := rfl
@[simp] theorem State.setMreg_slipping (s : State) (off : Nat) (v : Word) : (s.setMreg off v).slipping = s.slipping := rfl
@[simp] theorem State.setMreg_bufs (s : State) (off : Nat) (v : Word) : (s.setMreg off v).bufs = s.bufs := rfl
@[simp] theorem State.setMreg_segs (s : State) (off : Nat) (v : Word) : (s.setMreg off v).segs = s.segs := rfl
@[simp] theorem State.setMreg_lastHeader (s : State) (off : Nat) (v : Word) : (s.setMreg off v).lastHeader = s.lastHeader := rfl
@[simp] theorem State.setMreg_anyHeader (s : State) (off : Nat) (v : Word) : (s.setMreg off v).anyHeader = s.anyHeader := rfl
@[simp] theorem State.setMreg_codeTabs (s : State) (off : Nat) (v : Word) : (s.setMreg off v).codeTabs = s.codeTabs := rfl
@[simp] theorem State.setMreg_parks (s : State) (off : Nat) (v : Word) : (s.setMreg off v).parks = s.parks := rfl
@[simp] theorem State.setMreg_scopes (s : State) (off : Nat) (v : Word) : (s.setMreg off v).scopes = s.scopes := rfl
@[simp] theorem State.setMreg_phasers (s : State) (off : Nat) (v : Word) : (s.setMreg off v).phasers = s.phasers := rfl
@[simp] theorem State.setMreg_members (s : State) (off : Nat) (v : Word) : (s.setMreg off v).members = s.members := rfl
@[simp] theorem State.setMreg_phWait (s : State) (off : Nat) (v : Word) : (s.setMreg off v).phWait = s.phWait := rfl
@[simp] theorem State.setMreg_dormant (s : State) (off : Nat) (v : Word) : (s.setMreg off v).dormant = s.dormant := rfl
@[simp] theorem State.setMreg_ring (s : State) (off : Nat) (v : Word) : (s.setMreg off v).ring = s.ring := rfl
@[simp] theorem State.setMreg_swap (s : State) (off : Nat) (v : Word) : (s.setMreg off v).swap = s.swap := rfl
@[simp] theorem State.setMreg_dispatch (s : State) (off : Nat) (v : Word) : (s.setMreg off v).dispatch = s.dispatch := rfl
@[simp] theorem State.setMreg_launches (s : State) (off : Nat) (v : Word) : (s.setMreg off v).launches = s.launches := rfl
@[simp] theorem State.setMreg_cursors (s : State) (off : Nat) (v : Word) : (s.setMreg off v).cursors = s.cursors := rfl
@[simp] theorem State.setMreg_snap (s : State) (off : Nat) (v : Word) : (s.setMreg off v).snap = s.snap := rfl
@[simp] theorem State.setMreg_snapAt (s : State) (off : Nat) (v : Word) : (s.setMreg off v).snapAt = s.snapAt := rfl
@[simp] theorem State.setMreg_snapRegs (s : State) (off : Nat) (v : Word) : (s.setMreg off v).snapRegs = s.snapRegs := rfl
@[simp] theorem State.setMreg_undo (s : State) (off : Nat) (v : Word) : (s.setMreg off v).undo = s.undo := rfl
@[simp] theorem State.setMreg_interval (s : State) (off : Nat) (v : Word) : (s.setMreg off v).interval = s.interval := rfl
@[simp] theorem State.setMreg_scrubbed (s : State) (off : Nat) (v : Word) : (s.setMreg off v).scrubbed = s.scrubbed := rfl
@[simp] theorem State.setMreg_stalled (s : State) (off : Nat) (v : Word) : (s.setMreg off v).stalled = s.stalled := rfl
@[simp] theorem State.setMreg_deepMetaErr (s : State) (off : Nat) (v : Word) : (s.setMreg off v).deepMetaErr = s.deepMetaErr := rfl
@[simp] theorem State.setMreg_strikes (s : State) (off : Nat) (v : Word) : (s.setMreg off v).strikes = s.strikes := rfl
@[simp] theorem State.setMreg_late (s : State) (off : Nat) (v : Word) : (s.setMreg off v).late = s.late := rfl
@[simp] theorem State.setMreg_walks (s : State) (off : Nat) (v : Word) : (s.setMreg off v).walks = s.walks := rfl
@[simp] theorem State.setMreg_bgenSet (s : State) (off : Nat) (v : Word) : (s.setMreg off v).bgenSet = s.bgenSet := rfl
@[simp] theorem State.setMreg_regionsSet (s : State) (off : Nat) (v : Word) : (s.setMreg off v).regionsSet = s.regionsSet := rfl
@[simp] theorem State.setMreg_preemptedOn (s : State) (off : Nat) (v : Word) : (s.setMreg off v).preemptedOn = s.preemptedOn := rfl
@[simp] theorem State.setMreg_exitedOn (s : State) (off : Nat) (v : Word) : (s.setMreg off v).exitedOn = s.exitedOn := rfl

@[simp] theorem State.mark_cycle (s : State)  : (s.mark).cycle = s.cycle := rfl
@[simp] theorem State.mark_agenda (s : State)  : (s.mark).agenda = s.agenda := rfl
@[simp] theorem State.mark_inputs (s : State)  : (s.mark).inputs = s.inputs := rfl
@[simp] theorem State.mark_delays (s : State)  : (s.mark).delays = s.delays := rfl
@[simp] theorem State.mark_freeCount (s : State)  : (s.mark).freeCount = s.freeCount := rfl
@[simp] theorem State.mark_seqNo (s : State)  : (s.mark).seqNo = s.seqNo := rfl
@[simp] theorem State.mark_cur (s : State)  : (s.mark).cur = s.cur := rfl
@[simp] theorem State.mark_powered (s : State)  : (s.mark).powered = s.powered := rfl
@[simp] theorem State.mark_slots (s : State)  : (s.mark).slots = s.slots := rfl
@[simp] theorem State.mark_cores (s : State)  : (s.mark).cores = s.cores := rfl
@[simp] theorem State.mark_clusters (s : State)  : (s.mark).clusters = s.clusters := rfl
@[simp] theorem State.mark_deep (s : State)  : (s.mark).deep = s.deep := rfl
@[simp] theorem State.mark_deepMeta (s : State)  : (s.mark).deepMeta = s.deepMeta := rfl
@[simp] theorem State.mark_deepErr (s : State)  : (s.mark).deepErr = s.deepErr := rfl
@[simp] theorem State.mark_host (s : State)  : (s.mark).host = s.host := rfl
@[simp] theorem State.mark_remote (s : State)  : (s.mark).remote = s.remote := rfl
@[simp] theorem State.mark_rom (s : State)  : (s.mark).rom = s.rom := rfl
@[simp] theorem State.mark_windowBase (s : State)  : (s.mark).windowBase = s.windowBase := rfl
@[simp] theorem State.mark_mgmt (s : State)  : (s.mark).mgmt = s.mgmt := rfl
@[simp] theorem State.mark_measurement (s : State)  : (s.mark).measurement = s.measurement := rfl
@[simp] theorem State.mark_vcc (s : State)  : (s.mark).vcc = s.vcc := rfl
@[simp] theorem State.mark_ticks (s : State)  : (s.mark).ticks = s.ticks := rfl
@[simp] theorem State.mark_holdsVcc (s : State)  : (s.mark).holdsVcc = s.holdsVcc := rfl
@[simp] theorem State.mark_frameCtr (s : State)  : (s.mark).frameCtr = s.frameCtr := rfl
@[simp] theorem State.mark_frame (s : State)  : (s.mark).frame = s.frame := rfl
@[simp] theorem State.mark_slips (s : State)  : (s.mark).slips = s.slips := rfl
@[simp] theorem State.mark_slipTail (s : State)  : (s.mark).slipTail = s.slipTail := rfl
@[simp] theorem State.mark_skipTail (s : State)  : (s.mark).skipTail = s.skipTail := rfl
@[simp] theorem State.mark_kvTails (s : State)  : (s.mark).kvTails = s.kvTails := rfl
@[simp] theorem State.mark_slipping (s : State)  : (s.mark).slipping = s.slipping := rfl
@[simp] theorem State.mark_bufs (s : State)  : (s.mark).bufs = s.bufs := rfl
@[simp] theorem State.mark_segs (s : State)  : (s.mark).segs = s.segs := rfl
@[simp] theorem State.mark_lastHeader (s : State)  : (s.mark).lastHeader = s.lastHeader := rfl
@[simp] theorem State.mark_anyHeader (s : State)  : (s.mark).anyHeader = s.anyHeader := rfl
@[simp] theorem State.mark_codeTabs (s : State)  : (s.mark).codeTabs = s.codeTabs := rfl
@[simp] theorem State.mark_parks (s : State)  : (s.mark).parks = s.parks := rfl
@[simp] theorem State.mark_scopes (s : State)  : (s.mark).scopes = s.scopes := rfl
@[simp] theorem State.mark_phasers (s : State)  : (s.mark).phasers = s.phasers := rfl
@[simp] theorem State.mark_members (s : State)  : (s.mark).members = s.members := rfl
@[simp] theorem State.mark_phWait (s : State)  : (s.mark).phWait = s.phWait := rfl
@[simp] theorem State.mark_dormant (s : State)  : (s.mark).dormant = s.dormant := rfl
@[simp] theorem State.mark_ring (s : State)  : (s.mark).ring = s.ring := rfl
@[simp] theorem State.mark_swap (s : State)  : (s.mark).swap = s.swap := rfl
@[simp] theorem State.mark_dispatch (s : State)  : (s.mark).dispatch = s.dispatch := rfl
@[simp] theorem State.mark_launches (s : State)  : (s.mark).launches = s.launches := rfl
@[simp] theorem State.mark_cursors (s : State)  : (s.mark).cursors = s.cursors := rfl
@[simp] theorem State.mark_snap (s : State)  : (s.mark).snap = s.snap := rfl
@[simp] theorem State.mark_snapAt (s : State)  : (s.mark).snapAt = s.snapAt := rfl
@[simp] theorem State.mark_snapRegs (s : State)  : (s.mark).snapRegs = s.snapRegs := rfl
@[simp] theorem State.mark_undo (s : State)  : (s.mark).undo = s.undo := rfl
@[simp] theorem State.mark_interval (s : State)  : (s.mark).interval = s.interval := rfl
@[simp] theorem State.mark_scrubbed (s : State)  : (s.mark).scrubbed = s.scrubbed := rfl
@[simp] theorem State.mark_stalled (s : State)  : (s.mark).stalled = s.stalled := rfl
@[simp] theorem State.mark_deepMetaErr (s : State)  : (s.mark).deepMetaErr = s.deepMetaErr := rfl
@[simp] theorem State.mark_strikes (s : State)  : (s.mark).strikes = s.strikes := rfl
@[simp] theorem State.mark_late (s : State)  : (s.mark).late = s.late := rfl
@[simp] theorem State.mark_walks (s : State)  : (s.mark).walks = s.walks := rfl
@[simp] theorem State.mark_bgenSet (s : State)  : (s.mark).bgenSet = s.bgenSet := rfl
@[simp] theorem State.mark_regionsSet (s : State)  : (s.mark).regionsSet = s.regionsSet := rfl
@[simp] theorem State.mark_preemptedOn (s : State)  : (s.mark).preemptedOn = s.preemptedOn := rfl
@[simp] theorem State.mark_exitedOn (s : State)  : (s.mark).exitedOn = s.exitedOn := rfl

/-! ### A slot's fields under an update of one role -/

@[simp] theorem Slot.setRole_strand (x : Slot) (r : Role) (c : RoleCtx) : (x.setRole r c).strand = x.strand := by cases r <;> rfl
@[simp] theorem Slot.setRole_queues (x : Slot) (r : Role) (c : RoleCtx) : (x.setRole r c).queues = x.queues := by cases r <;> rfl
@[simp] theorem Slot.setRole_qraw (x : Slot) (r : Role) (c : RoleCtx) : (x.setRole r c).qraw = x.qraw := by cases r <;> rfl
@[simp] theorem Slot.setRole_tokens (x : Slot) (r : Role) (c : RoleCtx) : (x.setRole r c).tokens = x.tokens := by cases r <;> rfl
@[simp] theorem Slot.setRole_tokPend (x : Slot) (r : Role) (c : RoleCtx) : (x.setRole r c).tokPend = x.tokPend := by cases r <;> rfl
@[simp] theorem Slot.setRole_rows (x : Slot) (r : Role) (c : RoleCtx) : (x.setRole r c).rows = x.rows := by cases r <;> rfl
@[simp] theorem Slot.setRole_rowTag (x : Slot) (r : Role) (c : RoleCtx) : (x.setRole r c).rowTag = x.rowTag := by cases r <;> rfl
@[simp] theorem Slot.setRole_rowStale (x : Slot) (r : Role) (c : RoleCtx) : (x.setRole r c).rowStale = x.rowStale := by cases r <;> rfl
@[simp] theorem Slot.setRole_masks (x : Slot) (r : Role) (c : RoleCtx) : (x.setRole r c).masks = x.masks := by cases r <;> rfl
@[simp] theorem Slot.setRole_preds (x : Slot) (r : Role) (c : RoleCtx) : (x.setRole r c).preds = x.preds := by cases r <;> rfl
@[simp] theorem Slot.setRole_tiles (x : Slot) (r : Role) (c : RoleCtx) : (x.setRole r c).tiles = x.tiles := by cases r <;> rfl
@[simp] theorem Slot.setRole_tileTag (x : Slot) (r : Role) (c : RoleCtx) : (x.setRole r c).tileTag = x.tileTag := by cases r <;> rfl
@[simp] theorem Slot.setRole_tileStale (x : Slot) (r : Role) (c : RoleCtx) : (x.setRole r c).tileStale = x.tileStale := by cases r <;> rfl
@[simp] theorem Slot.setRole_key (x : Slot) (r : Role) (c : RoleCtx) : (x.setRole r c).key = x.key := by cases r <;> rfl
@[simp] theorem Slot.setRole_keyTag (x : Slot) (r : Role) (c : RoleCtx) : (x.setRole r c).keyTag = x.keyTag := by cases r <;> rfl
@[simp] theorem Slot.setRole_keyPart (x : Slot) (r : Role) (c : RoleCtx) : (x.setRole r c).keyPart = x.keyPart := by cases r <;> rfl
@[simp] theorem Slot.setRole_keyStale (x : Slot) (r : Role) (c : RoleCtx) : (x.setRole r c).keyStale = x.keyStale := by cases r <;> rfl
@[simp] theorem Slot.setRole_opRegs (x : Slot) (r : Role) (c : RoleCtx) : (x.setRole r c).opRegs = x.opRegs := by cases r <;> rfl
@[simp] theorem Slot.setRole_dphaser (x : Slot) (r : Role) (c : RoleCtx) : (x.setRole r c).dphaser = x.dphaser := by cases r <;> rfl
@[simp] theorem Slot.setRole_ctl (x : Slot) (r : Role) (c : RoleCtx) : (x.setRole r c).ctl = x.ctl := by cases r <;> rfl
@[simp] theorem Slot.setRole_domain (x : Slot) (r : Role) (c : RoleCtx) : (x.setRole r c).domain = x.domain := by cases r <;> rfl
@[simp] theorem Slot.setRole_halted (x : Slot) (r : Role) (c : RoleCtx) : (x.setRole r c).halted = x.halted := by cases r <;> rfl
@[simp] theorem Slot.setRole_halting (x : Slot) (r : Role) (c : RoleCtx) : (x.setRole r c).halting = x.halting := by cases r <;> rfl
@[simp] theorem Slot.setRole_journal (x : Slot) (r : Role) (c : RoleCtx) : (x.setRole r c).journal = x.journal := by cases r <;> rfl
@[simp] theorem Slot.setRole_lift (x : Slot) (r : Role) (c : RoleCtx) : (x.setRole r c).lift = x.lift := by cases r <;> rfl
@[simp] theorem Slot.setRole_saveArea (x : Slot) (r : Role) (c : RoleCtx) : (x.setRole r c).saveArea = x.saveArea := by cases r <;> rfl
@[simp] theorem Slot.setRole_susp (x : Slot) (r : Role) (c : RoleCtx) : (x.setRole r c).susp = x.susp := by cases r <;> rfl
@[simp] theorem Slot.setRole_block (x : Slot) (r : Role) (c : RoleCtx) : (x.setRole r c).block = x.block := by cases r <;> rfl
@[simp] theorem Slot.setRole_holds (x : Slot) (r : Role) (c : RoleCtx) : (x.setRole r c).holds = x.holds := by cases r <;> rfl
@[simp] theorem Slot.setRole_drops (x : Slot) (r : Role) (c : RoleCtx) : (x.setRole r c).drops = x.drops := by cases r <;> rfl
@[simp] theorem Slot.setRole_trap (x : Slot) (r : Role) (c : RoleCtx) : (x.setRole r c).trap = x.trap := by cases r <;> rfl
@[simp] theorem Slot.setRole_pending (x : Slot) (r : Role) (c : RoleCtx) : (x.setRole r c).pending = x.pending := by cases r <;> rfl
@[simp] theorem Slot.setRole_handlers (x : Slot) (r : Role) (c : RoleCtx) : (x.setRole r c).handlers = x.handlers := by cases r <;> rfl
@[simp] theorem Slot.setRole_stored (x : Slot) (r : Role) (c : RoleCtx) : (x.setRole r c).stored = x.stored := by cases r <;> rfl
@[simp] theorem Slot.setRole_draining (x : Slot) (r : Role) (c : RoleCtx) : (x.setRole r c).draining = x.draining := by cases r <;> rfl
@[simp] theorem Slot.setRole_victimOf (x : Slot) (r : Role) (c : RoleCtx) : (x.setRole r c).victimOf = x.victimOf := by cases r <;> rfl
@[simp] theorem Slot.setRole_kill (x : Slot) (r : Role) (c : RoleCtx) : (x.setRole r c).kill = x.kill := by cases r <;> rfl
@[simp] theorem Slot.setRole_progress (x : Slot) (r : Role) (c : RoleCtx) : (x.setRole r c).progress = x.progress := by cases r <;> rfl
@[simp] theorem Slot.setRole_hangIndex (x : Slot) (r : Role) (c : RoleCtx) : (x.setRole r c).hangIndex = x.hangIndex := by cases r <;> rfl
@[simp] theorem Slot.setRole_hangRec (x : Slot) (r : Role) (c : RoleCtx) : (x.setRole r c).hangRec = x.hangRec := by cases r <;> rfl
@[simp] theorem Slot.setRole_ctlNext (x : Slot) (r : Role) (c : RoleCtx) : (x.setRole r c).ctlNext = x.ctlNext := by cases r <;> rfl
@[simp] theorem Slot.setRole_domNext (x : Slot) (r : Role) (c : RoleCtx) : (x.setRole r c).domNext = x.domNext := by cases r <;> rfl
@[simp] theorem Slot.setRole_hangNext (x : Slot) (r : Role) (c : RoleCtx) : (x.setRole r c).hangNext = x.hangNext := by cases r <;> rfl
@[simp] theorem Slot.setRole_reissued (x : Slot) (r : Role) (c : RoleCtx) : (x.setRole r c).reissued = x.reissued := by cases r <;> rfl
@[simp] theorem Slot.setRole_moved (x : Slot) (r : Role) (c : RoleCtx) : (x.setRole r c).moved = x.moved := by cases r <;> rfl
@[simp] theorem Slot.setRole_rowErr (x : Slot) (r : Role) (c : RoleCtx) : (x.setRole r c).rowErr = x.rowErr := by cases r <;> rfl
@[simp] theorem Slot.setRole_tileErr (x : Slot) (r : Role) (c : RoleCtx) : (x.setRole r c).tileErr = x.tileErr := by cases r <;> rfl
@[simp] theorem Slot.setRole_unfailed (x : Slot) (r : Role) (c : RoleCtx) : (x.setRole r c).unfailed = x.unfailed := by cases r <;> rfl

@[simp] theorem Slot.modRole_strand (x : Slot) (r : Role) (f : RoleCtx → RoleCtx) : (x.modRole r f).strand = x.strand := by
  cases r <;> rfl
@[simp] theorem Slot.modRole_queues (x : Slot) (r : Role) (f : RoleCtx → RoleCtx) : (x.modRole r f).queues = x.queues := by
  cases r <;> rfl
@[simp] theorem Slot.modRole_qraw (x : Slot) (r : Role) (f : RoleCtx → RoleCtx) : (x.modRole r f).qraw = x.qraw := by
  cases r <;> rfl
@[simp] theorem Slot.modRole_tokens (x : Slot) (r : Role) (f : RoleCtx → RoleCtx) : (x.modRole r f).tokens = x.tokens := by
  cases r <;> rfl
@[simp] theorem Slot.modRole_tokPend (x : Slot) (r : Role) (f : RoleCtx → RoleCtx) : (x.modRole r f).tokPend = x.tokPend := by
  cases r <;> rfl
@[simp] theorem Slot.modRole_rows (x : Slot) (r : Role) (f : RoleCtx → RoleCtx) : (x.modRole r f).rows = x.rows := by
  cases r <;> rfl
@[simp] theorem Slot.modRole_rowTag (x : Slot) (r : Role) (f : RoleCtx → RoleCtx) : (x.modRole r f).rowTag = x.rowTag := by
  cases r <;> rfl
@[simp] theorem Slot.modRole_rowStale (x : Slot) (r : Role) (f : RoleCtx → RoleCtx) : (x.modRole r f).rowStale = x.rowStale := by
  cases r <;> rfl
@[simp] theorem Slot.modRole_masks (x : Slot) (r : Role) (f : RoleCtx → RoleCtx) : (x.modRole r f).masks = x.masks := by
  cases r <;> rfl
@[simp] theorem Slot.modRole_preds (x : Slot) (r : Role) (f : RoleCtx → RoleCtx) : (x.modRole r f).preds = x.preds := by
  cases r <;> rfl
@[simp] theorem Slot.modRole_tiles (x : Slot) (r : Role) (f : RoleCtx → RoleCtx) : (x.modRole r f).tiles = x.tiles := by
  cases r <;> rfl
@[simp] theorem Slot.modRole_tileTag (x : Slot) (r : Role) (f : RoleCtx → RoleCtx) : (x.modRole r f).tileTag = x.tileTag := by
  cases r <;> rfl
@[simp] theorem Slot.modRole_tileStale (x : Slot) (r : Role) (f : RoleCtx → RoleCtx) : (x.modRole r f).tileStale = x.tileStale := by
  cases r <;> rfl
@[simp] theorem Slot.modRole_key (x : Slot) (r : Role) (f : RoleCtx → RoleCtx) : (x.modRole r f).key = x.key := by
  cases r <;> rfl
@[simp] theorem Slot.modRole_keyTag (x : Slot) (r : Role) (f : RoleCtx → RoleCtx) : (x.modRole r f).keyTag = x.keyTag := by
  cases r <;> rfl
@[simp] theorem Slot.modRole_keyPart (x : Slot) (r : Role) (f : RoleCtx → RoleCtx) : (x.modRole r f).keyPart = x.keyPart := by
  cases r <;> rfl
@[simp] theorem Slot.modRole_keyStale (x : Slot) (r : Role) (f : RoleCtx → RoleCtx) : (x.modRole r f).keyStale = x.keyStale := by
  cases r <;> rfl
@[simp] theorem Slot.modRole_opRegs (x : Slot) (r : Role) (f : RoleCtx → RoleCtx) : (x.modRole r f).opRegs = x.opRegs := by
  cases r <;> rfl
@[simp] theorem Slot.modRole_dphaser (x : Slot) (r : Role) (f : RoleCtx → RoleCtx) : (x.modRole r f).dphaser = x.dphaser := by
  cases r <;> rfl
@[simp] theorem Slot.modRole_ctl (x : Slot) (r : Role) (f : RoleCtx → RoleCtx) : (x.modRole r f).ctl = x.ctl := by
  cases r <;> rfl
@[simp] theorem Slot.modRole_domain (x : Slot) (r : Role) (f : RoleCtx → RoleCtx) : (x.modRole r f).domain = x.domain := by
  cases r <;> rfl
@[simp] theorem Slot.modRole_halted (x : Slot) (r : Role) (f : RoleCtx → RoleCtx) : (x.modRole r f).halted = x.halted := by
  cases r <;> rfl
@[simp] theorem Slot.modRole_halting (x : Slot) (r : Role) (f : RoleCtx → RoleCtx) : (x.modRole r f).halting = x.halting := by
  cases r <;> rfl
@[simp] theorem Slot.modRole_journal (x : Slot) (r : Role) (f : RoleCtx → RoleCtx) : (x.modRole r f).journal = x.journal := by
  cases r <;> rfl
@[simp] theorem Slot.modRole_lift (x : Slot) (r : Role) (f : RoleCtx → RoleCtx) : (x.modRole r f).lift = x.lift := by
  cases r <;> rfl
@[simp] theorem Slot.modRole_saveArea (x : Slot) (r : Role) (f : RoleCtx → RoleCtx) : (x.modRole r f).saveArea = x.saveArea := by
  cases r <;> rfl
@[simp] theorem Slot.modRole_susp (x : Slot) (r : Role) (f : RoleCtx → RoleCtx) : (x.modRole r f).susp = x.susp := by
  cases r <;> rfl
@[simp] theorem Slot.modRole_block (x : Slot) (r : Role) (f : RoleCtx → RoleCtx) : (x.modRole r f).block = x.block := by
  cases r <;> rfl
@[simp] theorem Slot.modRole_holds (x : Slot) (r : Role) (f : RoleCtx → RoleCtx) : (x.modRole r f).holds = x.holds := by
  cases r <;> rfl
@[simp] theorem Slot.modRole_drops (x : Slot) (r : Role) (f : RoleCtx → RoleCtx) : (x.modRole r f).drops = x.drops := by
  cases r <;> rfl
@[simp] theorem Slot.modRole_trap (x : Slot) (r : Role) (f : RoleCtx → RoleCtx) : (x.modRole r f).trap = x.trap := by
  cases r <;> rfl
@[simp] theorem Slot.modRole_pending (x : Slot) (r : Role) (f : RoleCtx → RoleCtx) : (x.modRole r f).pending = x.pending := by
  cases r <;> rfl
@[simp] theorem Slot.modRole_handlers (x : Slot) (r : Role) (f : RoleCtx → RoleCtx) : (x.modRole r f).handlers = x.handlers := by
  cases r <;> rfl
@[simp] theorem Slot.modRole_stored (x : Slot) (r : Role) (f : RoleCtx → RoleCtx) : (x.modRole r f).stored = x.stored := by
  cases r <;> rfl
@[simp] theorem Slot.modRole_draining (x : Slot) (r : Role) (f : RoleCtx → RoleCtx) : (x.modRole r f).draining = x.draining := by
  cases r <;> rfl
@[simp] theorem Slot.modRole_victimOf (x : Slot) (r : Role) (f : RoleCtx → RoleCtx) : (x.modRole r f).victimOf = x.victimOf := by
  cases r <;> rfl
@[simp] theorem Slot.modRole_kill (x : Slot) (r : Role) (f : RoleCtx → RoleCtx) : (x.modRole r f).kill = x.kill := by
  cases r <;> rfl
@[simp] theorem Slot.modRole_progress (x : Slot) (r : Role) (f : RoleCtx → RoleCtx) : (x.modRole r f).progress = x.progress := by
  cases r <;> rfl
@[simp] theorem Slot.modRole_hangIndex (x : Slot) (r : Role) (f : RoleCtx → RoleCtx) : (x.modRole r f).hangIndex = x.hangIndex := by
  cases r <;> rfl
@[simp] theorem Slot.modRole_hangRec (x : Slot) (r : Role) (f : RoleCtx → RoleCtx) : (x.modRole r f).hangRec = x.hangRec := by
  cases r <;> rfl
@[simp] theorem Slot.modRole_ctlNext (x : Slot) (r : Role) (f : RoleCtx → RoleCtx) : (x.modRole r f).ctlNext = x.ctlNext := by
  cases r <;> rfl
@[simp] theorem Slot.modRole_domNext (x : Slot) (r : Role) (f : RoleCtx → RoleCtx) : (x.modRole r f).domNext = x.domNext := by
  cases r <;> rfl
@[simp] theorem Slot.modRole_hangNext (x : Slot) (r : Role) (f : RoleCtx → RoleCtx) : (x.modRole r f).hangNext = x.hangNext := by
  cases r <;> rfl
@[simp] theorem Slot.modRole_reissued (x : Slot) (r : Role) (f : RoleCtx → RoleCtx) : (x.modRole r f).reissued = x.reissued := by
  cases r <;> rfl
@[simp] theorem Slot.modRole_moved (x : Slot) (r : Role) (f : RoleCtx → RoleCtx) : (x.modRole r f).moved = x.moved := by
  cases r <;> rfl
@[simp] theorem Slot.modRole_rowErr (x : Slot) (r : Role) (f : RoleCtx → RoleCtx) : (x.modRole r f).rowErr = x.rowErr := by
  cases r <;> rfl
@[simp] theorem Slot.modRole_tileErr (x : Slot) (r : Role) (f : RoleCtx → RoleCtx) : (x.modRole r f).tileErr = x.tileErr := by
  cases r <;> rfl
@[simp] theorem Slot.modRole_unfailed (x : Slot) (r : Role) (f : RoleCtx → RoleCtx) : (x.modRole r f).unfailed = x.unfailed := by
  cases r <;> rfl

@[simp] theorem Slot.modRoles_strand (x : Slot) (f : RoleCtx → RoleCtx) : (x.modRoles f).strand = x.strand := rfl
@[simp] theorem Slot.modRoles_queues (x : Slot) (f : RoleCtx → RoleCtx) : (x.modRoles f).queues = x.queues := rfl
@[simp] theorem Slot.modRoles_qraw (x : Slot) (f : RoleCtx → RoleCtx) : (x.modRoles f).qraw = x.qraw := rfl
@[simp] theorem Slot.modRoles_tokens (x : Slot) (f : RoleCtx → RoleCtx) : (x.modRoles f).tokens = x.tokens := rfl
@[simp] theorem Slot.modRoles_tokPend (x : Slot) (f : RoleCtx → RoleCtx) : (x.modRoles f).tokPend = x.tokPend := rfl
@[simp] theorem Slot.modRoles_rows (x : Slot) (f : RoleCtx → RoleCtx) : (x.modRoles f).rows = x.rows := rfl
@[simp] theorem Slot.modRoles_rowTag (x : Slot) (f : RoleCtx → RoleCtx) : (x.modRoles f).rowTag = x.rowTag := rfl
@[simp] theorem Slot.modRoles_rowStale (x : Slot) (f : RoleCtx → RoleCtx) : (x.modRoles f).rowStale = x.rowStale := rfl
@[simp] theorem Slot.modRoles_masks (x : Slot) (f : RoleCtx → RoleCtx) : (x.modRoles f).masks = x.masks := rfl
@[simp] theorem Slot.modRoles_preds (x : Slot) (f : RoleCtx → RoleCtx) : (x.modRoles f).preds = x.preds := rfl
@[simp] theorem Slot.modRoles_tiles (x : Slot) (f : RoleCtx → RoleCtx) : (x.modRoles f).tiles = x.tiles := rfl
@[simp] theorem Slot.modRoles_tileTag (x : Slot) (f : RoleCtx → RoleCtx) : (x.modRoles f).tileTag = x.tileTag := rfl
@[simp] theorem Slot.modRoles_tileStale (x : Slot) (f : RoleCtx → RoleCtx) : (x.modRoles f).tileStale = x.tileStale := rfl
@[simp] theorem Slot.modRoles_key (x : Slot) (f : RoleCtx → RoleCtx) : (x.modRoles f).key = x.key := rfl
@[simp] theorem Slot.modRoles_keyTag (x : Slot) (f : RoleCtx → RoleCtx) : (x.modRoles f).keyTag = x.keyTag := rfl
@[simp] theorem Slot.modRoles_keyPart (x : Slot) (f : RoleCtx → RoleCtx) : (x.modRoles f).keyPart = x.keyPart := rfl
@[simp] theorem Slot.modRoles_keyStale (x : Slot) (f : RoleCtx → RoleCtx) : (x.modRoles f).keyStale = x.keyStale := rfl
@[simp] theorem Slot.modRoles_opRegs (x : Slot) (f : RoleCtx → RoleCtx) : (x.modRoles f).opRegs = x.opRegs := rfl
@[simp] theorem Slot.modRoles_dphaser (x : Slot) (f : RoleCtx → RoleCtx) : (x.modRoles f).dphaser = x.dphaser := rfl
@[simp] theorem Slot.modRoles_ctl (x : Slot) (f : RoleCtx → RoleCtx) : (x.modRoles f).ctl = x.ctl := rfl
@[simp] theorem Slot.modRoles_domain (x : Slot) (f : RoleCtx → RoleCtx) : (x.modRoles f).domain = x.domain := rfl
@[simp] theorem Slot.modRoles_halted (x : Slot) (f : RoleCtx → RoleCtx) : (x.modRoles f).halted = x.halted := rfl
@[simp] theorem Slot.modRoles_halting (x : Slot) (f : RoleCtx → RoleCtx) : (x.modRoles f).halting = x.halting := rfl
@[simp] theorem Slot.modRoles_journal (x : Slot) (f : RoleCtx → RoleCtx) : (x.modRoles f).journal = x.journal := rfl
@[simp] theorem Slot.modRoles_lift (x : Slot) (f : RoleCtx → RoleCtx) : (x.modRoles f).lift = x.lift := rfl
@[simp] theorem Slot.modRoles_saveArea (x : Slot) (f : RoleCtx → RoleCtx) : (x.modRoles f).saveArea = x.saveArea := rfl
@[simp] theorem Slot.modRoles_susp (x : Slot) (f : RoleCtx → RoleCtx) : (x.modRoles f).susp = x.susp := rfl
@[simp] theorem Slot.modRoles_block (x : Slot) (f : RoleCtx → RoleCtx) : (x.modRoles f).block = x.block := rfl
@[simp] theorem Slot.modRoles_holds (x : Slot) (f : RoleCtx → RoleCtx) : (x.modRoles f).holds = x.holds := rfl
@[simp] theorem Slot.modRoles_drops (x : Slot) (f : RoleCtx → RoleCtx) : (x.modRoles f).drops = x.drops := rfl
@[simp] theorem Slot.modRoles_trap (x : Slot) (f : RoleCtx → RoleCtx) : (x.modRoles f).trap = x.trap := rfl
@[simp] theorem Slot.modRoles_pending (x : Slot) (f : RoleCtx → RoleCtx) : (x.modRoles f).pending = x.pending := rfl
@[simp] theorem Slot.modRoles_handlers (x : Slot) (f : RoleCtx → RoleCtx) : (x.modRoles f).handlers = x.handlers := rfl
@[simp] theorem Slot.modRoles_stored (x : Slot) (f : RoleCtx → RoleCtx) : (x.modRoles f).stored = x.stored := rfl
@[simp] theorem Slot.modRoles_draining (x : Slot) (f : RoleCtx → RoleCtx) : (x.modRoles f).draining = x.draining := rfl
@[simp] theorem Slot.modRoles_victimOf (x : Slot) (f : RoleCtx → RoleCtx) : (x.modRoles f).victimOf = x.victimOf := rfl
@[simp] theorem Slot.modRoles_kill (x : Slot) (f : RoleCtx → RoleCtx) : (x.modRoles f).kill = x.kill := rfl
@[simp] theorem Slot.modRoles_progress (x : Slot) (f : RoleCtx → RoleCtx) : (x.modRoles f).progress = x.progress := rfl
@[simp] theorem Slot.modRoles_hangIndex (x : Slot) (f : RoleCtx → RoleCtx) : (x.modRoles f).hangIndex = x.hangIndex := rfl
@[simp] theorem Slot.modRoles_hangRec (x : Slot) (f : RoleCtx → RoleCtx) : (x.modRoles f).hangRec = x.hangRec := rfl
@[simp] theorem Slot.modRoles_ctlNext (x : Slot) (f : RoleCtx → RoleCtx) : (x.modRoles f).ctlNext = x.ctlNext := rfl
@[simp] theorem Slot.modRoles_domNext (x : Slot) (f : RoleCtx → RoleCtx) : (x.modRoles f).domNext = x.domNext := rfl
@[simp] theorem Slot.modRoles_hangNext (x : Slot) (f : RoleCtx → RoleCtx) : (x.modRoles f).hangNext = x.hangNext := rfl
@[simp] theorem Slot.modRoles_reissued (x : Slot) (f : RoleCtx → RoleCtx) : (x.modRoles f).reissued = x.reissued := rfl
@[simp] theorem Slot.modRoles_moved (x : Slot) (f : RoleCtx → RoleCtx) : (x.modRoles f).moved = x.moved := rfl
@[simp] theorem Slot.modRoles_rowErr (x : Slot) (f : RoleCtx → RoleCtx) : (x.modRoles f).rowErr = x.rowErr := rfl
@[simp] theorem Slot.modRoles_tileErr (x : Slot) (f : RoleCtx → RoleCtx) : (x.modRoles f).tileErr = x.tileErr := rfl
@[simp] theorem Slot.modRoles_unfailed (x : Slot) (f : RoleCtx → RoleCtx) : (x.modRoles f).unfailed = x.unfailed := rfl

@[simp] theorem Slot.role_setRole_self (x : Slot) (r : Role) (c : RoleCtx) : (x.setRole r c).role r = c := by cases r <;> rfl

theorem Slot.role_setRole_ne (x : Slot) {r q : Role} (h : q ≠ r) (c : RoleCtx) : (x.setRole r c).role q = x.role q := by
  cases r <;> cases q <;> first | rfl | exact absurd rfl h

@[simp] theorem Slot.role_modRole_self (x : Slot) (r : Role) (f : RoleCtx → RoleCtx) : (x.modRole r f).role r = f (x.role r) := by
  cases r <;> rfl

theorem Slot.role_modRole_ne (x : Slot) {r q : Role} (h : q ≠ r) (f : RoleCtx → RoleCtx) :
    (x.modRole r f).role q = x.role q := by
  cases r <;> cases q <;> first | rfl | exact absurd rfl h

@[simp] theorem Slot.role_modRoles (x : Slot) (r : Role) (f : RoleCtx → RoleCtx) : (x.modRoles f).role r = f (x.role r) := by
  cases r <;> rfl

@[simp] theorem Slot.timed_setRole (x : Slot) (r : Role) (c : RoleCtx) : (x.setRole r c).timed = x.timed := by cases r <;> rfl

@[simp] theorem Slot.timed_modRole (x : Slot) (r : Role) (f : RoleCtx → RoleCtx) : (x.modRole r f).timed = x.timed := by
  cases r <;> rfl

@[simp] theorem Slot.timed_modRoles (x : Slot) (f : RoleCtx → RoleCtx) : (x.modRoles f).timed = x.timed := rfl

/-! ### Reads after updates -/

@[simp] theorem State.slot_setSlot_self (s : State) (k : Nat) (x : Slot) : (s.setSlot k x).slot k = x := by
  simp [State.slot, State.setSlot]

theorem State.slot_setSlot_ne (s : State) {k j : Nat} (h : j ≠ k) (x : Slot) : (s.setSlot k x).slot j = s.slot j := by
  simp [State.slot, State.setSlot, Sp.get_set_ne _ h]

@[simp] theorem State.slot_modSlot_self (s : State) (k : Nat) (f : Slot → Slot) : (s.modSlot k f).slot k = f (s.slot k) := by
  simp [State.modSlot]

theorem State.slot_modSlot_ne (s : State) {k j : Nat} (h : j ≠ k) (f : Slot → Slot) : (s.modSlot k f).slot j = s.slot j :=
  s.slot_setSlot_ne h _

@[simp] theorem State.role_modRole_self (s : State) (k : Nat) (r : Role) (f : RoleCtx → RoleCtx) :
    (s.modRole k r f).role k r = f (s.role k r) := by simp [State.modRole, State.role]

theorem State.role_modRole_ne (s : State) {k j : Nat} {r q : Role} (h : j ≠ k ∨ q ≠ r) (f : RoleCtx → RoleCtx) :
    (s.modRole k r f).role j q = s.role j q := by
  unfold State.modRole State.role
  by_cases hj : j = k
  · subst hj
    rw [State.slot_modSlot_self, Slot.role_modRole_ne _ (h.resolve_left (by simp))]
  · rw [State.slot_modSlot_ne _ hj]

@[simp] theorem State.core_modCore_self (s : State) (k : Nat) (f : Core → Core) : (s.modCore k f).core k = f (s.core k) := by
  simp [State.core, State.modCore]

theorem State.core_modCore_ne (s : State) {k j : Nat} (h : j ≠ k) (f : Core → Core) : (s.modCore k f).core j = s.core j := by
  simp [State.core, State.modCore, Sp.get_set_ne _ h]

@[simp] theorem State.cluster_modCluster_self (s : State) (k : Nat) (f : Cluster → Cluster) :
    (s.modCluster k f).cluster k = f (s.cluster k) := by simp [State.cluster, State.modCluster]

theorem State.cluster_modCluster_ne (s : State) {k j : Nat} (h : j ≠ k) (f : Cluster → Cluster) :
    (s.modCluster k f).cluster j = s.cluster j := by simp [State.cluster, State.modCluster, Sp.get_set_ne _ h]

@[simp] theorem State.mreg_setMreg_self (s : State) (k : Nat) (v : Word) : (s.setMreg k v).mreg k = v := by
  simp [State.mreg, State.setMreg]

theorem State.mreg_setMreg_ne (s : State) {k j : Nat} (h : j ≠ k) (v : Word) : (s.setMreg k v).mreg j = s.mreg j := by
  simp [State.mreg, State.setMreg, Sp.get_put_ne _ h]

@[simp] theorem State.core_setSlot (s : State) (j : Nat) (k : Nat) (x : Slot) : (s.setSlot k x).core j = s.core j := rfl
@[simp] theorem State.cluster_setSlot (s : State) (j : Nat) (k : Nat) (x : Slot) : (s.setSlot k x).cluster j = s.cluster j := rfl
@[simp] theorem State.mreg_setSlot (s : State) (j : Nat) (k : Nat) (x : Slot) : (s.setSlot k x).mreg j = s.mreg j := rfl
@[simp] theorem State.core_modSlot (s : State) (j : Nat) (k : Nat) (f : Slot → Slot) : (s.modSlot k f).core j = s.core j := rfl
@[simp] theorem State.cluster_modSlot (s : State) (j : Nat) (k : Nat) (f : Slot → Slot) : (s.modSlot k f).cluster j = s.cluster j := rfl
@[simp] theorem State.mreg_modSlot (s : State) (j : Nat) (k : Nat) (f : Slot → Slot) : (s.modSlot k f).mreg j = s.mreg j := rfl
@[simp] theorem State.core_modRole (s : State) (j : Nat) (k : Nat) (r : Role) (f : RoleCtx → RoleCtx) : (s.modRole k r f).core j = s.core j := rfl
@[simp] theorem State.cluster_modRole (s : State) (j : Nat) (k : Nat) (r : Role) (f : RoleCtx → RoleCtx) : (s.modRole k r f).cluster j = s.cluster j := rfl
@[simp] theorem State.mreg_modRole (s : State) (j : Nat) (k : Nat) (r : Role) (f : RoleCtx → RoleCtx) : (s.modRole k r f).mreg j = s.mreg j := rfl
@[simp] theorem State.core_modMe (s : State) (j : Nat) (f : RoleCtx → RoleCtx) : (s.modMe f).core j = s.core j := rfl
@[simp] theorem State.cluster_modMe (s : State) (j : Nat) (f : RoleCtx → RoleCtx) : (s.modMe f).cluster j = s.cluster j := rfl
@[simp] theorem State.mreg_modMe (s : State) (j : Nat) (f : RoleCtx → RoleCtx) : (s.modMe f).mreg j = s.mreg j := rfl
@[simp] theorem State.slot_modCore (s : State) (j : Nat) (k : Nat) (f : Core → Core) : (s.modCore k f).slot j = s.slot j := rfl
@[simp] theorem State.cluster_modCore (s : State) (j : Nat) (k : Nat) (f : Core → Core) : (s.modCore k f).cluster j = s.cluster j := rfl
@[simp] theorem State.mreg_modCore (s : State) (j : Nat) (k : Nat) (f : Core → Core) : (s.modCore k f).mreg j = s.mreg j := rfl
@[simp] theorem State.slot_modCluster (s : State) (j : Nat) (k : Nat) (f : Cluster → Cluster) : (s.modCluster k f).slot j = s.slot j := rfl
@[simp] theorem State.core_modCluster (s : State) (j : Nat) (k : Nat) (f : Cluster → Cluster) : (s.modCluster k f).core j = s.core j := rfl
@[simp] theorem State.mreg_modCluster (s : State) (j : Nat) (k : Nat) (f : Cluster → Cluster) : (s.modCluster k f).mreg j = s.mreg j := rfl
@[simp] theorem State.slot_setMreg (s : State) (j : Nat) (off : Nat) (v : Word) : (s.setMreg off v).slot j = s.slot j := rfl
@[simp] theorem State.core_setMreg (s : State) (j : Nat) (off : Nat) (v : Word) : (s.setMreg off v).core j = s.core j := rfl
@[simp] theorem State.cluster_setMreg (s : State) (j : Nat) (off : Nat) (v : Word) : (s.setMreg off v).cluster j = s.cluster j := rfl
@[simp] theorem State.slot_mark (s : State) (j : Nat)  : (s.mark).slot j = s.slot j := rfl
@[simp] theorem State.core_mark (s : State) (j : Nat)  : (s.mark).core j = s.core j := rfl
@[simp] theorem State.cluster_mark (s : State) (j : Nat)  : (s.mark).cluster j = s.cluster j := rfl
@[simp] theorem State.mreg_mark (s : State) (j : Nat)  : (s.mark).mreg j = s.mreg j := rfl

@[simp] theorem State.me_setSlot (s : State) (k : Nat) (x : Slot) : (s.setSlot k x).me = s.me := rfl
@[simp] theorem State.me_modSlot (s : State) (k : Nat) (f : Slot → Slot) : (s.modSlot k f).me = s.me := rfl
@[simp] theorem State.me_modRole (s : State) (k : Nat) (r : Role) (f : RoleCtx → RoleCtx) : (s.modRole k r f).me = s.me := rfl
@[simp] theorem State.me_modMe (s : State) (f : RoleCtx → RoleCtx) : (s.modMe f).me = s.me := rfl
@[simp] theorem State.me_modCore (s : State) (k : Nat) (f : Core → Core) : (s.modCore k f).me = s.me := rfl
@[simp] theorem State.me_modCluster (s : State) (k : Nat) (f : Cluster → Cluster) : (s.modCluster k f).me = s.me := rfl
@[simp] theorem State.me_setMreg (s : State) (off : Nat) (v : Word) : (s.setMreg off v).me = s.me := rfl
@[simp] theorem State.me_mark (s : State)  : (s.mark).me = s.me := rfl
@[simp] theorem State.myRole_modCore (s : State) (k : Nat) (f : Core → Core) : (s.modCore k f).myRole = s.myRole := rfl
@[simp] theorem State.clock_modCore (s : State) (j : Nat) (k : Nat) (f : Core → Core) : (s.modCore k f).clock j = s.clock j := rfl
@[simp] theorem State.myRole_modCluster (s : State) (k : Nat) (f : Cluster → Cluster) : (s.modCluster k f).myRole = s.myRole := rfl
@[simp] theorem State.clock_modCluster (s : State) (j : Nat) (k : Nat) (f : Cluster → Cluster) : (s.modCluster k f).clock j = s.clock j := rfl
@[simp] theorem State.myRole_setMreg (s : State) (off : Nat) (v : Word) : (s.setMreg off v).myRole = s.myRole := rfl
@[simp] theorem State.clock_setMreg (s : State) (j : Nat) (off : Nat) (v : Word) : (s.setMreg off v).clock j = s.clock j := rfl
@[simp] theorem State.myRole_mark (s : State)  : (s.mark).myRole = s.myRole := rfl
@[simp] theorem State.clock_mark (s : State) (j : Nat)  : (s.mark).clock j = s.clock j := rfl

@[simp] theorem State.myRole_modMe (s : State) (f : RoleCtx → RoleCtx) : (s.modMe f).myRole = f s.myRole :=
  s.role_modRole_self s.me s.cur.role f

/-- An update of a slot that keeps its strand keeps every slot's clock. -/
theorem State.clock_modSlot (s : State) (k j : Nat) (f : Slot → Slot) (h : (f (s.slot k)).timed = (s.slot k).timed) :
    (s.modSlot k f).clock j = s.clock j := by
  unfold State.clock
  by_cases hj : j = k
  · subst hj; simp [h]
  · rw [State.slot_modSlot_ne _ hj]; rfl

@[simp] theorem State.clock_modRole (s : State) (k j : Nat) (r : Role) (f : RoleCtx → RoleCtx) :
    (s.modRole k r f).clock j = s.clock j := s.clock_modSlot k j _ (by simp)

@[simp] theorem State.clock_modMe (s : State) (j : Nat) (f : RoleCtx → RoleCtx) : (s.modMe f).clock j = s.clock j :=
  s.clock_modRole _ _ _ _

end Sys2Proof.Machine
end

