-- ==== Sys2Proof/Laws/Gate.lean ====
section
/-! SUPPORT. What the shared operations of issuing do: landing, the gate, operands, results, retiring; each said once, for later
proofs to cite. -/

namespace Sys2Proof.Machine

/-! ### Setting twice -/

theorem Sp_set_set {α : Type} (m : Sp α) (k : Nat) (v w : α) : (m.set k v).set k w = m.set k w := by
  induction m with
  | nil => simp [Sp.set]
  | cons e r ih =>
    obtain ⟨j, x⟩ := e
    simp only [Sp.set]
    split_ifs with h1 h2
    · simp [Sp.set]
    · simp [Sp.set]
    · simp [Sp.set, h1, h2, ih]

@[simp] theorem State.setSlot_setSlot (s : State) (k : Nat) (x y : Slot) : (s.setSlot k x).setSlot k y = s.setSlot k y := by
  simp [State.setSlot, Sp_set_set]

theorem State.modSlot_modSlot (s : State) (k : Nat) (f g : Slot → Slot) :
    (s.modSlot k f).modSlot k g = s.modSlot k (fun x => g (f x)) := by simp [State.modSlot]

/-! ### Landing -/

@[simp] theorem found_me (s : State) : s.found.me = s.me := rfl
@[simp] theorem found_cur (s : State) : s.found.cur = s.cur := rfl
@[simp] theorem found_vcc (s : State) : s.found.vcc = s.vcc := rfl
@[simp] theorem found_issued (s : State) : s.found.issued = s.issued := rfl

@[simp] theorem found_timed (s : State) (k : Nat) : (s.found.slot k).timed = (s.slot k).timed := by
  unfold State.found landSlot
  by_cases h : k = s.me
  · subst h; simp [Slot.timed, Slot.modRoles]
  · rw [State.slot_modSlot_ne _ h]

@[simp] theorem found_clock (s : State) (k : Nat) : s.found.clock k = s.clock k := by
  simp only [State.clock, found_timed]; rfl

@[simp] theorem found_now (s : State) : s.found.now = s.now := found_clock s s.me

/-- Landing a value writes registers and flags, nothing else of the role. -/
theorem land_form (c : RoleCtx) (d : Dst) (v : Word) : ∃ regs flags, c.land d v = { c with regs := regs, flags := flags } := by
  cases d <;> unfold RoleCtx.land <;> dsimp only
  · split
    · exact ⟨c.regs, c.flags, rfl⟩
    · exact ⟨_, c.flags, rfl⟩
  · exact ⟨c.regs, _, rfl⟩

/-- So does landing a list of values, of any kind. -/
theorem foldl_land_form {α : Type} (l : List α) (d : α → Dst) (v : α → Word) (c : RoleCtx) :
    ∃ regs flags, l.foldl (fun (acc : RoleCtx) p => acc.land (d p) (v p)) c = { c with regs := regs, flags := flags } := by
  induction l generalizing c with
  | nil => exact ⟨c.regs, c.flags, rfl⟩
  | cons p r ih =>
    obtain ⟨x, y, e⟩ := land_form c (d p) (v p)
    obtain ⟨regs, flags, h⟩ := ih (c.land (d p) (v p))
    exact ⟨regs, flags, by rw [List.foldl_cons, h, e]⟩

/-- What is due lands in registers and flags and leaves the lists; the rest of the role stays. -/
theorem landDue_form (c : RoleCtx) (n : Nat) :
    ∃ regs flags pend vpend, c.landDue n = { c with regs := regs, flags := flags, pend := pend, vpend := vpend } := by
  unfold RoleCtx.landDue RoleCtx.settle
  dsimp only
  obtain ⟨r1, f1, h1⟩ := foldl_land_form (c.pend.filter (fun p => decide (p.due < n))) Pend.dst Pend.val c
  rw [h1]
  dsimp only
  obtain ⟨r2, f2, h2⟩ := foldl_land_form (c.vpend.filter (fun p => p.late.arrived n)) VPend.dst (fun p => p.late.val)
    { c with
      regs := r1, flags := f1,
      pend := (c.pend.filter (fun p => !decide (p.due < n))).filter (fun p =>
        !(c.vpend.filter (fun p => p.late.arrived n)).any (fun v => v.dst = p.dst)) }
  rw [h2]
  exact ⟨r2, f2, _, _, rfl⟩

theorem Slot.role_queues (x : Slot) (r : Role) (l : Sp (List QEntry)) : ({ x with queues := l }).role r = x.role r := by
  cases r <;> rfl

theorem found_myRole (s : State) : s.found.myRole = RoleCtx.landDue
    { s.myRole with vpend := s.myRole.vpend.map (fun p => { p with late := p.late.bind s s.me }) } s.now := by
  unfold State.found landSlot State.myRole State.role
  rw [State.me_modSlot, State.modSlot_cur, State.slot_modSlot_self, Slot.role_queues, Slot.role_modRoles]
  rfl

/-- What the issuing role finds differs from its context in registers, flags and writes under way alone. -/
theorem found_form (s : State) :
    ∃ regs flags pend vpend, s.found.myRole = { s.myRole with regs := regs, flags := flags, pend := pend, vpend := vpend } := by
  rw [found_myRole]
  obtain ⟨r, f, p, v, h⟩ := landDue_form
    { s.myRole with vpend := s.myRole.vpend.map (fun p => { p with late := p.late.bind s s.me }) } s.now
  exact ⟨r, f, p, v, h⟩

@[simp] theorem found_pc (s : State) : s.found.myRole.pc = s.myRole.pc := by obtain ⟨_, _, _, _, h⟩ := found_form s; rw [h]
@[simp] theorem found_nul (s : State) : s.found.myRole.nul = s.myRole.nul := by obtain ⟨_, _, _, _, h⟩ := found_form s; rw [h]
@[simp] theorem found_link (s : State) : s.found.myRole.link = s.myRole.link := by obtain ⟨_, _, _, _, h⟩ := found_form s; rw [h]
@[simp] theorem found_sup (s : State) : s.found.myRole.sup = s.myRole.sup := by obtain ⟨_, _, _, _, h⟩ := found_form s; rw [h]

/-- Landing leaves every memory. -/
theorem found_bytes (s : State) (p : Place) (n : Nat) : rawRead s.found p n = rawRead s p n := by
  cases p with
  | window o =>
    have h : ∀ k, (s.found.slot k).halted = (s.slot k).halted := by
      intro k
      unfold State.found landSlot
      by_cases hk : k = s.me
      · subst hk; simp
      · rw [State.slot_modSlot_ne _ hk]
    simp only [rawRead, State.windowRead, h]
    rfl
  | _ => rfl

@[simp] theorem found_spad (s : State) (k : Nat) : s.found.core k = s.core k := rfl
@[simp] theorem found_cluster (s : State) (k : Nat) : s.found.cluster k = s.cluster k := rfl

/-- The chain's next address depends on the role's own address and chain link alone. -/
@[simp] theorem linkOf_found (s : State) (i : Instr) : linkOf s.found.myRole i = linkOf s.myRole i := by
  unfold linkOf; rw [found_pc, found_link]

@[simp] theorem popList_found (s : State) (u : Use) : popList s.found u = popList s u := rfl

/-! ### The gate and the operands -/

/-- Where the role is free and the first checks pass, an instruction's body decides. -/
theorem gate_runs (i : Instr) (chk3 : Bool) (roles : Role → Bool) (sup : Bool) (null : State → State) (body : State → Did)
    (s : State) (hf : Free s) (h3 : chk3 = true) (hr : roles s.cur.role = true) (hs : sup = true → s.myRole.sup = true) :
    gate i chk3 roles sup null body s = (body s.found).close i := by
  have h2 : (sup && !s.myRole.sup) = false := by
    cases hsup : sup
    · rfl
    · simp [hs hsup]
  unfold gate
  rw [hf.1]
  simp only [h3, hr, h2, hf.2, State.found, Bool.not_true, Bool.or_self, Bool.false_eq_true, if_false, ne_eq,
    not_true_eq_false]

/-- A role that may not run an instruction, or an operand limit that fails, takes ILL with the instruction's words. -/
theorem gate_ill (i : Instr) (chk3 : Bool) (roles : Role → Bool) (sup : Bool) (null : State → State) (body : State → Did)
    (s : State) (hb : blockedBy s s.me s.cur.role = none) (h : (!chk3 || !roles s.cur.role) = true) :
    gate i chk3 roles sup null body s = (s.trapNow 1 (wordsOf i)).mark := by
  unfold gate; rw [hb]; simp only [h, if_true]

/-- A user role takes PRIV at a privileged instruction. -/
theorem gate_priv (i : Instr) (chk3 : Bool) (roles : Role → Bool) (null : State → State) (body : State → Did)
    (s : State) (hb : blockedBy s s.me s.cur.role = none) (h3 : chk3 = true) (hr : roles s.cur.role = true)
    (hu : s.myRole.sup = false) :
    gate i chk3 roles true null body s = (s.trapNow 2 (wordsOf i)).mark := by
  unfold gate; rw [hb]; simp [h3, hr, hu]

/-- A nullified instruction retires with the window one shorter. -/
theorem gate_nullified (i : Instr) (chk3 : Bool) (roles : Role → Bool) (sup : Bool) (null : State → State)
    (body : State → Did) (s : State) (hn : Nullified s) (h3 : chk3 = true) (hr : roles s.cur.role = true)
    (hs : sup = true → s.myRole.sup = true) :
    gate i chk3 roles sup null body s = retire i (s.myRole.nul - 1) (null s) := by
  have h2 : (sup && !s.myRole.sup) = false := by
    cases hsup : sup
    · rfl
    · simp [hs hsup]
  unfold gate
  rw [hn.1]
  simp only [h3, hr, h2, hn.2, Bool.not_true, Bool.or_self, Bool.false_eq_true, if_false, if_true, ne_eq,
    not_false_eq_true]

/-- A role that may not take its next instruction does not issue. -/
theorem gate_blocked (i : Instr) (chk3 : Bool) (roles : Role → Bool) (sup : Bool) (null : State → State)
    (body : State → Did) (s : State) (why : Nat) (h : blockedBy s s.me s.cur.role = some why) :
    gate i chk3 roles sup null body s = s.blocked why := by unfold gate; rw [h]

/-- With operands and a place for the result, the body runs on the source values. -/
theorem operands_runs (u : Use) (body : List Word → State → Did) (s : State) (h : Supplied u s) :
    operands u body s.found =
      (body (sourceVals s.found u.srcs (if u.early then s.now - 1 else s.now) []) s.found).popped u := by
  obtain ⟨h1, h2, h3, h4, h5⟩ := h
  have hm : mendPops s.found u = s.found := by unfold mendPops; rw [h5]; rfl
  have h4' : ((s.found.slot s.found.me).ctl.getLsbD 0 && stallHazard s.found u) = false := by
    cases hc : (s.found.slot s.me).ctl.getLsbD 0
    · rw [found_me, hc]; rfl
    · rw [h4 hc, Bool.and_false]
  unfold operands
  simp only [h1, h2, h3, hm, h4', Bool.false_eq_true, if_false, Bool.not_true]
  rw [show s.found.clock s.found.me = s.now from found_now s]

/-! ### Updates that only an issue makes -/

/-- An update of the issuing slot that keeps its bare part keeps the bare state. -/
theorem bare_modSlot (s : State) (f : Slot → Slot)
    (h : Slot.bare s.cur.role (f (s.slot s.me)) = Slot.bare s.cur.role (s.slot s.me)) : bare (s.modSlot s.me f) = bare s := by
  unfold bare
  rw [State.me_modSlot, State.modSlot_cur, State.modSlot_modSlot]
  have : s.modSlot s.me (fun x => Slot.bare s.cur.role (f x)) = s.modSlot s.me (Slot.bare s.cur.role) := by
    unfold State.modSlot; simp only [h]
  rw [this]

theorem bare_mark (s : State) : bare s.mark = bare s := rfl

theorem Slot.bare_modRole (x : Slot) (r : Role) (f : RoleCtx → RoleCtx) (h : (f (x.role r)).bare = (x.role r).bare) :
    Slot.bare r (x.modRole r f) = Slot.bare r x := by
  cases r <;> simp_all [Slot.bare, Slot.modRole, Slot.setRole, Slot.role]

/-- An update of the issuing role that keeps its bare part keeps the bare state. -/
theorem bare_modMe (s : State) (f : RoleCtx → RoleCtx) (h : (f s.myRole).bare = s.myRole.bare) : bare (s.modMe f) = bare s :=
  bare_modSlot s _ (Slot.bare_modRole _ _ _ h)

theorem bare_setQueue (s : State) (q : Nat) (l : List QEntry) : bare (setQueue s s.me q l) = bare s :=
  bare_modSlot s _ (by cases s.cur.role <;> rfl)

/-! ### Queues -/

@[simp] theorem me_setQueue (s : State) (k q : Nat) (l : List QEntry) : (setQueue s k q l).me = s.me := rfl
@[simp] theorem cur_setQueue (s : State) (k q : Nat) (l : List QEntry) : (setQueue s k q l).cur = s.cur := rfl
@[simp] theorem vcc_setQueue (s : State) (k q : Nat) (l : List QEntry) : (setQueue s k q l).vcc = s.vcc := rfl
@[simp] theorem clock_setQueue (s : State) (k j q : Nat) (l : List QEntry) : (setQueue s k q l).clock j = s.clock j :=
  s.clock_modSlot k j _ rfl

@[simp] theorem myRole_setQueue (s : State) (q : Nat) (l : List QEntry) : (setQueue s s.me q l).myRole = s.myRole := by
  unfold setQueue State.myRole State.role
  rw [State.me_modSlot, State.modSlot_cur, State.slot_modSlot_self]
  cases s.cur.role <;> rfl

@[simp] theorem block_setQueue (s : State) (k q : Nat) (l : List QEntry) :
    ((setQueue s k q l).slot k).block = (s.slot k).block := by simp [setQueue]

theorem queue_setQueue (s : State) (k q j : Nat) (l : List QEntry) :
    (setQueue s k q l).queue k j = if j = q then l else s.queue k j := by
  simp [setQueue, State.queue, Sp.get_put]

theorem bytes_modSlot (s : State) (k : Nat) (f : Slot → Slot) (h : (f (s.slot k)).halted = (s.slot k).halted) (p : Place) :
    rawRead (s.modSlot k f) p 1 = rawRead s p 1 := by
  cases p with
  | window o =>
    have hh : ∀ j, ((s.modSlot k f).slot j).halted = (s.slot j).halted := by
      intro j
      by_cases hj : j = k
      · subst hj; simp [h]
      · rw [State.slot_modSlot_ne _ hj]
    simp only [rawRead, State.windowRead, hh]
    rfl
  | _ => rfl

theorem rawRead_mark (s : State) (p : Place) (n : Nat) : rawRead s.mark p n = rawRead s p n := by cases p <;> rfl

theorem bytes_modMe (s : State) (f : RoleCtx → RoleCtx) (p : Place) : rawRead (s.modMe f) p 1 = rawRead s p 1 :=
  bytes_modSlot s s.me _ (by simp) p

theorem bytes_setQueue (s : State) (k q : Nat) (l : List QEntry) (p : Place) :
    rawRead (setQueue s k q l) p 1 = rawRead s p 1 := bytes_modSlot s k _ rfl p

/-- The pops of a list of queues. -/
def pops (l : List Nat) (s : State) : State :=
  l.foldl (fun acc q => setQueue acc acc.me q ((acc.queue acc.me q).drop 1)) s

theorem popAll_eq (s : State) (u : Use) : popAll s u = pops (popList s u) s := rfl

/-- What popping the queues of a list leaves: the issuing role, the blocks, the bytes; each popped queue loses its head as often as it
is popped. -/
structure Popped (l : List Nat) (s t : State) : Prop where
  me : t.me = s.me
  cur : t.cur = s.cur
  vcc : t.vcc = s.vcc
  clock : ∀ k, t.clock k = s.clock k
  role : t.myRole = s.myRole
  block : (t.slot s.me).block = (s.slot s.me).block
  rest : bare t = bare s
  bytes : ∀ p, rawRead t p 1 = rawRead s p 1
  queue : ∀ q, t.queue s.me q = (s.queue s.me q).drop (l.count q)

theorem Popped.cons {a : Nat} {r : List Nat} {s t : State}
    (h : Popped r (setQueue s s.me a ((s.queue s.me a).drop 1)) t) : Popped (a :: r) s t where
  me := by simpa using h.me
  cur := by simpa using h.cur
  vcc := by simpa using h.vcc
  clock := by simpa using h.clock
  role := by simpa using h.role
  block := by simpa using h.block
  rest := h.rest.trans (bare_setQueue _ _ _)
  bytes := by simpa [bytes_setQueue] using h.bytes
  queue q := by
    have hq := h.queue q
    rw [me_setQueue, queue_setQueue] at hq
    rw [hq]
    by_cases hqa : q = a
    · subst hqa; simp
    · rw [List.count_cons_of_ne (Ne.symm hqa)]; simp [hqa]

theorem pops_spec (l : List Nat) (s : State) : Popped l s (pops l s) := by
  induction l generalizing s with
  | nil => exact ⟨rfl, rfl, rfl, fun _ => rfl, rfl, rfl, rfl, fun _ => rfl, fun _ => rfl⟩
  | cons a r ih => exact (ih _).cons

/-! ### Retiring -/

theorem counted_bare (o : Option Block) (v r : Nat) (ws : List InstrWord) :
    (o.map (Block.counted v r ws)).map Block.bare = o.map Block.bare := by
  cases o with
  | none => rfl
  | some b => simp only [Option.map_some, Block.counted]; split_ifs <;> rfl

theorem Slot.bare_progress (x : Slot) (r : Role) : Slot.bare r { x with progress := 0, moved := true } = Slot.bare r x := by cases r <;> rfl

theorem Slot.bare_block (x : Slot) (r : Role) (o : Option Block) (h : o.map Block.bare = x.block.map Block.bare) :
    Slot.bare r { x with block := o } = Slot.bare r x := by
  have e : ∀ y : Slot, Slot.bare r y = { (y.modRole r RoleCtx.bare) with
      queues := [], progress := 0, moved := false, block := y.block.map Block.bare } := fun _ => rfl
  rw [e x, ← h]
  cases r <;> rfl

theorem Slot.role_block (x : Slot) (r : Role) (o : Option Block) : ({ x with block := o }).role r = x.role r := by
  cases r <;> rfl

theorem Slot.retired_role (x : Slot) (r : Role) (pc : BitVec 32) (nul next : Nat) :
    (x.retired r pc nul next).role r = (x.role r).retired pc nul next := by cases r <;> rfl

theorem Slot.retired_block (x : Slot) (r : Role) (pc : BitVec 32) (nul next : Nat) :
    (x.retired r pc nul next).block = x.block := by cases r <;> rfl

theorem Slot.retired_queues (x : Slot) (r : Role) (pc : BitVec 32) (nul next : Nat) :
    (x.retired r pc nul next).queues = x.queues := by cases r <;> rfl

theorem Slot.retired_halted (x : Slot) (r : Role) (pc : BitVec 32) (nul next : Nat) :
    (x.retired r pc nul next).halted = x.halted := by cases r <;> rfl

theorem Slot.bare_retired (x : Slot) (r : Role) (pc : BitVec 32) (nul next : Nat) :
    Slot.bare r (x.retired r pc nul next) = Slot.bare r x := by
  unfold Slot.retired
  rw [Slot.bare_progress]
  exact Slot.bare_modRole x r _ rfl

theorem retireTo_eq (i : Instr) (pc : BitVec 32) (nul : Nat) (s : State) :
    retireTo i pc nul s = (s.modSlot s.me (fun x =>
      Slot.retired { x with block := x.block.map (Block.counted s.vcc (roleNum s.cur.role) (wordList i)) } s.cur.role pc nul
        (s.now + 1 + stallOf i))).mark := by
  unfold retireTo blockWords
  rw [State.modSlot_modSlot]; rfl

/-- What retiring does: the role goes on at `pc` with its stall count, the words enter the block, the mark is set; registers, writes
under way, queues, bytes and all else stay. -/
theorem retireTo_spec (i : Instr) (pc : BitVec 32) (nul : Nat) (s : State) :
    (retireTo i pc nul s).issued = true ∧ (retireTo i pc nul s).cur = s.cur ∧
      (retireTo i pc nul s).myRole = s.myRole.retired pc nul (s.now + 1 + stallOf i) ∧
      ((retireTo i pc nul s).slot s.me).block =
        (s.slot s.me).block.map (Block.counted s.vcc (roleNum s.cur.role) (wordList i)) ∧
      (∀ q, (retireTo i pc nul s).queue s.me q = s.queue s.me q) ∧ bare (retireTo i pc nul s) = bare s ∧
      ∀ p, rawRead (retireTo i pc nul s) p 1 = rawRead s p 1 := by
  rw [retireTo_eq]
  refine ⟨rfl, rfl, ?_, ?_, fun q => ?_, ?_, fun p => ?_⟩
  · unfold State.myRole State.role
    rw [State.slot_mark, State.me_mark, State.me_modSlot, State.mark_cur, State.modSlot_cur, State.slot_modSlot_self,
      Slot.retired_role, Slot.role_block]
  · rw [State.slot_mark, State.slot_modSlot_self]
    exact Slot.retired_block _ _ _ _ _
  · unfold State.queue
    rw [State.slot_mark, State.slot_modSlot_self, Slot.retired_queues]
  · rw [bare_mark]
    refine bare_modSlot s _ ?_
    rw [Slot.bare_retired]
    exact Slot.bare_block _ _ _ (counted_bare _ _ _ _)
  · have h : (Slot.retired { s.slot s.me with
        block := (s.slot s.me).block.map (Block.counted s.vcc (roleNum s.cur.role) (wordList i)) }
        s.cur.role pc nul (s.now + 1 + stallOf i)).halted = (s.slot s.me).halted := Slot.retired_halted _ _ _ _ _
    rw [rawRead_mark]
    exact bytes_modSlot s s.me _ h p

end Sys2Proof.Machine
end

