-- ==== Sys2Proof/Laws/Memory.lean ====
section
/-! SUPPORT. What the operations on the stores do to the memories: each keeps the canonical form, and a plain write of bytes
reads back and leaves every other store alone. -/

namespace Sys2Proof.Machine

/-! ### The form as a law about the four stores -/

theorem canonical_reset : State.reset.canonical :=
  ⟨rfl, rfl, fun _ h => absurd h List.not_mem_nil, fun _ h => absurd h List.not_mem_nil⟩

/-- What a sparse map answers satisfies what its entries and the default do. -/
theorem Sp.get_of {α : Type} (P : α → Prop) {m : Sp α} {d : α} (k : Nat) (hd : P d) (h : ∀ e ∈ m, P e.2) : P (m.get k d) := by
  induction m with
  | nil => exact hd
  | cons e r ih =>
    unfold Sp.get
    split <;> with_reducible first | exact h _ List.mem_cons_self | exact ih (fun e he => h e (List.mem_cons_of_mem _ he))

/-- A change that leaves the four stores alone keeps the canonical form. -/
theorem State.canonical.same {s t : State} (h : s.canonical) (hd : t.deep = s.deep := by rfl) (hh : t.host = s.host := by rfl)
    (hr : t.remote = s.remote := by rfl) (hc : t.cores = s.cores := by rfl) : t.canonical := by
  unfold State.canonical; rw [hd, hh, hr, hc]; exact h

/-- A new deep store is as canonical as it is by itself. -/
theorem State.canonical.deepTo {s t : State} (h : s.canonical) (hd : t.deep.wf = true) (hh : t.host = s.host := by rfl)
    (hr : t.remote = s.remote := by rfl) (hc : t.cores = s.cores := by rfl) : t.canonical := by
  unfold State.canonical; rw [hh, hr, hc]; exact ⟨hd, h.2⟩

/-- The scratchpad of each core is canonical where all of them are. -/
theorem State.canonical.spad {s : State} (h : s.canonical) (k : Nat) : (s.core k).spad.wf = true :=
  Sp.get_of (fun c : Core => c.spad.wf = true) k rfl h.2.2.2

/-- The memory of another package is canonical where all of them are. -/
theorem State.canonical.far {s : State} (h : s.canonical) (k : Nat) : Mem.wf (s.remote.get k []) = true :=
  Sp.get_of (fun m : Mem => m.wf = true) k rfl h.2.2.1

/-- A change of one core keeps the canonical form where it keeps that of the core's scratchpad. -/
theorem State.canonical.core {s : State} (h : s.canonical) {k : Nat} {f : Core → Core}
    (hf : (f (s.core k)).spad.wf = true) : (s.modCore k f).canonical :=
  ⟨h.1, h.2.1, h.2.2.1, fun e he => (Sp.mem_set he).elim (fun x => x ▸ hf) (h.2.2.2 e)⟩

/-- A fold of a step that keeps the canonical form keeps it. -/
theorem canonical_foldl {α : Type} (f : State → α → State) (hf : ∀ s a, s.canonical → (f s a).canonical) (l : List α) :
    ∀ s : State, s.canonical → (l.foldl f s).canonical := by
  induction l with
  | nil => exact fun _ h => h
  | cons a r ih => exact fun s h => ih _ (hf s a h)

theorem canonical_modCluster {s : State} (k : Nat) (f : Cluster → Cluster) (h : s.canonical) : (s.modCluster k f).canonical := h.same
theorem canonical_modSlot {s : State} (k : Nat) (f : Slot → Slot) (h : s.canonical) : (s.modSlot k f).canonical := h.same
theorem canonical_takeDelay {s : State} (h : s.canonical) : (takeDelay s).2.canonical := by
  unfold takeDelay; split <;> exact h.same
theorem canonical_takeFree {s : State} (w : Nat) (h : s.canonical) : (takeFree s w).2.canonical := h.same

/-! ### Writes of bytes and of what stands beside them -/

theorem canonical_rawWrite {s : State} (p : Place) (n v : Nat) (h : s.canonical) : (rawWrite s p n v).canonical := by
  cases p with
  | remote k a =>
    exact ⟨h.1, h.2.1, fun e he => (Sp.mem_set he).elim (fun x => x ▸ Mem.wf_writeNat _ _ _ _ (h.far k)) (h.2.2.1 e), h.2.2.2⟩
  | _ =>
    first
    | exact h
    | exact h.core (Mem.wf_writeNat _ _ _ _ (h.spad _))
    | exact h.deepTo (Mem.wf_writeNat _ _ _ _ h.1)
    | exact ⟨h.1, Mem.wf_writeNat _ _ _ _ h.2.1, h.2.2⟩

theorem canonical_setMeta {s : State} (p : Place) (m : BitVec 36) (h : s.canonical) : (setMeta s p m).canonical := by
  cases p <;> first | exact h.core (h.spad _) | exact h.same

theorem canonical_setPend {s : State} (p : Place) (b : Bool) (h : s.canonical) : (setPend s p b).canonical := canonical_setMeta p _ h

theorem canonical_setErr {s : State} (p : Place) (e : Flips) (h : s.canonical) : (setErr s p e).canonical := by
  cases p <;> first | exact h.core (h.spad _) | exact h.same

theorem canonical_setMetaErr {s : State} (p : Place) (e : Flips) (h : s.canonical) : (setMetaErr s p e).canonical := by
  cases p <;> first | exact h.core (h.spad _) | exact h.same

theorem canonical_logError {s : State} (cluster kind slot dom array code synd jidx : Nat) (addr md : Word) (h : s.canonical) :
    (logError s cluster kind slot dom array code synd jidx addr md).canonical := by
  have h1 : (slotField s slot).2.canonical := by unfold slotField; split <;> exact h.same
  exact canonical_modCluster _ _ h1

theorem canonical_changeEvents {s : State} (cluster at' : Nat) (b : Bool) (group : Nat) (mask : BitVec 16) (h : s.canonical) :
    (changeEvents s cluster at' b group mask).canonical := h.same

theorem canonical_noteStall {s : State} (slot : Nat) (p : Place) (h : s.canonical) : (noteStall s slot p).canonical := by
  unfold noteStall
  split
  · dsimp only; split <;> first | exact h | exact canonical_logError _ _ _ _ _ _ _ _ _ _ h.same
  · exact h

/-! ### Checked reads (20 R427) -/

theorem canonical_logBad {s : State} (p : Place) (slot dom : Nat) (h : s.canonical) : (logBad s p slot dom).canonical :=
  canonical_logError _ _ _ _ _ _ _ _ _ _ h

theorem canonical_eccMeta {s : State} (p : Place) (slot dom : Nat) (h : s.canonical) : (eccMeta s p slot dom).canonical := by
  unfold eccMeta; dsimp only
  split <;> with_reducible first | exact h | exact canonical_logError _ _ _ _ _ _ _ _ _ _ (canonical_setMetaErr _ _ (canonical_setMeta _ _ h))

theorem canonical_eccUnit {s : State} (p : Place) (slot dom : Nat) (h : s.canonical) : (eccUnit s p slot dom).1.canonical := by
  have hm := canonical_eccMeta p slot dom h
  have hfix (v : Nat) := canonical_setErr p 0 (canonical_rawWrite p.unit 8 v hm)
  unfold eccUnit; dsimp only
  (repeat' split) <;> with_reducible first
    | exact hm | exact canonical_logBad _ _ _ h | exact canonical_logBad _ _ _ hm | exact canonical_logError _ _ _ _ _ _ _ _ _ _ (hfix _)

theorem canonical_readUnit {s : State} (p : Place) (n slot dom : Nat) (h : s.canonical) : (readUnit s p n slot dom).1.canonical := by
  unfold readUnit; dsimp only; split <;> exact canonical_eccUnit p slot dom h

/-! ### Hardware writes -/

theorem canonical_checkedLine {s : State} (l : Nat) (h : s.canonical) : (checkedLine s l).canonical := by
  unfold checkedLine
  split <;> with_reducible first
    | exact canonical_logBad _ _ _ h
    | exact canonical_foldl _ (fun _ _ hs => canonical_eccUnit _ _ _ hs) _ s h

theorem canonical_undoErrs {s : State} (l at' : Nat) (h : s.canonical) : (undoErrs s l at').canonical :=
  canonical_foldl _ (fun _ _ hs => canonical_setErr _ _ hs) _ s h

theorem canonical_undoLog {s : State} (pa : Nat) (h : s.canonical) : (undoLog s pa).canonical := by
  have hc := canonical_checkedLine (pa / 64 * 64) h
  have hd := hc.1
  have w (m : Mem) (a n v : Nat) (hm : m.wf = true) := Mem.wf_writeNat m a n v hm
  unfold undoLog; dsimp only
  (repeat' split) <;> with_reducible first
    | exact h | exact canonical_undoErrs _ _ (hc.deepTo (w _ _ _ _ (w _ _ _ _ (w _ _ _ _ (w _ _ _ _ hd)))))
    | exact canonical_changeEvents _ _ _ _ _ (canonical_undoErrs _ _ (hc.deepTo (w _ _ _ _ (w _ _ _ _ (w _ _ _ _ (w _ _ _ _ hd))))))

theorem canonical_inject {s : State} (c : Nat) (p : Place) (slot dom : Nat) (h : s.canonical) : (inject s c p slot dom).canonical := by
  unfold inject
  split
  · have h2 {e : Flips} {v : Nat} := canonical_setErr p.line e (canonical_rawWrite p.line 8 v h)
    exact canonical_logError _ _ _ _ _ _ _ _ _ _ (h2.core (h2.spad c))
  · exact h

theorem canonical_writeNow {s : State} (p : Place) (n v : Nat) (stamp : BitVec 36) (slot dom : Nat) (h : s.canonical) :
    (writeNow s p n v stamp slot dom).canonical := by
  have h0 : (match p with | .deep a => undoLog s a | _ => s).canonical := by cases p <;> first | exact canonical_undoLog _ h | exact h
  unfold writeNow
  refine canonical_inject _ _ _ _ (canonical_setPend _ _ (canonical_setMetaErr _ _ (canonical_setMeta _ _ ?_)))
  split
  · exact canonical_setErr _ _ (canonical_rawWrite _ _ _ h0)
  · exact canonical_rawWrite _ _ _ (canonical_eccUnit _ _ _ h0)

theorem canonical_writeRaw {s : State} (p : Place) (n v : Nat) (stamp : BitVec 36) (slot dom : Nat) (h : s.canonical) :
    (writeRaw s p n v stamp slot dom).canonical := by
  unfold writeRaw
  split <;> with_reducible first | exact (canonical_noteStall slot p h).same | exact canonical_writeNow p n v stamp slot dom h

theorem canonical_hwWrite {s : State} (p : Place) (n v slot : Nat) (h : s.canonical) : (hwWrite s p n v slot).canonical :=
  canonical_writeRaw p n v _ _ _ h

theorem canonical_writeRawUnits {s : State} (p : Place) (n v : Nat) (stamp : BitVec 36) (slot dom : Nat) (h : s.canonical) :
    (writeRawUnits s p n v stamp slot dom).canonical :=
  canonical_foldl _ (fun _ _ hs => canonical_writeRaw _ _ _ _ _ _ hs) _ s h

theorem canonical_rawPoke {s : State} (k bank row word : Nat) (v : Word) (h : s.canonical) :
    (s.modCore k (fun c => rawPoke c bank row word v)).canonical := by
  refine h.core ?_
  unfold rawPoke; dsimp only
  split <;> exact Mem.wf_writeNat _ _ _ _ (h.spad k)

/-- What a write of bytes to the deep store leaves: the bytes read back, and every other byte and every other field as before. -/
theorem rawWrite_deep (s : State) (a n v : Nat) :
    rawRead (rawWrite s (.deep a) n v) (.deep a) n = v % 256 ^ n ∧
      (∀ i, i < a ∨ a + n ≤ i → Mem.byte (rawWrite s (.deep a) n v).deep i = Mem.byte s.deep i) ∧
      { rawWrite s (.deep a) n v with deep := s.deep } = s :=
  ⟨Mem.readNat_writeNat _ _ _ _, fun i h => Mem.byte_writeNat_outside _ _ _ _ i h, rfl⟩

/-! ### Records, lists and wakes -/

theorem canonical_listAppendRaw {s : State} (cluster w : Nat) (va : Word) (h : s.canonical) :
    (listAppendRaw s cluster w va).canonical := by
  have h1 {f : Cluster → Cluster} := canonical_modCluster cluster f h
  unfold listAppendRaw; dsimp only
  split <;> with_reducible first | exact h1 | exact canonical_hwWrite _ _ _ _ h1

theorem canonical_placeResumeRaw {s : State} (cluster : Nat) (e : Ready) (h : s.canonical) : (placeResumeRaw s cluster e).canonical := by
  unfold placeResumeRaw
  split <;> with_reducible first | exact canonical_modCluster _ _ h | exact canonical_listAppendRaw _ _ _ (canonical_modCluster _ _ h)

theorem canonical_resumeRaw {s : State} (cluster : Nat) (ref : RecRef) (h : s.canonical) : (resumeRaw s cluster ref).canonical :=
  canonical_placeResumeRaw _ _ (canonical_hwWrite _ _ _ _ h)

theorem canonical_wakeRaw {s : State} (cluster : Nat) (ref : RecRef) (h : s.canonical) : (wakeRaw s cluster ref).canonical := by
  unfold wakeRaw
  split <;> with_reducible first | exact canonical_modSlot _ _ h | exact canonical_resumeRaw _ _ h

theorem canonical_wakeLine (n : Nat) : ∀ (s : State) (p : Place), s.canonical → (wakeLine s p n).canonical := by
  induction n with
  | zero => exact fun _ _ h => h
  | succ n ih =>
    intro s p h
    unfold wakeLine; dsimp only
    (repeat' split) <;> with_reducible first | exact h | exact ih _ _ (ih _ _ (ih _ _ (canonical_wakeRaw _ _ (canonical_modCluster _ _ h))))

theorem canonical_wakeUndo (n : Nat) : ∀ s : State, s.canonical → (wakeUndo s n).canonical := by
  induction n with
  | zero => exact fun _ h => h
  | succ n ih =>
    intro s h
    unfold wakeUndo; dsimp only
    split <;> with_reducible first | exact h | exact ih _ (canonical_wakeLine _ _ _ h.same)

theorem canonical_wakeWriters {s : State} (p : Place) (h : s.canonical) : (wakeWriters s p).canonical := by
  unfold wakeWriters; dsimp only
  split <;> with_reducible first | exact h | exact canonical_wakeUndo _ _ (canonical_wakeLine _ _ _ h)

/-! ### The undo log rolled back (20 R432) -/

theorem canonical_undoOne {s : State} (die k : Nat) (h : s.canonical) : (undoOne s die k).canonical := by
  have hc := canonical_foldl _ (fun _ i hs => canonical_eccUnit (.deep (undoBase s die + 128 * k + 8 * i)) noSlot 0 hs) (List.range 10) s h
  have hd := hc.1
  unfold undoOne; dsimp only
  split <;> with_reducible first | exact hc | exact canonical_wakeWriters _ (hc.deepTo (Mem.wf_writeNat _ _ _ _ hd))

theorem canonical_rollback {s : State} (h : s.canonical) : (rollback s).canonical :=
  canonical_foldl _ (fun _ _ hs => canonical_foldl _ (fun _ _ ht => canonical_undoOne _ _ ht) _ _ hs) _ s h

/-! ### Wakes that a list's tail brings -/

theorem canonical_wakeTail {s : State} (tail : Option Place) (h : s.canonical) : (wakeTail s tail).canonical := by
  cases tail <;> first | exact h | exact canonical_wakeWriters _ h

theorem canonical_hwWriteWake {s : State} (p : Place) (n v slot : Nat) (h : s.canonical) : (hwWriteWake s p n v slot).canonical :=
  canonical_wakeWriters _ (canonical_hwWrite _ _ _ _ h)

theorem canonical_recPut {s : State} (pa off n v : Nat) (h : s.canonical) : (recPut s pa off n v).canonical :=
  canonical_hwWriteWake _ _ _ _ h

theorem canonical_recSetState {s : State} (pa st : Nat) (h : s.canonical) : (recSetState s pa st).canonical :=
  canonical_recPut _ _ _ _ h

theorem canonical_recStateHw {s : State} (pa st : Nat) (h : s.canonical) : (recStateHw s pa st).canonical :=
  canonical_hwWriteWake _ _ _ _ h

theorem canonical_listAppend {s : State} (cluster w : Nat) (va : Word) (h : s.canonical) : (listAppend s cluster w va).canonical :=
  canonical_wakeTail _ (canonical_listAppendRaw _ _ _ h)

theorem canonical_placeResume {s : State} (cluster : Nat) (e : Ready) (h : s.canonical) : (placeResume s cluster e).canonical := by
  unfold placeResume
  split <;> with_reducible first | exact canonical_placeResumeRaw _ _ h | exact canonical_wakeTail _ (canonical_placeResumeRaw _ _ h)

theorem canonical_placeNew {s : State} (cluster : Nat) (e : Ready) (h : s.canonical) : (placeNew s cluster e).1.canonical := by
  unfold placeNew
  split <;> with_reducible first | exact canonical_modCluster _ _ h | exact canonical_listAppend _ _ _ (canonical_modCluster _ _ h)

theorem canonical_offerNew {s : State} (cluster : Nat) (e : Ready) (msg : Option (Nat × Nat)) (h : s.canonical) :
    (offerNew s cluster e msg).1.canonical := by
  unfold offerNew
  split <;> with_reducible first | exact canonical_modCluster _ _ h | exact canonical_placeNew _ _ h

theorem canonical_resumeRec {s : State} (cluster : Nat) (ref : RecRef) (h : s.canonical) : (resumeRec s cluster ref).canonical :=
  canonical_wakeTail _ (canonical_wakeWriters _ (canonical_resumeRaw _ _ h))

theorem canonical_wakeRec {s : State} (cluster : Nat) (ref : RecRef) (h : s.canonical) : (wakeRec s cluster ref).canonical := by
  unfold wakeRec
  split <;> with_reducible first | exact canonical_wakeRaw _ _ h | exact canonical_resumeRec _ _ h

theorem canonical_enterWaitEv {s : State} (cluster : Nat) (ref : RecRef) (group : Nat) (mask : BitVec 16) (h : s.canonical) :
    (enterWaitEv s cluster ref group mask).canonical := by
  unfold enterWaitEv; dsimp only
  split <;> with_reducible first | exact canonical_modCluster _ _ h | exact canonical_listAppend _ _ _ (canonical_modCluster _ _ h)

theorem canonical_admitRec {s : State} (cluster : Nat) (ref : RecRef) (fresh : Bool) (h : s.canonical) :
    (admitRec s cluster ref fresh).1.canonical := by
  have h2 := canonical_recSetState ref.pa stRunning h
  unfold admitRec; dsimp only
  (repeat' split) <;> with_reducible first
    | (rw [Prod.map_fst, id_eq]; exact canonical_placeNew _ _ h2) | exact canonical_placeResume _ _ h2
    | exact canonical_enterWaitEv _ _ _ _ (canonical_recSetState _ _ h)

theorem canonical_admitKept {s : State} (cluster : Nat) (ref : RecRef) (msg : Option (Nat × Nat)) (h : s.canonical) :
    (admitKept s cluster ref msg).1.canonical := by
  have h2 (st : Nat) := canonical_recStateHw ref.pa st h
  unfold admitKept; dsimp only
  (repeat' split) <;> with_reducible first | exact h2 _ | exact canonical_offerNew _ _ _ (h2 _) | exact canonical_enterWaitEv _ _ _ _ (h2 _)

/-! ### Translation and performed accesses -/

theorem canonical_readEntry {s : State} (pa slot dom : Nat) (h : s.canonical) : (readEntry s pa slot dom).1.canonical := by
  have hr := canonical_readUnit (.deep (pa % 2 ^ 34)) 8 slot dom h
  unfold readEntry
  generalize readUnit s (.deep (pa % 2 ^ 34)) 8 slot dom = x at hr
  rcases x with ⟨t, _ | v⟩ <;> exact hr

theorem canonical_walk3 {s : State} (dom va slot table : Nat) (h : s.canonical) : (walk3 s dom va slot table).1.canonical := by
  have hr := canonical_readEntry (table + 8 * (va / 2 ^ 16 % 512)) slot dom h
  unfold walk3
  generalize readEntry s (table + 8 * (va / 2 ^ 16 % 512)) slot dom = x at hr
  rcases x with ⟨t, _ | e⟩ <;> dsimp only <;> (repeat' split) <;> exact hr

theorem canonical_walk2 {s : State} (dom va slot table : Nat) (h : s.canonical) : (walk2 s dom va slot table).1.canonical := by
  have hr := canonical_readEntry (table + 8 * (va / 2 ^ 25 % 65536)) slot dom h
  unfold walk2
  generalize readEntry s (table + 8 * (va / 2 ^ 25 % 65536)) slot dom = x at hr
  rcases x with ⟨t, _ | e⟩ <;> dsimp only <;> (repeat' split) <;>
    with_reducible first | exact hr | exact canonical_walk3 _ _ _ _ hr

theorem canonical_walk {s : State} (dom va slot : Nat) (h : s.canonical) : (walk s dom va slot).1.canonical := by
  unfold walk
  generalize (s.domWord dom 0).toNat = root
  have hr := canonical_readEntry (root + 8 * (va / 2 ^ 41 % 32768)) slot dom h
  dsimp only
  generalize readEntry s (root + 8 * (va / 2 ^ 41 % 32768)) slot dom = x at hr
  rcases x with ⟨t, _ | e⟩ <;> dsimp only <;> (repeat' split) <;>
    with_reducible first | exact hr | exact canonical_walk2 _ _ _ _ hr

theorem canonical_noteMiss {s : State} (core slot dom va : Nat) (h : s.canonical) : (noteMiss s core slot dom va).canonical :=
  h.core (h.spad core)

theorem canonical_logFlips {s : State} (slot dom array : Nat) (addr : Word) (e : Flips) (h : s.canonical) :
    (logFlips s slot dom array addr e).canonical := by
  unfold logFlips
  (repeat' split) <;> with_reducible first | exact h | exact canonical_logError _ _ _ _ _ _ _ _ _ _ h

theorem canonical_tlbRead {s : State} (slot : Nat) (t : TlbEntry) (h : s.canonical) : (tlbRead s slot t).1.canonical :=
  canonical_logFlips _ _ _ _ _ h

theorem canonical_microFind {s : State} (core dom va slot : Nat) (h : s.canonical) : (microFind s core dom va slot).1.canonical := by
  unfold microFind
  split <;> with_reducible first | exact h | exact canonical_tlbRead _ _ (h.core (h.spad core))

theorem canonical_clusterFind {s : State} (core dom va slot : Nat) (h : s.canonical) : (clusterFind s core dom va slot).1.canonical := by
  unfold clusterFind
  split <;> with_reducible first | exact h | exact canonical_tlbRead _ _ (canonical_modCluster _ _ h)

theorem canonical_lookup {s : State} (core dom va slot : Nat) (h : s.canonical) : (lookup s core dom va slot).1.canonical := by
  have h1 := canonical_microFind core dom va slot h
  unfold lookup; dsimp only
  generalize microFind s core dom va slot = x at h1
  rcases x with ⟨s1, _ | t⟩ <;> dsimp only
  · split
    · exact h1
    · have h2 := canonical_clusterFind core dom va slot (canonical_noteMiss core slot dom va h1)
      generalize clusterFind (noteMiss s1 core slot dom va) core dom va slot = y at h2
      rcases y with ⟨s2, _ | t⟩ <;> dsimp only
      · split
        · exact h2.same
        · have h3 := canonical_walk dom va slot h2
          generalize walk s2 dom va slot = z at h3
          rcases z with ⟨s3, _ | t⟩ <;> dsimp only
          · exact h3
          · exact (canonical_takeDelay h3).same
      · exact h2.same
  · exact h1

theorem canonical_translate {s : State} (core dom va : Nat) (k : AccKind) (sup : Bool) (slot : Nat) (h : s.canonical) :
    (translate s core dom va k sup slot).1.canonical := by
  have hl := canonical_lookup core dom va slot h
  unfold translate
  generalize lookup s core dom va slot = x at hl
  rcases x with ⟨t, _ | e⟩ <;> dsimp only <;> (repeat' split) <;> with_reducible first | exact h | exact hl

theorem canonical_notePort {s : State} (p : Place) (h : s.canonical) : (notePort s p).canonical := by
  cases p <;> first | exact h | exact h.core (h.spad _)

theorem canonical_performWrite {s : State} (p : Place) (n v : Nat) (stamp : BitVec 36) (slot dom : Nat) (h : s.canonical) :
    (performWrite s p n v stamp slot dom).canonical := by
  unfold performWrite
  split <;> with_reducible first | exact canonical_rawWrite _ _ _ h | exact canonical_wakeWriters _ (canonical_writeRaw _ _ _ _ _ _ (canonical_notePort _ h))

theorem canonical_performWrites {s : State} (p : Place) (n v : Nat) (stamp : BitVec 36) (slot dom : Nat) (h : s.canonical) :
    (performWrites s p n v stamp slot dom).canonical :=
  canonical_foldl _ (fun _ _ hs => canonical_performWrite _ _ _ _ _ _ hs) _ s h

theorem canonical_performRead {s : State} (p : Place) (n slot dom : Nat) (h : s.canonical) :
    (performRead s p n slot dom).1.canonical := by
  unfold performRead
  split <;> with_reducible first | exact h | exact canonical_readUnit _ _ _ _ (canonical_notePort _ h)

theorem canonical_performRmw {s : State} (p : Place) (n slot dom : Nat) (f : Nat → Option Nat) (h : s.canonical) :
    (performRmw s p n slot dom f).1.canonical := by
  have hr := canonical_performRead p n slot dom h
  unfold performRmw
  generalize performRead s p n slot dom = x at hr
  rcases x with ⟨t, _ | x⟩ <;> dsimp only <;> (repeat' split) <;>
    with_reducible first | exact hr | exact canonical_performWrite _ _ _ _ _ _ hr

theorem canonical_performOne {s : State} (slot : Nat) (r : Role) (o : Outst) (h : s.canonical) :
    (performOne s slot r o).canonical := by
  have hr := canonical_performRmw o.place o.w slot (s.slot slot).domain
    (fun x => some (atomicNew (o.op - 1) (8 * o.w) x (o.val.toNat % 2 ^ (8 * o.w)))) h
  unfold performOne performAtomic addPending; dsimp only
  generalize performRmw s o.place o.w slot (s.slot slot).domain
    (fun x => some (atomicNew (o.op - 1) (8 * o.w) x (o.val.toNat % 2 ^ (8 * o.w)))) = x at hr
  rcases x with ⟨t, _ | x⟩ <;> dsimp only <;> (repeat' split) <;>
    with_reducible first | exact canonical_performWrite _ _ _ _ _ _ h | exact hr | exact canonical_modSlot _ _ hr

theorem canonical_drain {s : State} (slot : Nat) (r : Role) (pick : Outst → Bool) (h : s.canonical) :
    (drain s slot r pick).canonical :=
  canonical_foldl _ (fun _ o ht => canonical_performOne slot r o ht) _ _ (canonical_modSlot slot _ h)

theorem canonical_drainSlot {s : State} (slot : Nat) (h : s.canonical) : (drainSlot s slot).canonical :=
  canonical_foldl _ (fun _ r ht => canonical_drain slot r _ ht) _ s h

theorem canonical_settleLine {s : State} (but : Nat) (p : Place) (h : s.canonical) : (settleLine s but p).canonical := by
  refine canonical_foldl _ (fun t k ht => ?_) _ s h
  split <;> with_reducible first
    | exact ht
    | exact canonical_foldl _ (fun u r hu => by dsimp only; split <;> first | exact hu | exact canonical_drain _ _ _ hu) _ t ht

end Sys2Proof.Machine
end

