-- ==== Sys2Proof/Laws/Results.lean ====
section
/-! SUPPORT. What giving a result does, and what an instruction with a result or without one leaves: the laws that the statements on
single instructions rest on. -/

namespace Sys2Proof.Machine

/-! ### A write under way -/

theorem latest_append (l : List Pend) (p : Pend) (d : Dst) (n : Nat) (old : Word) :
    latest (l ++ [p]) d n old = if p.dst = d ∧ p.due ≤ n then p.val else latest l d n old := by
  unfold latest; rw [List.foldl_append]; simp

/-- Where an earlier write of the destination is still open, the new one lands no earlier (02 R33). -/
theorem addPend_due (l : List Pend) (d : Dst) (due : Nat) :
    due ≤ l.foldl (fun m p => if p.dst = d && decide (m < p.due) then p.due else m) due ∧
      ((∀ p ∈ l, p.dst = d → p.due ≤ due) →
        l.foldl (fun m p => if p.dst = d && decide (m < p.due) then p.due else m) due = due) := by
  induction l generalizing due with
  | nil => simp
  | cons a r ih =>
    simp only [List.foldl_cons]
    by_cases h : (a.dst = d && decide (due < a.due)) = true
    · rw [if_pos h]
      simp only [Bool.and_eq_true, decide_eq_true_eq] at h
      refine ⟨le_trans (by omega) (ih a.due).1, fun hall => ?_⟩
      have := hall a (by simp) h.1
      omega
    · rw [if_neg h]
      exact ⟨(ih due).1, fun hall => (ih due).2 (fun p hp => hall p (by simp [hp]))⟩

/-- A fixed-latency write: the destination changes from a cycle no earlier than `due` on; every other register and flag reads as
before. -/
theorem addPend_spec (c : RoleCtx) (d : Dst) (due : Nat) (v : Word) :
    ∃ due', due ≤ due' ∧ ((∀ p ∈ c.pend, p.dst = d → p.due ≤ due) → due' = due) ∧
      (addPend c d due v).pend = c.pend ++ [⟨d, due', v⟩] ∧ (addPend c d due v).regs = c.regs ∧
      (addPend c d due v).flags = c.flags ∧ (addPend c d due v).vpend = c.vpend ∧ (addPend c d due v).bare = c.bare ∧
      (addPend c d due v).nul = c.nul := by
  obtain ⟨h1, h2⟩ := addPend_due c.pend d due
  exact ⟨_, h1, h2, rfl, rfl, rfl, rfl, rfl, rfl⟩

/-! ### Ports -/

theorem popsQueue_lt {r : Role} {n : BitVec 5} {q : Nat} (h : popsQueue r n = some q) : q < 4 := by
  unfold popsQueue at h
  split_ifs at h
  have := n.isLt
  simp at h; omega

theorem pushesQueue_ge {r : Role} {n : BitVec 5} {q : Nat} (h : pushesQueue r n = some q) : 4 ≤ q := by
  unfold pushesQueue at h
  split_ifs at h with hc
  simp only [Bool.and_eq_true, Bool.or_eq_true, decide_eq_true_eq] at hc
  rcases hc.2 with rfl | rfl <;> simp at h <;> omega

/-- The queues that sources pop are never those that destinations push. -/
theorem popList_count (s : State) (u : Use) {q : Nat} (h : 4 ≤ q) : (popList s u).count q = 0 := by
  rw [List.count_eq_zero]
  intro hm
  unfold popList at hm
  rw [List.mem_filterMap] at hm
  obtain ⟨n, _, hn⟩ := hm
  have := popsQueue_lt hn
  omega

theorem popList_cur (s t : State) (u : Use) (h : t.cur = s.cur) : popList t u = popList s u := by unfold popList; rw [h]

/-! ### What a body leaves before it retires -/

/-- The state that a body with effect hands on: only what an issue changes differs from the state found. -/
structure Touched (s t : State) : Prop where
  cur : t.cur = s.cur
  vcc : t.vcc = s.vcc
  time : t.now = s.now
  pc : t.myRole.pc = s.myRole.pc
  link : t.myRole.link = s.myRole.link
  block : (t.slot s.me).block = (s.found.slot s.me).block
  rest : bare t = bare s.found
  bytes : ∀ p, rawRead t p 1 = rawRead s p 1

theorem Touched.me {s t : State} (h : Touched s t) : t.me = s.me := by unfold State.me; rw [h.cur]

theorem touched_found (s : State) : Touched s s.found :=
  ⟨rfl, rfl, found_now s, found_pc s, found_link s, rfl, rfl, fun p => found_bytes s p 1⟩

/-- An update of the issuing role's writes under way is one that only an issue makes. -/
theorem Touched.modMe {s t : State} (h : Touched s t) (f : RoleCtx → RoleCtx) (hf : (f t.myRole).bare = t.myRole.bare)
    (hp : (f t.myRole).pc = t.myRole.pc) : Touched s (t.modMe f) := by
  have hl : (f t.myRole).link = t.myRole.link := by
    change (f t.myRole).bare.link = t.myRole.bare.link
    rw [hf]
  refine ⟨h.cur, h.vcc, ?_, ?_, ?_, ?_, (bare_modMe t f hf).trans h.rest, fun p => (bytes_modMe t f p).trans (h.bytes p)⟩
  · exact (State.clock_modMe t _ f).trans h.time
  · rw [State.myRole_modMe, hp, h.pc]
  · rw [State.myRole_modMe, hl, h.link]
  · rw [← h.block, ← h.me]
    unfold State.modMe State.modRole
    rw [State.slot_modSlot_self, Slot.modRole_block]

theorem Touched.setQueue {s t : State} (h : Touched s t) (q : Nat) (l : List QEntry) : Touched s (setQueue t s.me q l) := by
  rw [← h.me]
  refine ⟨h.cur, h.vcc, ?_, ?_, ?_, ?_, (bare_setQueue t q l).trans h.rest, fun p => (bytes_setQueue t _ q l p).trans (h.bytes p)⟩
  · exact (clock_setQueue t _ _ q l).trans h.time
  · rw [myRole_setQueue, h.pc]
  · rw [myRole_setQueue, h.link]
  · rw [← h.block, ← h.me, block_setQueue]

theorem Touched.pops {s t : State} (h : Touched s t) (l : List Nat) : Touched s (pops l t) := by
  obtain ⟨a, b, c, d, e, f, g, i, j⟩ := pops_spec l t
  refine ⟨b.trans h.cur, c.trans h.vcc, ?_, by rw [e, h.pc], by rw [e, h.link], ?_, g.trans h.rest, fun p => (i p).trans (h.bytes p)⟩
  · unfold State.now; rw [a, d]; exact h.time
  · rw [← h.block, ← h.me, f]

/-- The timing choices left are no part of what else stays. -/
theorem Touched.delays {s t : State} (h : Touched s t) (l : List Nat) : Touched s { t with delays := l } :=
  ⟨h.cur, h.vcc, h.time, h.pc, h.link, h.block, h.rest, fun p => (show rawRead { t with delays := l } p 1 = rawRead t p 1 by
    cases p <;> rfl).trans (h.bytes p)⟩

theorem Touched.linkOf {s t : State} (h : Touched s t) (i : Instr) : linkOf t.myRole i = linkOf s.myRole i := by
  unfold Machine.linkOf; rw [h.pc, h.link]

/-- An issue whose body left `t` and goes on at `pc`: everything that `Issued`, `RestKept` and `BytesKept` say. -/
theorem Touched.issued {s t : State} (h : Touched s t) (i : Instr) (pc : BitVec 32) (nul : Nat) :
    Issued i pc nul s (retireTo i pc nul t) ∧ RestKept s (retireTo i pc nul t) ∧ BytesKept s (retireTo i pc nul t) := by
  obtain ⟨a, b, c, d, _, f, g⟩ := retireTo_spec i pc nul t
  refine ⟨⟨a, b.trans h.cur, by rw [c]; rfl, by rw [c]; rfl, by rw [c]; exact congrArg (· + 1 + stallOf i) h.time, ?_⟩,
    f.trans h.rest, fun p => (g p).trans (h.bytes p)⟩
  rw [← h.me, d, h.me, h.block, h.vcc, h.cur]

/-! ### A fixed-latency result -/

theorem reg_retired (c : RoleCtx) (pc : BitVec 32) (nul next n at' : Nat) : (c.retired pc nul next).reg n at' = c.reg n at' := rfl
theorem flag_retired (c : RoleCtx) (pc : BitVec 32) (nul next n at' : Nat) :
    (c.retired pc nul next).flag n at' = c.flag n at' := rfl

/-- What `writeReg` does to the state found. -/
theorem writeReg_spec (s : State) (d : BitVec 5) (lat : Nat) (v : Word) :
    let t := writeReg s.found d lat v
    Touched s t ∧ t.myRole.nul = s.myRole.nul ∧ t.myRole.vpend = s.found.myRole.vpend ∧ RegWritten d lat v s t ∧
      RegsKept (some d) s t ∧ FlagsKept s t ∧
      ∀ q, t.queue s.me q = s.found.queue s.me q ++
        (if pushesQueue s.cur.role d = some q then [{ val := v, due := s.now + lat }] else []) := by
  have hn := found_now s
  unfold State.now at hn
  rw [found_me] at hn
  simp only
  unfold writeReg
  rw [found_cur, found_me, hn]
  cases hp : pushesQueue s.cur.role d with
  | some q =>
    simp only
    refine ⟨(touched_found s).setQueue q _, ?_, ?_, ?_, ?_, ?_, ?_⟩
    · have := myRole_setQueue s.found q (s.found.queue s.me q ++ [{ val := v, due := s.clock s.me + lat }])
      rw [found_me] at this; rw [this, found_nul]
    · have := myRole_setQueue s.found q (s.found.queue s.me q ++ [{ val := v, due := s.clock s.me + lat }])
      rw [found_me] at this; rw [this]
    · unfold RegWritten
      rw [if_pos (Or.inr (by rw [hp]; simp))]
      intro n
      have := myRole_setQueue s.found q (s.found.queue s.me q ++ [{ val := v, due := s.clock s.me + lat }])
      rw [found_me] at this; rw [this]
    · intro n at' _
      have := myRole_setQueue s.found q (s.found.queue s.me q ++ [{ val := v, due := s.clock s.me + lat }])
      rw [found_me] at this; rw [this]
    · intro n at'
      have := myRole_setQueue s.found q (s.found.queue s.me q ++ [{ val := v, due := s.clock s.me + lat }])
      rw [found_me] at this; rw [this]
    · intro j
      rw [queue_setQueue]
      by_cases hj : j = q
      · subst hj; simp [State.now]
      · rw [if_neg hj, if_neg (by simpa using Ne.symm hj), List.append_nil]
  | none =>
    simp only
    by_cases hd : d = 0
    · rw [if_pos hd]
      refine ⟨touched_found s, found_nul s, rfl, ?_, fun n at' _ => rfl, fun f at' => rfl, fun q => by simp⟩
      unfold RegWritten
      rw [if_pos (Or.inl hd)]
      exact fun _ => rfl
    · rw [if_neg hd]
      obtain ⟨due, h1, h2, hpend, hregs, hflags, hv, hbare, hnul⟩ :=
        addPend_spec s.found.myRole (.sreg d.toNat) (s.clock s.me + lat) v
      have hd0 : d.toNat ≠ 0 := fun h => hd (BitVec.eq_of_toNat_eq (by simpa using h))
      refine ⟨(touched_found s).modMe _ hbare rfl, ?_, ?_, ?_, ?_, ?_, ?_⟩
      · rw [State.myRole_modMe, hnul, found_nul]
      · rw [State.myRole_modMe, hv]
      · unfold RegWritten
        rw [if_neg (not_or.mpr ⟨hd, by rw [hp]; simp⟩)]
        refine ⟨due, h1, h2, fun n => ?_⟩
        rw [State.myRole_modMe]
        unfold RoleCtx.reg
        rw [if_neg hd0, if_neg hd0, hpend, hregs, latest_append]
        simp
      · intro n at' hne
        have hne' : d.toNat ≠ n := by simpa using hne
        rw [State.myRole_modMe]
        unfold RoleCtx.reg
        rw [hpend, hregs, latest_append]
        simp [hne']
      · intro f at'
        rw [State.myRole_modMe]
        unfold RoleCtx.flag
        rw [hpend, hflags, latest_append]
        simp
      · intro q
        have : (s.found.modMe fun c => addPend c (.sreg d.toNat) (s.clock s.me + lat) v).queue s.me q = s.found.queue s.me q := by
          unfold State.queue State.modMe State.modRole
          rw [found_me, State.slot_modSlot_self, Slot.modRole_queues]
        rw [this]; simp

/-- An instruction whose body writes one fixed-latency result computes it. -/
theorem computes_close (i : Instr) (u : Use) (d : BitVec 5) (lat : Nat) (v : Word) (s : State) (hu : u.dst = some d)
    (hn : s.myRole.nul = 0) :
    Computes i u d lat v s (((Did.done (writeReg s.found d lat v)).popped u).close i) := by
  obtain ⟨h1, h2, h3, h4, h5, h6, h7⟩ := writeReg_spec s d lat v
  have hl : popList (writeReg s.found d lat v) u = popList s u := popList_cur _ _ u h1.cur
  simp only [Did.popped, Did.close, retire, popAll_eq, hl]
  obtain ⟨a, b, c, e, f, g, k, m, n⟩ := pops_spec (popList s u) (writeReg s.found d lat v)
  have ht := h1.pops (popList s u)
  have hlink := ht.linkOf i
  have hnul : (pops (popList s u) (writeReg s.found d lat v)).myRole.nul = 0 := by rw [f, h2, hn]
  rw [hlink, hnul]
  obtain ⟨r1, r2, r3⟩ := ht.issued i (linkOf s.myRole i) 0
  obtain ⟨_, _, w3, _, w5, _, _⟩ := retireTo_spec i (linkOf s.myRole i) 0 (pops (popList s u) (writeReg s.found d lat v))
  refine ⟨r1, ?_, ?_, ?_, ?_, ?_, r2, r3⟩
  · unfold RegWritten at h4 ⊢
    rw [w3, f]; exact h4
  · intro q
    rw [← ht.me, w5, ht.me, ← h1.me, n, h1.me, h7, hu]
    by_cases hq : pushesQueue s.cur.role d = some q
    · rw [popList_count s u (pushesQueue_ge hq)]; simp [hq]
    · simp [hq]
  · unfold RegsKept at h5 ⊢
    rw [w3, f]; exact h5
  · unfold FlagsKept at h6 ⊢
    rw [w3, f]; exact h6
  · rw [w3, f]; exact h3

/-- An instruction that only goes on elsewhere. -/
theorem goesOn_goto (i : Instr) (u : Use) (pc : BitVec 32) (s : State) (hu : u.dst = none) (hn : s.myRole.nul = 0) :
    GoesOn i u pc 0 s (((Did.goto s.found pc).popped u).close i) := by
  simp only [Did.popped, Did.close, popAll_eq, popList_found]
  obtain ⟨a, b, c, e, f, g, k, m, n⟩ := pops_spec (popList s u) s.found
  have ht := (touched_found s).pops (popList s u)
  rw [f, found_nul, hn]
  obtain ⟨r1, r2, r3⟩ := ht.issued i pc 0
  obtain ⟨_, _, w3, _, w5, _, _⟩ := retireTo_spec i pc 0 (pops (popList s u) s.found)
  refine ⟨r1, ?_, ?_, ?_, ?_, r2, r3⟩
  · intro q
    rw [← ht.me, w5, ht.me, ← found_me s, n, hu]; simp
  · intro x y _; rw [w3, f]; rfl
  · intro x y; rw [w3, f]; rfl
  · rw [w3, f]; rfl

/-- An instruction that only goes on behind itself. -/
theorem goesOn_done (i : Instr) (u : Use) (s : State) (hu : u.dst = none) (hn : s.myRole.nul = 0) :
    GoesOn i u (linkOf s.myRole i) 0 s (((Did.done s.found).popped u).close i) := by
  have h := goesOn_goto i u (linkOf s.myRole i) s hu hn
  have e : ((Did.done s.found).popped u).close i = ((Did.goto s.found (linkOf s.myRole i)).popped u).close i := by
    simp only [Did.popped, Did.close, retire, popAll_eq, popList_found]
    rw [(pops_spec (popList s u) s.found).role, linkOf_found]
  rw [e]; exact h

/-- Two sources, one fixed-latency result: what `alu2` does. -/
theorem alu2_computes (i : Instr) (lat : Nat) (d a b : BitVec 5) (f : Word → Word → Word) (s : State) (hf : Free s)
    (hd : dstOk d s.cur.role = true) (hs : Supplied { srcs := [a, b], dst := some d } s) :
    Computes i { srcs := [a, b], dst := some d } d lat
      (f (sourceOf { srcs := [a, b], dst := some d } s 0) (sourceOf { srcs := [a, b], dst := some d } s 1)) s
      (alu2 i lat d a b f s) := by
  unfold alu2
  rw [gate_runs i true (dstOk d) false id _ s hf rfl hd (by simp), operands_runs _ _ s hs]
  exact computes_close i _ d lat _ s rfl hf.2

/-- One source, one fixed-latency result: what `alu1` does. -/
theorem alu1_computes (i : Instr) (lat : Nat) (d a : BitVec 5) (f : Word → Word) (s : State) (hf : Free s)
    (hd : dstOk d s.cur.role = true) (hs : Supplied { srcs := [a], dst := some d } s) :
    Computes i { srcs := [a], dst := some d } d lat (f (sourceOf { srcs := [a], dst := some d } s 0)) s
      (alu1 i lat d a f s) := by
  unfold alu1
  rw [gate_runs i true (dstOk d) false id _ s hf rfl hd (by simp), operands_runs _ _ s hs]
  exact computes_close i _ d lat _ s rfl hf.2

end Sys2Proof.Machine
end

