-- ==== Sys2Proof/Tests/Slice0.lean ====
section
/-! SUPPORT. Tests of the decoder and of the well-formedness checks on words and terms that the spec works out, and for each statement a
state and operands that meet its hypotheses. -/

namespace Sys2Proof.Tests

set_option Elab.async false

open Sys2Proof Sys2Proof.Machine Sys2Proof.Said

/-! ### Small states -/

/-- A strand of record 0x1000 in domain 1. -/
def strandA : Strand :=
  { ref := ⟨0x1000, 1, 0x1000, false⟩, prio := 20, scope := 17, started := false, timed := false, preempted := false, smask := 0,
    groups := 0 }

/-- The first 32 MiB of domain 1 at the same addresses of the deep store, writable and executable (13 R275). -/
def page0 : TlbEntry := ⟨1, 0, 25, 0xC000000000000060, 0⟩

/-- A supervisor role at word 1 of line 65. -/
def ctxOf (regs : Sp Word) : RoleCtx := { present := true, sup := true, pc := codeAddr 65 1, regs := regs }

/-- A slot whose three roles run. -/
def slotOf (regs : Sp Word) : Slot := { strand := some strandA, lo := ctxOf regs, co := ctxOf regs, st := ctxOf regs, domain := 1 }

/-- Slot 0 holds `x`, and its role `r` acts. -/
def holding (r : Role) (x : Slot) : State :=
  { State.reset with cycle := 10, slots := [(0, x)], cores := [(0, { utlb := [page0] })], cur := contextOf 0 r }

/-- Role `r` of slot 0 acts with these registers. -/
def seat (r : Role) (regs : Sp Word) : State := holding r (slotOf regs)

/-- Where an address of the acting role leads. -/
def leads (s : State) (va : Word) (k : AccKind) : State × Except Nat Place :=
  translate s.found (coreOf s.me) (s.found.slot s.me).domain va.toNat k s.found.myRole.sup s.me

theorem reaches {s : State} {va : Word} {n : Nat} {k : AccKind} {p : Place} (h : va.toNat % n = 0) (e : (leads s va k).2 = .ok p)
    (w : ∀ o, p ≠ .window o) : Reaches s va n k (leads s va k).1 p :=
  ⟨h, Prod.ext rfl e, fun o q => absurd q (w o)⟩

theorem unarmed {s : State} (h : s.cores.all (fun e => !e.2.einj.getLsbD 0) = true) (k : Nat) :
    (s.core k).einj.getLsbD 0 = false := by
  have g : ∀ l : Sp Core, l.all (fun e => !e.2.einj.getLsbD 0) = true → (l.get k {}).einj.getLsbD 0 = false := by
    intro l
    induction l with
    | nil => intro _; simp [Sp.get]
    | cons e r ih =>
      intro h
      simp only [List.all_cons, Bool.and_eq_true, Bool.not_eq_true'] at h
      simp only [Sp.get]
      split
      · exact h.1
      · exact ih h.2
  exact g s.cores h

/-- `RecQuiet`, as a computation. -/
def quietly (s : State) (pa : Nat) : Bool :=
  decide (pa % 64 = 0 ∧ s.deepErr = [] ∧ s.deepMetaErr = [] ∧ metaBad (metaAt s (.deep pa)) = false) &&
    s.cores.all (fun e => !e.2.einj.getLsbD 0) &&
    decide ((∀ e ∈ s.clusters, ∀ m ∈ e.2.monitors, m.2 ≠ .deep pa) ∧ s.stalled = [] ∧ undoFirst s pa = false)

theorem rec_quiet {s : State} {pa : Nat} (q : quietly s pa = true) : RecQuiet s pa := by
  simp only [quietly, Bool.and_eq_true, decide_eq_true_eq] at q
  obtain ⟨⟨⟨a, b, c, d⟩, e⟩, f, g, h⟩ := q
  exact ⟨a, b, c, d, unarmed e, f, g, h⟩

/-- In a state with one slot, no other has a store on its way. -/
theorem unraced {s s1 : State} {x : Slot} (p : Place) (h : s1.slots = [(0, x)]) (m : s.me = 0) : Unraced s s1 p := by
  intro k r hk
  have e : s1.slot k = {} := by simp [State.slot, h, Sp.get, show k ≠ 0 from m ▸ hk]
  simp only [State.role, e]
  cases r <;> rfl

/-! ### Words that the spec works out -/

/-- Each pair of words decodes to its instruction. -/
def decodesTo (l : List (InstrWord × InstrWord × Instr)) : Bool := l.all (fun e => decode e.1 e.2.1 == .ok e.2.2)

/-- 03 R47 and the listing behind R66; 04, the table of worked encodings, with SUB at stall count 2. -/
theorem test_words_scalar : decodesTo
    [(0x02463200, 0, .add 1 3 3 4), (0x020A6381, 0, .sub 0 5 6 7), (0x028A6381, 0, .sub 2 5 6 7), (0x04129FFF, 0, .addImm 0 9 9 0xFFF),
      (0x240822C8, 0, .extz 0 4 2 11 8), (0x2C06320C, 0, .wrap 0 3 3 4 12), (0x2E07FFFE, 0, .movi 0 3 0x1FFFE),
      (0x30023202, 0, .fcmp 0 1 3 4 2), (0x34040003, 0, .nul 0 2 3), (0x4C220009, 0, .bfN 0 1 0 9), (0x52000021, 0, .jl 0 2 1),
      (0x7804A501, 0, .ldq 0 2 10 5 1), (0x7A02B000, 0, .stq 0 1 11 0 0), (0x98080004, 0, .tick 0 4), (0x9A0C0009, 0, .sysr 0 6 9),
      (0x9C080001, 0, .sysw 0 4 1), (0x9E000005, 0, .trap 0 5), (0x6C0C2302, 0, .ldD 0 6 2 3 2), (0x4E0A0001, 0, .loop 0 5 0 1),
      (0xCA0E0000, 0x12345678, .movl 0 7 0x12345678), (0x98000000, 0, .nop 0)] = true := by
  decide +kernel

/-- 05, the worked image; 06, 16 and 21, words of the programs. -/
theorem test_words_programs : decodesTo
    [(0x02921420, 0, .mul 2 9 1 8), (0x02149480, 0, .add 0 10 9 9), (0x9C26000B, 0, .sysw 0 19 11), (0x9A34000C, 0, .diagdRead 0 26),
      (0x0235A584, 0, .xor 0 26 26 11), (0x021CC692, 0, .minu 0 14 12 13), (0x801AD003, 0, .ldo 0 13 13 0 0 3),
      (0x24125760, 0, .extz 0 9 5 29 32), (0x2A063083, 0, .lea 0 3 3 1 3), (0x9E000002, 0, .trap 0 2), (0x97CE0000, 0, .seghdr 7 7 0)] =
      true := by
  decide +kernel

/-- 15 R305, R312, R315, R319, R328. -/
theorem test_words_atomics_phasers : decodesTo
    [(0x800A200B, 0, .ldo 0 5 2 1 0 3), (0x800A2006, 0, .ldo 0 5 2 0 1 2), (0x80002253, 0, .sto 0 2 4 2 3),
      (0x880C2180, 0, .aaddD 0 6 2 3 0), (0x88002190, 0, .aorD 0 0 2 3 0), (0x880C21CC, 0, .aexchD 0 6 2 3 4),
      (0x880C21D0, 0, .aincwD 0 6 2 3 0), (0x860C21C0, 0, .afaddW 0 6 2 3 0),
      (0xC80A2180, 0x21980000, .acas 0 ⟨5, 2, 3, 4, 0, 0x6600, 0⟩), (0x8A0A3003, 0, .waitaD 0 5 3 0),
      (0x8C0A6000, 0, .phnew 0 5 6), (0x8C082183, 0, .phregSw 0 4 2 3), (0x8C002004, 0, .phdrop 0 2), (0x8C002005, 0, .phsig 0 2),
      (0x8C002006, 0, .phwait 0 2), (0x8C002007, 0, .phnext 0 2), (0x8C082188, 0, .phlink 0 4 2 3), (0x8C0E2009, 0, .phqry 0 7 2)] =
      true := by
  decide +kernel

/-- 11 R231 to R239, 12 R252 to R265, 17 R351 to R360, 18 R396 to R399, 20 R416 to R423. -/
theorem test_words_control : decodesTo
    [(0x900A6380, 0, .spawn 0 5 6 7), (0x900C3381, 0, .spawnj 0 6 3 7), (0x90003002, 0, .join 0 3), (0x90000003, 0, .exit 0),
      (0x90000004, 0, .yield 0), (0x90000005, 0, .susp 0), (0x90120006, 0, .self 0 9), (0x90064007, 0, .prio 0 3 4),
      (0x90002188, 0, .evset 0 2 3), (0x90002189, 0, .evclr 0 2 3), (0x9000218A, 0, .evwait 0 2 3), (0x9008200B, 0, .evtest 0 4 2),
      (0x92003000, 0, .twait 0 3), (0x920C4001, 0, .frameq 0 6 4), (0x92000002, 0, .bend 0), (0x92043203, 0, .scope 0 2 3 4),
      (0x92002004, 0, .cancel 0 2), (0x920E2005, 0, .scqry 0 7 2), (0x920A2186, 0, .scack 0 5 2 3), (0x94002180, 0, .tbinit 0 2 3),
      (0x94002181, 0, .tbexp 0 2 3), (0x940E2182, 0, .tbarv 0 7 2 3), (0x94102003, 0, .tbwait 0 8 2 0), (0x94000013, 0, .tksig 0 3),
      (0x94000022, 0, .tkwait 0 2), (0x960C2000, 0, .seghdr 0 6 2), (0x96020001, 0, .stgq 0 1), (0x96000002, 0, .stgrel 0),
      (0x960A2183, 0, .parkSet 0 5 2 3), (0xA0000080, 0, .jrnlStore 0 0 0 1), (0xA00C0001, 0, .replay 0 6), (0xA00E0002, 0, .snap 0 7),
      (0xA0064003, 0, .ckptClose 0 3 4), (0xA0002184, 0, .tlbinv 0 2 3), (0x98000001, 0, .eret 0)] = true := by
  decide +kernel

/-- 03 R54, 09 R184, 10 R202, 17 R361, and the words of 19 and 23. -/
theorem test_words_engines : decodesTo
    [(0xC00282C8, 0x0CF20233, .vadd 0 ⟨10, 11, 12, 15, 2, 0, 0x233⟩), (0xC007836B, 0x1FF20000, .vins 0 ⟨30, 13, 31, 15, 2, 0, 0⟩),
      (0xC0000781, 0x00F20260, .vst 0 ⟨0, 30, 0, 15, 2, 0, 0x260⟩), (0xC200800D, 0x01FC0240, .blog 0 ⟨2, 0, 1, 15, 12, 0, 0x240⟩),
      (0xC2084790, 0x00F20800, .vselb 0 ⟨33, 30, 0, 15, 2, 2, 0⟩), (0xC2018048, 0x00F10240, .bpopr 0 ⟨6, 1, 0, 15, 1, 0, 0x240⟩),
      (0xC4000000, 0x00307000, .mlds 0 ⟨0, 0, 0, 0, 0, 0, 3, 0, 0, 28, 0⟩), (0xC4000001, 0, .mflip 0 ⟨0, 0, 0, 0, 0, 0, 0, 0, 0, 0, 0⟩),
      (0xC4000004, 0x04000220, .mpset 0 ⟨0, 0, 0, 0, 0, 4, 0, 0, 0, 0, 0x220⟩),
      (0xC4000003, 0x09330000, .mzero 0 ⟨0, 0, 0, 0, 0, 9, 3, 3, 0, 0, 0⟩),
      (0xC4002D82, 0x09337413, .mstr 0 ⟨0, 1, 1, 2, 3, 9, 3, 3, 0, 29, 0x13⟩),
      (0xC4050002, 0x7EA7F800, .mstr 0 ⟨20, 0, 0, 0, 0, 126, 10, 7, 1, 30, 0⟩),
      (0xC5C02D82, 0x01337653, .mstr 7 ⟨0, 1, 1, 2, 3, 1, 3, 3, 0, 29, 0x253⟩),
      (0xC4014010, 0x02000000, .ocld 0 ⟨5, 0, 0, 0, 0, 2, 0, 0, 0, 0, 0⟩), (0xC4024010, 0x37000000, .ocld 0 ⟨9, 0, 0, 0, 0, 0x37, 0, 0, 0,
        0, 0⟩),
      (0xC4014011, 0x4C000012, .ocmp 0 ⟨5, 0, 0, 0, 0, 0x4C, 0, 0, 0, 0, 0x12⟩),
      (0xC401C011, 0xD2000000, .ocmp 0 ⟨7, 0, 0, 0, 0, 0xD2, 0, 0, 0, 0, 0⟩),
      (0xC6085300, 0x10000C00, .cpy 0 ⟨4, 5, 6, 2, 0, 3, 0⟩), (0xC612A580, 0x10000C10, .cpy 0 ⟨9, 10, 11, 2, 0, 3, 0x10⟩),
      (0xC6244B01, 0xA0001C00, .cpyt 0 ⟨18, 4, 22, 20, 0, 7, 0⟩), (0xC60E8180, 0x04000016, .cpy 0 ⟨7, 8, 3, 0, 1, 0, 0x16⟩)] = true := by
  decide +kernel

/-- The words that the spec names as refused (03 R60, 04), and other reserved codes. -/
theorem test_words_refused :
    [0x02463207, 0xFFFFFFFF, 0x240821FC, 0x34040000, 0x30023206].all
      (fun w : InstrWord => match decode w 0 with | .ok _ => false | .error _ => true) = true := by
  decide +kernel

/-- The words are numbered from the first (03 R47): the first word is bits 31 to 0, the second bits 63 to 32. -/
theorem test_table_word : decodeTableWord 64 (0xCA0E0000 + 0x12345678 * 2 ^ 32) = some (.movl 0 7 0x12345678) := by decide +kernel

/-! ### Terms that the well-formedness checks refuse -/

/-- One term for each limit of 03 R51 to R61 on the scalar fields. -/
theorem test_illFormed_scalar :
    [Instr.shlImm 0 1 2 64, .shrImm 0 1 2 64, .sarImm 0 1 2 64, .rotlImm 0 1 2 64, .exts 0 1 2 63 1, .extz 0 4 2 7 60, .ins 0 1 2 1 63,
      .wrap 0 1 2 3 0, .wrap 0 1 2 3 64, .fcmp 0 1 2 3 6, .flog 0 1 2 3 8, .flog 0 1 0 1 4, .flog 0 1 1 0 6, .nul 0 1 0, .beq 0 1 2 3 0,
      .bf 0 1 0 0, .loop 0 1 0 0, .j 0 0 0, .ldo 0 1 2 2 0 3, .ldo 0 1 2 0 1 3, .sto 0 1 2 1 3, .fence 0 0 0, .fence 0 5 0, .fence 0 1 6,
      .xfence 0 0, .aaddW 0 1 2 3 5, .aaddD 0 0 2 3 1, .waitaD 0 1 6 0, .waitaW 0 1 1 6, .phwait 0 0, .phnext 0 6, .scack 0 1 0 0,
      .sysr 0 1 0xC, .sysr 0 1 0x11, .sysw 0 1 2, .sysw 0 1 0xF].all (fun i => !i.wellFormed) = true := by
  decide +kernel

/-- One term for each limit on the fields of the long forms (03 R55 to R58, 08 R155, 09 R184, 17 R361). -/
theorem test_illFormed_long :
    let m : MxOps := ⟨0, 0, 0, 0, 0, 1, 3, 3, 0, 28, 0⟩
    let x : ExOps := ⟨1, 2, 3, 4, 0, 0, 0⟩
    let v : VxOps := ⟨1, 2, 3, 15, 2, 0, 0⟩
    ((Instr.vadd 0 v).wellFormed && (Instr.mstr 0 m).wellFormed && (Instr.cpy 0 x).wellFormed) = true ∧
      ∀ i ∈ [Instr.vadd 0 { v with vd := 160 }, .vadd 0 { v with mask := 8 }, .vadd 0 { v with ty := 14 }, .vadd 0 { v with aux := 2 },
          .vadd 0 { v with tok := 0x20 }, .vadd 0 { v with tok := 1 }, .vmov 0 v, .vld 0 { v with va := 32, vb := 0 },
          .bcomp 0 { v with vd := 4, va := 0, vb := 0, ty := 12 }, .vsel 0 v, .vred 0 { v with vb := 0, ty := 9 },
          .mlds 0 { m with cnt := 0, af := 0, row := 1 }, .mflip 0 m, .mstr 0 { m with row := 160 }, .mstr 0 { m with cnt := 0 },
          .mstr 0 { m with row := 159, cnt := 2 }, .mstr 0 { m with pm := 1 }, .mstr 0 { m with wf := 4 }, .mstr 0 { m with sat := 1 },
          .mpset 0 ⟨8, 0, 0, 0, 0, 0, 0, 0, 0, 0, 0⟩, .mpset 0 ⟨0, 0, 0, 0, 0, 3, 0, 0, 0, 0, 0⟩,
          .ocld 0 ⟨0, 0, 0, 0, 0, 9, 0, 0, 0, 0, 0⟩, .ocmp 0 ⟨0, 0, 0, 0, 0, 7, 0, 0, 0, 0, 0⟩, .cpy 0 { x with aux := 4 },
          .cpyt 0 { x with aux := 8 }, .kvget 0 { x with aux := 1 }, .kvputStore 0 { x with aux := 4 }, .kvputRetain 0 x,
          .kvputRelease 0 { x with aux := 0x108 }, .msg 0 x, .msg 0 { x with aux := 5 }, .dtld 0 { x with aux := 1 },
          .acas 0 { x with aux := 0xA000 }, .acas 0 { x with aux := 0x0800 }, .acas 0 { x with q := 1 }, .aaddb 0 { x with tok := 0x10 }],
        i.wellFormed = false := by
  decide +kernel

/-! ### Single steps -/

/-- The value that an instruction of the acting role leaves in register `d` some cycles later. -/
def leaves (i : Instr) (s : State) (d : Nat) : Option Word :=
  match exec i s with
  | .next t => some (t.myRole.reg d (s.cycle + 40))
  | _ => none

/-- 04 R77: a window of 4 KiB around 0x20F80, forwards and backwards; 04 R74: ALIGNUP of 0x1234 to 256. -/
theorem test_wrap_alignup :
    leaves (.wrap 0 3 1 2 12) (seat .computer [(1, 0x20F80), (2, 0x100)]) 3 = some 0x20080 ∧
      leaves (.wrap 0 3 1 2 12) (seat .computer [(1, 0x20040), (2, 0xFFFFFFFFFFFFFF00)]) 3 = some 0x20F40 ∧
      leaves (.alignup 0 3 1 8) (seat .computer [(1, 0x1234)]) 3 = some 0x1300 := by
  decide +kernel

/-- 04 R76: MOVL of 0x80000000 sign-extends, and LHI of 1 then leaves 0x180000000. -/
theorem test_movl_lhi :
    leaves (.movl 0 3 0x80000000) (seat .computer []) 3 = some 0xFFFFFFFF80000000 ∧
      leaves (.lhi 0 3 1) (seat .computer [(3, 0xFFFFFFFF80000000)]) 3 = some 0x180000000 := by
  decide +kernel

/-- 02 R22: a write of s0 leaves 0; 04 R69: a sum wraps, a source being its own destination. -/
theorem test_add :
    leaves (.add 0 0 1 2) (seat .loader [(1, 1), (2, 2)]) 0 = some 0 ∧
      leaves (.add 0 1 1 1) (seat .loader [(1, 0x8000000000000001)]) 1 = some 2 := by
  decide +kernel

/-! ### Witnesses: scalar results, flags, control flow -/

/-- Two operands, 7 in s6 and 5 in s7. -/
def regs67 : Sp Word := [(6, 7), (7, 5)]

theorem witness_TwoSourceResults : 1 ≤ (63 : BitVec 7).toNat ∧ (63 : BitVec 7).toNat ≤ 63 ∧ Free (seat .computer regs67) ∧
    dstOk 5 (seat .computer regs67).cur.role = true ∧ Supplied (rr 5 6 7) (seat .computer regs67) := by
  unfold Free Supplied; decide +kernel

/-- A pop of a filled load queue and a push of a store queue (02 R24). -/
theorem witness_TwoSourceResults_queues :
    let s := holding .computer { slotOf regs67 with queues := [(0, [{ val := 9, due := 3 }])] }
    Free s ∧ dstOk 29 s.cur.role = true ∧ Supplied (rr 29 28 7) s := by
  unfold Free Supplied; decide +kernel

theorem witness_ImmediateResults : (Instr.shlImm 0 5 6 63).wellFormed = true ∧ Free (seat .loader regs67) ∧
    dstOk 5 (seat .loader regs67).cur.role = true ∧ Supplied (ru 5 6) (seat .loader regs67) := by
  unfold Free Supplied; decide +kernel

theorem witness_BitFieldResults : (Instr.exts 0 5 6 63 0).wellFormed = true ∧ Free (seat .storer regs67) ∧
    dstOk 5 (seat .storer regs67).cur.role = true ∧ Supplied (ru 5 6) (seat .storer regs67) := by
  unfold Free Supplied; decide +kernel

theorem witness_ConstantResults : Free (seat .storer []) ∧ dstOk 5 (seat .storer []).cur.role = true ∧
    Supplied { dst := some 5 } (seat .storer []) := by
  unfold Free Supplied; decide +kernel

theorem witness_ReadModifyResults :
    let s := seat .computer regs67
    Free s ∧ noPort 6 s.cur.role = true ∧ (Instr.ins 0 6 7 31 32).wellFormed = true ∧
      Supplied { srcs := [6, 7], dst := some 6 } s ∧ Supplied { srcs := [6], dst := some 6 } s ∧ dstOk 5 s.cur.role = true ∧
      Supplied { srcs := [6, 7], flags := [2], dst := some 5 } s := by
  unfold Free Supplied; decide +kernel

theorem witness_DivideResults :
    let s := seat .computer [(6, 0x8000000000000000), (7, 0xFFFFFFFFFFFFFFFF)]
    let x := holding .computer { slotOf regs67 with strand := some { strandA with timed := true } }
    Free s ∧ dstOk 5 s.cur.role = true ∧ Supplied (rr 5 6 7) s ∧ ¬ isTimed s ∧
      (s.core (coreOf s.me)).divider ≤ s.cycle + 40 ∧ Free x ∧ Supplied (rr 5 6 7) x ∧ isTimed x := by
  unfold Free Supplied isTimed; decide +kernel

theorem witness_FlagResults :
    let s := seat .computer regs67
    Free s ∧ (5 : BitVec 7).toNat ≤ 5 ∧ Supplied { srcs := [6, 7], dstFlag := some 1 } s ∧ (7 : BitVec 7).toNat ≤ 7 ∧
      Supplied { flags := combinesOf 7 1 2, dstFlag := some 3 } s ∧ Supplied { flags := [1] } s := by
  unfold Free Supplied; decide +kernel

/-- The first word and the last line that a target may name (03 R52). -/
theorem witness_BranchesGoWhereTaken :
    let s := seat .computer regs67
    let x := holding .computer { slotOf regs67 with co := { ctxOf regs67 with pc := codeAddr 0xFFFFFFD 1 } }
    Free s ∧ aimOk s (-65) 1 ∧ Supplied { srcs := [6, 7] } s ∧ Supplied { flags := [1] } s ∧ Free x ∧ aimOk x 1 15 := by
  unfold Free Supplied aimOk; decide +kernel

theorem witness_JumpsAndLoops :
    let s := seat .computer [(6, 0xF0000000), (7, 5)]
    Free s ∧ aimOk s 127 15 ∧ noPort 7 s.cur.role = true ∧ Supplied { srcs := [7], dst := some 7 } s ∧ Supplied {} s ∧
      Supplied { dst := some 27 } s ∧ dstOk 5 s.cur.role = true ∧ Supplied (ru 5 6) s ∧
      (sourceOf (ru 5 6) s 0).toNat < 2 ^ 32 ∧ field (sourceOf (ru 5 6) s 0) 28 4 ≠ 0 ∧
      field (sourceOf (ru 5 6) s 0) 0 28 ≠ 0xFFFFFFF := by
  unfold Free Supplied aimOk; decide +kernel

/-! ### Witnesses: memory accesses -/

/-- s6 holds an address of the scratchpad window, s7 one of the deep store, s8 a value. -/
def regsMem : Sp Word := [(6, 0xFF000000000100), (7, 0x200000), (8, 0x1122334455667788)]

/-- The place that s6 names, the place that s7 names. -/
def placeS : Place := .spad 0 0x100
def placeD : Place := .deep 0x200000

theorem leads_spad (r : Role) (k : AccKind) : (leads (seat r regsMem) 0xFF000000000100 k).2 = .ok placeS := by
  cases r <;> cases k <;> rfl

theorem leads_deep (r : Role) (k : AccKind) : (leads (seat r regsMem) 0x200000 k).2 = .ok placeD := by
  cases r <;> cases k <;> rfl

theorem quiet_spad (r : Role) (k : AccKind) : Plainly (seat r regsMem) (leads (seat r regsMem) 0xFF000000000100 k).1 placeS := by
  cases r <;> cases k <;> refine ⟨?_, ?_, ?_, ?_, nofun, nofun⟩ <;> decide +kernel

theorem quiet_deep (r : Role) (k : AccKind) : Plainly (seat r regsMem) (leads (seat r regsMem) 0x200000 k).1 placeD := by
  cases r <;> cases k <;>
    refine ⟨?_, ?_, ?_, ?_, nofun,
      fun a e => by cases e; exact ⟨by decide, fun _ => by decide +kernel⟩⟩ <;> decide +kernel

theorem witness_PlainLoadsReturn :
    let s := seat .loader regsMem
    s.cur.role ≠ .computer ∧ Free s ∧ Supplied (ru 5 6) s ∧ sourceOf (ru 5 6) s 0 = 0xFF000000000100 ∧
      Reaches s (mmAddress 0xFF000000000100 0 8) 8 .read (leads s 0xFF000000000100 .read).1 placeS ∧ Idle s ∧
      Sound (leads s 0xFF000000000100 .read).1 placeS :=
  ⟨by decide, by unfold Free; decide +kernel, by unfold Supplied; decide +kernel, by decide +kernel,
    reaches (by decide) (leads_spad .loader .read) nofun, by unfold Idle; decide +kernel, by decide +kernel⟩

theorem witness_PlainLoadsReturn_deep :
    let s := seat .loader regsMem
    Supplied (ru 5 7) s ∧ sourceOf (ru 5 7) s 0 = 0x200000 ∧
      Reaches s (mmAddress 0x200000 0 1) 1 .read (leads s 0x200000 .read).1 placeD ∧
      Stamped s (leads s 0x200000 .read).1 placeD ∧ Sound (leads s 0x200000 .read).1 placeD :=
  ⟨by unfold Supplied; decide +kernel, by decide +kernel, reaches (by decide) (leads_deep .loader .read) nofun,
    fun _ => by decide +kernel, by decide +kernel⟩

theorem witness_StoresReachMemory :
    let s := seat .storer regsMem
    s.cur.role ≠ .computer ∧ Free s ∧ Supplied (rs 7 8) s ∧ sourceOf (rs 7 8) s 0 = 0x200000 ∧
      Reaches s (mmAddress 0x200000 0 4) 4 .write (leads s 0x200000 .write).1 placeD ∧ Idle s ∧
      Stamped s (leads s 0x200000 .write).1 placeD ∧ AtOnce s (leads s 0x200000 .write).1 0x200000 ∧
      Plainly s (leads s 0x200000 .write).1 placeD ∧
      Unraced s (leads s 0x200000 .write).1 placeD :=
  ⟨by decide, by unfold Free; decide +kernel, by unfold Supplied; decide +kernel, by decide +kernel,
    reaches (by decide) (leads_deep .storer .write) nofun, by unfold Idle; decide +kernel, fun _ => by decide +kernel,
    .inr (by decide +kernel), quiet_deep .storer .write, unraced _ rfl rfl⟩

/-- The same store while the timing choice holds it for three cycles. -/
theorem witness_StoresReachMemory_held :
    let s := { seat .storer regsMem with delays := [3] }
    Free s ∧ Supplied (rs 6 8) s ∧ Idle s ∧ ¬ isTimed s ∧
      0 < heldFor s (leads s 0xFF000000000100 .write).1 0xFF000000000100 ∧
      Reaches s (mmAddress 0xFF000000000100 0 8) 8 .write (leads s 0xFF000000000100 .write).1 placeS ∧
      Plainly s (leads s 0xFF000000000100 .write).1 placeS ∧ Unraced s (leads s 0xFF000000000100 .write).1 placeS :=
  ⟨by unfold Free; decide +kernel, by unfold Supplied; decide +kernel, by unfold Idle; decide +kernel,
    by unfold isTimed; decide +kernel, by decide +kernel, reaches (by decide) rfl nofun,
    by refine ⟨?_, ?_, ?_, ?_, nofun, nofun⟩ <;> decide +kernel, unraced _ rfl rfl⟩

theorem witness_QueueAccessesMoveData :
    let s := seat .loader regsMem
    let x := holding .storer { slotOf regsMem with queues := [(5, [{ val := 9, due := 3 }])] }
    Free s ∧ Supplied { srcs := [6] } s ∧ Idle s ∧ s.cur.role = .loader ∧ (s.found.queue s.me 3).length < 16 ∧
      sourceOf { srcs := [6] } s 0 = 0xFF000000000100 ∧
      Reaches s (mmAddress 0xFF000000000100 0 8) 8 .read (leads s 0xFF000000000100 .read).1 placeS ∧
      Free x ∧ Supplied { srcs := [6] } x ∧ Idle x ∧ x.cur.role = .storer ∧
      x.found.queue x.me (4 + (1 : BitVec 1).toNat) = { val := 9, due := 3 } :: [] ∧
      ({ val := 9, due := 3 } : QEntry).arrived x.now = true ∧
      Reaches x (mmAddress 0xFF000000000100 0 8) 8 .write (leads x 0xFF000000000100 .write).1 placeS ∧
      AtOnce x (leads x 0xFF000000000100 .write).1 0xFF000000000100 ∧
      Plainly x (leads x 0xFF000000000100 .write).1 placeS ∧ Unraced x (leads x 0xFF000000000100 .write).1 placeS ∧
      Sound (leads s 0xFF000000000100 .read).1 placeS := by
  refine ⟨by unfold Free; decide +kernel, by unfold Supplied; decide +kernel, by unfold Idle; decide +kernel, rfl, ?_, ?_,
    reaches (by decide) (leads_spad .loader .read) nofun, by unfold Free; decide +kernel, by unfold Supplied; decide +kernel,
    by unfold Idle; decide +kernel, rfl, ?_, ?_, reaches (by decide) rfl nofun, .inr (by decide +kernel),
    by refine ⟨?_, ?_, ?_, ?_, nofun, nofun⟩ <;> decide +kernel, unraced _ rfl rfl, ?_⟩ <;> decide +kernel

theorem witness_OrderedAccesses :
    let s := seat .loader regsMem
    s.cur.role ≠ .computer ∧ Free s ∧ Idle s ∧ Supplied (ru 5 7) s ∧ Supplied (rs 7 8) s ∧ sourceOf (ru 5 7) s 0 = 0x200000 ∧
      Reaches s 0x200000 (2 ^ (3 : BitVec 2).toNat) .read (leads s 0x200000 .read).1 placeD ∧
      Sound (leads s 0x200000 .read).1 placeD ∧
      Reaches s 0x200000 (2 ^ (0 : BitVec 2).toNat) .write (leads s 0x200000 .write).1 placeD ∧
      AtOnce s (leads s 0x200000 .write).1 0x200000 ∧
      Plainly s (leads s 0x200000 .write).1 placeD :=
  ⟨by decide, by unfold Free; decide +kernel, by unfold Idle; decide +kernel, by unfold Supplied; decide +kernel,
    by unfold Supplied; decide +kernel, by decide +kernel, reaches (by decide) (leads_deep .loader .read) nofun,
    by decide +kernel, reaches (by decide) (leads_deep .loader .write) nofun, .inr (by decide +kernel),
    quiet_deep .loader .write⟩

theorem witness_NopAndFencesGoOn :
    let s := seat .loader []
    let x := seat .computer []
    Free s ∧ Idle s ∧ s.cur.role ≠ .computer ∧ Free x ∧ Idle x ∧ commandsDone x.found = true := by
  unfold Free Idle; decide +kernel

/-! ### Witnesses: atomics -/

theorem not_routed_spad : ¬ Routed 0 0 placeS := by
  rintro ⟨-, -, ⟨a, e⟩ | ⟨k, a, e⟩⟩ <;> cases e

theorem witness_AtomicsUpdateAtHome :
    let s := seat .loader regsMem
    s.cur.role ≠ .computer ∧ Free s ∧ Idle s ∧ Supplied (rr 5 7 8) s ∧ sourceOf (rr 5 7 8) s 0 = 0x200000 ∧
      Reaches s 0x200000 8 .atomic (leads s 0x200000 .atomic).1 placeD ∧ Plainly s (leads s 0x200000 .atomic).1 placeD ∧
      ¬ Routed 9 0 placeD ∧ ¬ Routed 0 3 placeD ∧ ¬ Routed 0 0 placeS ∧ ((5 : BitVec 5) ≠ 0 ∨ AtOnce s (leads s 0x200000 .atomic).1 0x200000) :=
  ⟨by decide, by unfold Free; decide +kernel, by unfold Idle; decide +kernel, by unfold Supplied; decide +kernel,
    by decide +kernel, reaches (by decide) (leads_deep .loader .atomic) nofun, quiet_deep .loader .atomic,
    fun h => absurd h.1 (by decide), fun h => absurd h.2.1 (by decide),
    not_routed_spad, .inl (by decide)⟩

theorem witness_RoutedAndConditionalAtomics :
    let s := seat .storer regsMem
    let x : ExOps := ⟨5, 7, 8, 9, 0, 0x200, 0⟩
    s.cur.role ≠ .computer ∧ Free s ∧ Idle s ∧ Supplied (rr 5 7 8) s ∧
      Reaches s 0x200000 4 .atomic (leads s 0x200000 .atomic).1 placeD ∧ Plainly s (leads s 0x200000 .atomic).1 placeD ∧
      Routed 7 0 placeD ∧ sourceOf { srcs := [x.a, x.b, x.c], dst := some x.d } s 0 = 0x200000 ∧ casWidth x = 8 ∧
      Reaches s 0x200000 8 .atomic (leads s 0x200000 .atomic).1 placeD ∧
      Supplied { srcs := [x.a, x.b, x.c], dst := some x.d } s ∧
      Supplied { srcs := [x.a, x.b, x.c], dst := some x.d, dstFlag := some 7 } s := by
  refine ⟨by decide, by unfold Free; decide +kernel, by unfold Idle; decide +kernel, by unfold Supplied; decide +kernel,
    reaches (by decide) (leads_deep .storer .atomic) nofun, quiet_deep .storer .atomic, ⟨by decide, by decide, .inl ⟨_, rfl⟩⟩, ?_,
    ?_, reaches (by decide) (leads_deep .storer .atomic) nofun, by unfold Supplied; decide +kernel,
    by unfold Supplied; decide +kernel⟩ <;> decide +kernel

/-- s8 differs from the word at the address, s9 is equal to it. -/
theorem witness_WaitAddress :
    let s := seat .loader regsMem
    let s1 := (leads s 0x200000 .read).1
    s.cur.role ≠ .computer ∧ Free s ∧ Supplied (rr 5 7 8) s ∧ Supplied (rr 5 7 9) s ∧ ¬ isTimed s ∧ (s.slot s.me).susp = none ∧
      Reaches s 0x200000 8 .read s1 placeD ∧ Idle s ∧ Sound s1 placeD ∧
      rawRead s1 placeD 8 ≠ (sourceOf (rr 5 7 8) s 1).toNat % 2 ^ (8 * 8) ∧
      rawRead s1 placeD 8 = (sourceOf (rr 5 7 9) s 1).toNat % 2 ^ (8 * 8) ∧ placeD.stamped = true ∧
      (s1.cluster (clusterOf s.me)).monitors.length < 64 := by
  refine ⟨by decide, by unfold Free; decide +kernel, by unfold Supplied; decide +kernel, by unfold Supplied; decide +kernel,
    by unfold isTimed; decide +kernel, ?_, reaches (by decide) (leads_deep .loader .read) nofun, by unfold Idle; decide +kernel, ?_,
    ?_, ?_, ?_, ?_⟩ <;> decide +kernel

/-! ### Witnesses: traps -/

/-- Vector line `0x40 + c` of domain 1, whose words are of role `r`. -/
def vectorLine (r : Role) (c : Nat) : CodeLine := ⟨1, 0x40 + c, false, false, BitVec.ofNat 512 (roleNum r * 2 ^ 28), []⟩

/-- Role `r` acts, with its vectors at line 0x40, of which that of cause `c` is cached. -/
def trapping (r : Role) (c : Nat) (sup : Bool) (regs : Sp Word) : State :=
  let x : RoleCtx := { ctxOf regs with tvec := 0x40, sup := sup }
  { holding r { slotOf regs with lo := x, co := x, st := x } with
    cores := [(0, { utlb := [page0], code := [vectorLine r c] })] }

/-- A condition that `Option.all` computes holds of what is found. -/
theorem all_found {α : Type} {o : Option α} {p : α → Prop} [DecidablePred p] (h : o.all (fun a => decide (p a)) = true) :
    ∀ a, o = some a → p a := by
  rintro a rfl
  exact of_decide_eq_true h

/-- A condition that `Option.any` computes holds of something found. -/
theorem any_found {α : Type} {o : Option α} {p : α → Prop} [DecidablePred p] (h : o.any (fun a => decide (p a)) = true) :
    ∃ a, o = some a ∧ p a := by
  cases o with
  | none => cases h
  | some a => exact ⟨a, rfl, of_decide_eq_true h⟩

theorem vectored {s : State} {c : Nat}
    (h : (s.slot s.me).trap = none ∧ windowsClosed s s.me (some s.cur.role) = true ∧ resultsLanded s s.me = true ∧
      vector s c ≤ 0xFFFFFFE)
    (e : (codeEntry s (coreOf s.me) (s.slot s.me).domain (vector s c) true).all (fun l => decide (l.err = [])) = true)
    (l : (cachedLine s (coreOf s.me) (s.slot s.me).domain (vector s c) true).any
      (fun d => decide ((lineWord d 0).toNat / 2 ^ 28 = roleNum s.cur.role)) = true) : Vectored s c :=
  ⟨h.1, h.2.1, h.2.2.1, h.2.2.2, all_found e, any_found l⟩

theorem witness_SoftwareTraps : Free (trapping .computer 17 false []) ∧ Vectored (trapping .computer 17 false []).found 17 :=
  ⟨by unfold Free; decide +kernel, vectored (by decide +kernel) (by decide +kernel) (by decide +kernel)⟩

theorem witness_RefusedAccessesTrap :
    let s := trapping .loader 3 true [(6, 0x200001)]
    s.cur.role ≠ .computer ∧ Free s ∧ Vectored s.found 3 ∧ Supplied (ru 5 6) s ∧
      (mmAddress (sourceOf (ru 5 6) s 0) 0 2).toNat % 2 ≠ 0 ∧ Supplied (rs 6 5) s ∧
      (mmAddress (sourceOf (rs 6 5) s 0) 0 8).toNat % 8 ≠ 0 :=
  ⟨by decide, by unfold Free; decide +kernel,
    vectored (by decide +kernel) (by decide +kernel) (by decide +kernel),
    by unfold Supplied; decide +kernel, by decide +kernel, by unfold Supplied; decide +kernel, by decide +kernel⟩

/-- An address of the scratchpad's window beyond both parts (13 R268): reason 1. -/
theorem witness_RefusedAccessesTrap_translation :
    let s := trapping .loader 4 true [(6, 0xFF000000400000)]
    let s1 := (leads s 0xFF000000400000 .read).1
    s.cur.role ≠ .computer ∧ Free s ∧ Vectored s1 4 ∧ Supplied (ru 5 6) s ∧ sourceOf (ru 5 6) s 0 = 0xFF000000400000 ∧
      (mmAddress 0xFF000000400000 0 8).toNat % 8 = 0 ∧ leads s (mmAddress 0xFF000000400000 0 8) .read = (s1, .error 1) :=
  ⟨by decide, by unfold Free; decide +kernel,
    vectored (by decide +kernel) (by decide +kernel) (by decide +kernel),
    by unfold Supplied; decide +kernel, by decide +kernel, by decide +kernel, Prod.ext rfl rfl⟩

theorem witness_PrivilegeAndRoleTraps :
    let s := trapping .loader 2 false []
    let x := trapping .computer 1 false []
    blockedBy s s.me s.cur.role = none ∧ s.myRole.sup = false ∧ noPort 5 s.cur.role = true ∧ Vectored s 2 ∧
      blockedBy x x.me x.cur.role = none ∧ x.cur.role = .computer ∧ Vectored x 1 :=
  ⟨by decide +kernel, by decide, by decide,
    vectored (by decide +kernel) (by decide +kernel) (by decide +kernel),
    by decide +kernel, rfl, vectored (by decide +kernel) (by decide +kernel) (by decide +kernel)⟩

/-- The other roles are held at line 70. -/
def returning : State :=
  let x : RoleCtx := { ctxOf [] with held := true, epc := 0x10000046 }
  holding .computer { slotOf [] with lo := x, st := x, co := { ctxOf [] with epc := 0xF0000000 }, handlers := [(.computer, 17)] }

theorem witness_EretReturns :
    let s := returning
    Free s ∧ s.myRole.sup = true ∧ badTarget s.found.myRole.epc = false ∧ (s.slot s.me).journal.any (·.discarded) = false ∧
      (s.slot s.me).lift = [] ∧
      (∀ r, r ≠ s.cur.role → (s.found.role s.me r).held = true ∧ badTarget (s.found.role s.me r).epc = false) ∧
      (s.slot s.me).handlers = (s.cur.role, 17) :: [] ∧ s.found.myRole.psup = false :=
  ⟨by unfold Free; decide +kernel, rfl, by decide +kernel, rfl, rfl,
    fun r h => by cases r <;> first | exact ⟨by decide +kernel, by decide +kernel⟩ | exact absurd rfl h, rfl, by decide +kernel⟩

/-- The same return to supervisor code. -/
theorem witness_EretReturns_nested :
    let s : State := { returning with slots := [(0, (returning.slot 0).modRole .computer (fun c => { c with psup := true }))] }
    Free s ∧ s.myRole.sup = true ∧ badTarget s.found.myRole.epc = false ∧ (s.slot s.me).handlers = (s.cur.role, 17) :: [] ∧
      s.found.myRole.psup = true := by
  unfold Free; decide +kernel

theorem witness_HaltStopsTheSlot :
    let s := seat .storer []
    let x := holding .storer { slotOf [] with victimOf := some 0x1000 }
    Free x ∧ x.myRole.sup = true ∧ unfinishedBlock x.found = none ∧ (x.slot x.me).strand = some strandA ∧
      windowsClosed x.found x.me (some x.cur.role) = true ∧ (x.slot x.me).victimOf = some 0x1000 ∧
      Free s ∧ s.myRole.sup = true ∧ unfinishedBlock s.found = none ∧ (s.slot s.me).strand = some strandA ∧
      windowsClosed s.found s.me (some s.cur.role) = true ∧ (s.slot s.me).saveArea = none := by
  unfold Free; decide +kernel

/-! ### Witnesses: system registers -/

theorem witness_SystemReads :
    let s := seat .computer []
    Free s ∧ dstOk 5 s.cur.role = true ∧ Supplied { dst := some 5 } s ∧ s.myRole.sup = true ∧ diagOk s.found false = true := by
  unfold Free Supplied; decide +kernel

theorem witness_SystemWrites :
    let s := seat .computer [(6, 4)]
    Free s ∧ noPort 6 s.cur.role = true ∧ Supplied { srcs := [6] } s ∧ s.myRole.sup = true ∧
      field (sourceOf { srcs := [6] } s 0) 0 3 ≤ 4 ∧ landedFlags s.found s.me = 0 := by
  unfold Free Supplied; decide +kernel

/-- Role computer acts with `a` in sys.diaga. -/
def diagnosing (a : Word) : State := holding .computer { slotOf [] with co := { ctxOf [] with diaga := a } }

theorem witness_DiagnosticWrites :
    let s := diagnosing 0x200000000000001F
    let x := diagnosing 0x00000000000FC01F
    let y := diagnosing 0x6000000000000400
    Free s ∧ noPort 6 s.cur.role = true ∧ Supplied { srcs := [6] } s ∧ s.myRole.sup = true ∧
      field s.found.myRole.diaga 60 4 = 2 ∧ field s.found.myRole.diaga 0 20 < 32 ∧
      Free x ∧ Supplied { srcs := [6] } x ∧ field x.found.myRole.diaga 60 4 = 0 ∧ field x.found.myRole.diaga 3 12 < 2052 ∧
      Free y ∧ Supplied { srcs := [6] } y ∧ field y.found.myRole.diaga 60 4 = 6 ∧ field y.found.myRole.diaga 0 20 = 0x400 ∧
      sourceOf { srcs := [6] } y 0 = 0 ∧ (x.core (coreOf x.me)).einj.getLsbD 0 = false := by
  unfold Free Supplied; decide +kernel

/-- An injection is armed for the line of row 5 of bank 0. -/
theorem witness_DiagnosticWrites_armed :
    let s := { diagnosing 0x28 with cores := [(0, { utlb := [page0], einj := 0xA000000001 })] }
    Free s ∧ Supplied { srcs := [6] } s ∧ s.myRole.sup = true ∧ field s.found.myRole.diaga 60 4 = 0 ∧
      field s.found.myRole.diaga 3 12 < 2052 ∧
      rawLine (s.core (coreOf s.me)) (field s.found.myRole.diaga 15 5) (field s.found.myRole.diaga 3 12) = some 160 ∧
      einjMatches s (coreOf s.me) (.spad (coreOf s.me) (64 * 160)) = true ∧ monitorCount s = 0 := by
  unfold Free Supplied; decide +kernel

/-! ### Witnesses: strands -/

/-- A record at 0x1000 of scope 17 and priority 20, whose computer begins at line 1; its STATE, join count and, if it waits on
one, the event mask of group 0. -/
def recordAt (st join mask : BitVec 8) : Mem :=
  [(0x1004, 1), (0x1007, 0x10), (0x100C, 17), (0x100E, 20), (0x100F, st)] ++ (if join = 0 then [] else [(0x1010, join)]) ++
    (if mask = 0 then [] else [(0x1012, mask)])

/-- Scope 1, the root, and below it scope 17. -/
def scopes17 (state : Nat) : Sp Scope :=
  [(1, { state := 1, live := 3, dom := 1 }), (17, { state := state, parent := 1, live := 3, depth := 1, dom := 1 })]

/-- Role `r` acts with the record in memory, its line logged. -/
def beside (r : Role) (mem : Mem) (state : Nat) (regs : Sp Word) : State :=
  { seat r regs with deep := mem, scopes := scopes17 state, undo := [(0, { lines := [0x40] })] }

/-- What the record's address leads to. -/
def recordLeads (s : State) : State × Except Nat RecRef :=
  translateRecord s.found (coreOf s.me) (s.found.slot s.me).domain 0x1000 s.found.myRole.sup s.me

theorem record_leads {s : State} (h : (recordLeads s).2 = .ok ⟨0x1000, 1, 0x1000, false⟩) (q : quietly (recordLeads s).1 0x1000 = true) :
    Record s 0x1000 (recordLeads s).1 ⟨0x1000, 1, 0x1000, false⟩ :=
  ⟨by decide, Prod.ext rfl h, rec_quiet q⟩

theorem witness_SpawnPlacesRecord :
    let s := beside .computer (recordAt 1 0 0) 1 [(6, 0x1000), (7, 65535)]
    let s1 := (recordLeads s).1
    let x := beside .computer (recordAt 4 2 0) 1 [(6, 0x1000)]
    let y := beside .computer (recordAt 1 0 0) 2 [(6, 0x1000)]
    Free s ∧ dstOk 5 s.cur.role = true ∧ Supplied (spawnUse 5 6 7) s ∧ Settled s ∧ sourceOf (spawnUse 5 6 7) s 0 = 0x1000 ∧
      Record s 0x1000 s1 ⟨0x1000, 1, 0x1000, false⟩ ∧ recState s1 0x1000 = stReady ∧ 8 ≤ recPrio s1 0x1000 ∧
      (s1.scope (recScope s1 0x1000)).state < scCancelling ∧ recEventHolds s1 (clusterOf s.me) 0x1000 = true ∧
      (s1.cluster (clusterOf s.me)).ready.length < 960 ∧ sourceOf (spawnUse 5 6 7) s 1 ≠ 0 ∧
      (sourceOf (spawnUse 5 6 7) s 1).toNat ≤ 65535 ∧
      Free x ∧ Record x 0x1000 (recordLeads x).1 ⟨0x1000, 1, 0x1000, false⟩ ∧ recState (recordLeads x).1 0x1000 ≠ stReady ∧
      recState (recordLeads x).1 0x1000 ≠ stDormant ∧
      Free y ∧ Record y 0x1000 (recordLeads y).1 ⟨0x1000, 1, 0x1000, false⟩ ∧ recState (recordLeads y).1 0x1000 = stReady ∧
      ¬ ((recordLeads y).1.scope (recScope (recordLeads y).1 0x1000)).state < scCancelling := by
  refine ⟨by unfold Free; decide +kernel, by decide, by unfold Supplied; decide +kernel, by unfold Settled Idle; decide +kernel, ?_,
    record_leads rfl (by decide +kernel), ?_, ?_, ?_, ?_, ?_, ?_, ?_, by unfold Free; decide +kernel,
    record_leads rfl (by decide +kernel), ?_, ?_, by unfold Free; decide +kernel, record_leads rfl (by decide +kernel), ?_,
    ?_⟩ <;> decide +kernel

/-- SPAWN of a DORMANT record, without and with a join count. -/
theorem witness_SpawnPlacesRecord_dormant :
    let s := beside .computer (recordAt 7 0 0) 1 [(6, 0x1000), (7, 9)]
    let x := beside .computer (recordAt 7 1 0) 1 [(6, 0x1000), (7, 9)]
    Free s ∧ Supplied (spawnUse 5 6 7) s ∧ Settled s ∧ sourceOf (spawnUse 5 6 7) s 0 = 0x1000 ∧
      Record s 0x1000 (recordLeads s).1 ⟨0x1000, 1, 0x1000, false⟩ ∧ recState (recordLeads s).1 0x1000 = stDormant ∧
      s.myRole.sup = true ∧ ((recordLeads s).1.scope (recScope (recordLeads s).1 0x1000)).state < scCancelling ∧
      recJoinc (recordLeads s).1 0x1000 = 0 ∧ recEventHolds (recordLeads s).1 (clusterOf s.me) 0x1000 = true ∧
      ((recordLeads s).1.cluster (clusterOf s.me)).ready.length < 1024 ∧
      Free x ∧ Supplied (spawnUse 5 6 7) x ∧ Record x 0x1000 (recordLeads x).1 ⟨0x1000, 1, 0x1000, false⟩ ∧
      recState (recordLeads x).1 0x1000 = stDormant ∧ recJoinc (recordLeads x).1 0x1000 ≠ 0 := by
  refine ⟨by unfold Free; decide +kernel, by unfold Supplied; decide +kernel, by unfold Settled Idle; decide +kernel, ?_,
    record_leads rfl (by decide +kernel), ?_, by decide, ?_, ?_, ?_, ?_, by unfold Free; decide +kernel,
    by unfold Supplied; decide +kernel, record_leads rfl (by decide +kernel), ?_, ?_⟩ <;> decide +kernel

theorem witness_JoinCountsDown :
    let s := beside .loader (recordAt 4 2 0) 1 [(6, 0x1000)]
    let x := beside .loader (recordAt 4 1 0) 1 [(6, 0x1000)]
    Free s ∧ Supplied { srcs := [6] } s ∧ Settled s ∧ sourceOf { srcs := [6] } s 0 = 0x1000 ∧
      Record s 0x1000 (recordLeads s).1 ⟨0x1000, 1, 0x1000, false⟩ ∧ recState (recordLeads s).1 0x1000 = stWaitJoin ∧
      ((recordLeads s).1.scope (recScope (recordLeads s).1 0x1000)).state < scCancelling ∧ 1 < recJoinc (recordLeads s).1 0x1000 ∧
      Free x ∧ Record x 0x1000 (recordLeads x).1 ⟨0x1000, 1, 0x1000, false⟩ ∧ recState (recordLeads x).1 0x1000 = stWaitJoin ∧
      recJoinc (recordLeads x).1 0x1000 = 1 ∧ recEventHolds (recordLeads x).1 (clusterOf x.me) 0x1000 = true ∧
      ((recordLeads x).1.cluster (clusterOf x.me)).ready.length < 1024 := by
  refine ⟨by unfold Free; decide +kernel, by unfold Supplied; decide +kernel, by unfold Settled Idle; decide +kernel, ?_,
    record_leads rfl (by decide +kernel), ?_, ?_, ?_, by unfold Free; decide +kernel, record_leads rfl (by decide +kernel), ?_, ?_,
    ?_, ?_⟩ <;> decide +kernel

/-- Role storer acts, the last that runs, beside its strand's record, whose SMASK names two bits of group 15. -/
def lastRole : State :=
  { holding .storer { slotOf [] with
      strand := some { strandA with smask := 3, groups := 15 }, lo := { ctxOf [] with exited := true },
      co := { ctxOf [] with exited := true } } with
    deep := recordAt 2 0 0, scopes := scopes17 1, undo := [(0, { lines := [0x40] })] }

theorem witness_ExitStopsRole :
    let s := seat .storer []
    let x := lastRole
    Free s ∧ Settled s ∧ s.found.myRole.vpend = [] ∧ queueResultDue s.found = false ∧ unfinishedBlock s.found = none ∧
      (s.slot s.me).strand = some strandA ∧ (Role.computer ≠ s.cur.role ∧ (s.found.role s.me .computer).runs = true) ∧
      Free x ∧ Settled x ∧ x.found.myRole.vpend = [] ∧ queueResultDue x.found = false ∧ unfinishedBlock x.found = none ∧
      (x.slot x.me).strand = some { strandA with smask := 3, groups := 15 } ∧ (x.found.role x.me .loader).runs = false ∧
      (x.found.role x.me .computer).runs = false ∧ RecQuiet x 0x1000 ∧ (∀ r, (x.found.role x.me r).outst = []) ∧
      (x.slot x.me).pending = [] ∧ (x.slot x.me).saveArea = none ∧ (x.slot x.me).victimOf = none ∧
      (∀ m ∈ x.members, m.record ≠ 0x1000) ∧ (x.scope 17).state = scLive := by
  refine ⟨?_, ?_, rfl, by decide +kernel, by decide +kernel, rfl, by decide +kernel, ?_, ?_, rfl, by decide +kernel, by decide +kernel,
    rfl, by decide +kernel, by decide +kernel, rec_quiet (by decide +kernel), fun r => by cases r <;> rfl, rfl, rfl, rfl, nofun,
    by decide +kernel⟩
  · unfold Free; decide +kernel
  · unfold Settled Idle; decide +kernel
  · unfold Free; decide +kernel
  · unfold Settled Idle; decide +kernel

/-- Event bits 0 and 1 of group 15, which domain 1 owns. -/
def eventful (r : Role) (regs : Sp Word) : State :=
  { seat r regs with
    clusters := [(0, { events := 3 <<< 240 })], mgmt := [(0x600, 0x1000000000000000)], frameCtr := 5 }

theorem witness_WaitsSuspend :
    let s := eventful .computer [(6, 15), (7, 2), (8, 4), (9, 5), (10, 6)]
    let u (a b : BitVec 5) : Use := { srcs := [a, b] }
    Free s ∧ ¬ isTimed s ∧ (s.slot s.me).susp = none ∧ (s.slot s.me).handlers.head? ≠ some (.computer, 14) ∧
      Supplied (u 6 7) s ∧ Supplied (u 6 8) s ∧
      (sourceOf (u 6 7) s 0).toNat < 16 ∧ (sourceOf (u 6 7) s 1).toNat < 65536 ∧
      groupOwner s (clusterOf s.me) (sourceOf (u 6 7) s 0).toNat = (s.slot s.me).domain ∧
      (eventGroup s (clusterOf s.me) 15).toNat &&& (sourceOf (u 6 7) s 1).toNat = (sourceOf (u 6 7) s 1).toNat ∧
      (eventGroup s (clusterOf s.me) 15).toNat &&& (sourceOf (u 6 8) s 1).toNat ≠ (sourceOf (u 6 8) s 1).toNat ∧
      Supplied { srcs := [9] } s ∧ Supplied { srcs := [10] } s ∧
      0 ≤ (s.frameCtr - BitVec.ofNat 48 (sourceOf { srcs := [9] } s 0).toNat).toInt ∧
      (s.frameCtr - BitVec.ofNat 48 (sourceOf { srcs := [10] } s 0).toNat).toInt < 0 := by
  unfold Free Supplied isTimed; decide +kernel

theorem witness_PrioritiesAndEvents :
    let s := eventful .loader [(6, 63), (7, 15), (8, 3)]
    let x := eventful .loader [(6, 0)]
    Free s ∧ dstOk 5 s.cur.role = true ∧ Supplied (ru 5 6) s ∧ ¬ isTimed s ∧ (s.slot s.me).strand = some strandA ∧
      (sourceOf (ru 5 6) s 0).toNat ≤ 63 ∧ 8 ≤ (sourceOf (ru 5 6) s 0).toNat ∧ Free x ∧ Supplied (ru 5 6) x ∧
      (sourceOf (ru 5 6) x 0).toNat < 8 ∧ x.myRole.sup = true ∧
      Supplied { srcs := [7, 8] } s ∧ Settled s ∧ (sourceOf { srcs := [7, 8] } s 0).toNat < 16 ∧
      (sourceOf { srcs := [7, 8] } s 1).toNat < 65536 ∧
      groupOwner s (clusterOf s.me) (sourceOf { srcs := [7, 8] } s 0).toNat = (s.slot s.me).domain ∧
      Supplied (ru 5 7) s ∧ pushesQueue s.cur.role 5 = none ∧ (sourceOf (ru 5 7) s 0).toNat < 16 ∧
      groupOwner s (clusterOf s.me) (sourceOf (ru 5 7) s 0).toNat = (s.slot s.me).domain := by
  unfold Free Supplied isTimed Settled Idle; decide +kernel

/-- As cycle 11 begins, a set and a clear of bits of group 15 of cluster 0 are due. -/
theorem witness_PrioritiesAndEvents_cycle :
    let s : State := { eventful .loader [] with
      agenda := [],
      clusters := [(0, { events := 3 <<< 240, changes := [(11, false, 15, 6), (11, true, 15, 4)] })] }
    s.powered = true ∧ s.agenda = [] ∧ s.strikes = [] ∧ 16 * 0 ∈ usedSlots s ∧ 0 < 16 ∧ (s.cluster 0).wait = [] ∧
      ChangeDue (s.cluster 0) (s.cycle + 1) true 15 2 ∧ ChangeDue (s.cluster 0) (s.cycle + 1) false 15 2 ∧
      ChangeDue (s.cluster 0) (s.cycle + 1) false 15 1 ∧ ¬ ChangeDue (s.cluster 0) (s.cycle + 1) true 15 1 := by
  unfold ChangeDue; decide +kernel

/-- An EVTEST's value is due, for a register and for a store queue. -/
theorem witness_PrioritiesAndEvents_test :
    let s := holding .computer { slotOf [] with
      co := { ctxOf [] with vpend := [⟨.sreg 5, testOf 15 10 10⟩] }, queues := [(4, [testOf 15 10 10])] }
    10 ≤ s.cycle ∧ 10 ≤ s.clock s.me ∧ (s.role s.me .computer).vpend = [⟨.sreg 5, testOf 15 10 10⟩] ∧
      (s.role s.me .computer).pend = [] ∧ s.queue s.me 4 = [testOf 15 10 10] := by
  decide +kernel

/-! ### Witnesses: phasers and scopes -/

/-- Role `r` acts beside these phasers and members. -/
def phased (r : Role) (ph : Sp Phaser) (ms : List Member) (regs : Sp Word) : State :=
  { seat r regs with phasers := ph, members := ms }

def phaserA : Phaser := { live := true, dom := 1, phase := 3, out := 2, ns := 2 }

theorem witness_PhaserCreationAndRegistration :
    let s := phased .computer [(0, phaserA)] [] [(6, 3), (7, 0)]
    Free s ∧ dstOk 5 s.cur.role = true ∧ ¬ isTimed s ∧ Supplied (ru 5 6) s ∧ (sourceOf (ru 5 6) s 0).toNat < 4 ∧
      (s.phaser 1).live = false ∧ (∀ j, j < 1 → (s.phaser j).live = true) ∧ s.members.length < 4096 ∧
      Supplied (rr 5 7 8) s ∧ PhaserOk s (sourceOf (rr 5 7 8) s 0) ∧ sourceOf (rr 5 7 8) s 1 = 0 ∧
      memberOf s (mine s) (sourceOf (rr 5 7 8) s 0).toNat = none := by
  unfold Free Supplied isTimed PhaserOk isTimed; decide +kernel

/-- A member that may signal, one that only waits beside another, one that the phase has passed, one that it has not. -/
theorem witness_PhaserSignalsAndWaits :
    let sig : Member := ⟨0x1000, 0, 1, 3, 0, false⟩
    let wait (mp wp : BitVec 16) (mode : Nat) : Member := ⟨0x1000, 0, mode, mp, wp, false⟩
    let s (m : Member) := phased .storer [(0, phaserA)] [m, ⟨0x2000, 0, 1, 3, 0, false⟩] [(6, 0)]
    Free (s sig) ∧ Idle (s sig) ∧ Supplied { srcs := [6] } (s sig) ∧ PhaserOk (s sig) (sourceOf { srcs := [6] } (s sig) 0) ∧
      ((s sig).slot (s sig).me).susp = none ∧ memberOf (s sig) (mine (s sig)) 0 = some sig ∧ sig.data = false ∧ Open (s sig) 0 ∧
      sig.signals = true ∧ sig.mp = ((s sig).phaser 0).phase ∧ 2 ≤ ((s sig).phaser 0).out ∧
      memberOf (s (wait 0 2 2)) (mine (s (wait 0 2 2))) 0 = some (wait 0 2 2) ∧
      (s (wait 0 2 2)).members.any (fun x => decide (x.phaser = 0 ∧ x.record ≠ 0x1000)) = true ∧
      Free (s (wait 0 2 2)) ∧ Open (s (wait 0 2 2)) 0 ∧ (wait 0 2 2).waits = true ∧
      0 < (((s (wait 0 2 2)).phaser 0).phase - 2).toInt ∧
      memberOf (s (wait 4 3 3)) (mine (s (wait 4 3 3))) 0 = some (wait 4 3 3) ∧ Free (s (wait 4 3 3)) ∧
      Open (s (wait 4 3 3)) 0 ∧ (wait 4 3 3).waits = true ∧ (4 : BitVec 16) ≠ 3 ∧
      (((s (wait 4 3 3)).phaser 0).phase - 3).toInt ≤ 0 := by
  unfold Free Idle Supplied PhaserOk isTimed Open; decide +kernel

theorem witness_PhaserLinkAndQuery :
    let s := phased .loader [(0, phaserA), (255, phaserA)] [⟨0x1000, 255, 3, 3, 3, false⟩] [(6, 255), (7, 0xFF00), (8, 511), (9, 1)]
    Free s ∧ dstOk 5 s.cur.role = true ∧ Supplied (rr 5 6 7) s ∧ PhaserOk s (sourceOf (rr 5 6 7) s 0) ∧
      (sourceOf (rr 5 6 7) s 1).toNat < 65536 ∧ field (sourceOf (rr 5 6 7) s 1) 8 8 ≠ 0 ∧
      (s.phaser (field (sourceOf (rr 5 6 7) s 1) 0 8)).live = true ∧
      (s.phaser (field (sourceOf (rr 5 6 7) s 1) 0 8)).dom = (s.slot s.me).domain ∧ (s.phaser 255).ratio = 0 ∧
      badLink s 255 (field (sourceOf (rr 5 6 7) s 1) 0 8) = false ∧ 255 ≠ field (sourceOf (rr 5 6 7) s 1) 0 8 ∧
      Supplied (ru 5 8) s ∧ (sourceOf (ru 5 8) s 0).toNat < 512 ∧ (s.phaser 255).dom = (s.slot s.me).domain ∧
      256 ≤ (sourceOf (ru 5 8) s 0).toNat ∧ memberOf s (mine s) 255 ≠ none ∧ memberOf s (mine s) 0 = none ∧
      Supplied (ru 5 9) s ∧ (s.phaser 1).live = false ∧ (s.phaser 0).live = true := by
  unfold Free Supplied PhaserOk isTimed; decide +kernel

/-- Role `r` acts beside scopes 1 and 17, in a domain that owns event group 15. -/
def inScopes (r : Role) (sc : Sp Scope) (regs : Sp Word) : State :=
  { seat r regs with scopes := sc, mgmt := [(0x600, 0x1000000000000000)] }

/-- Scope 16 stands between, so that 17 is the lowest free one. -/
theorem witness_ScopesCreateAndQuery :
    let s := inScopes .computer [(1, { state := 1, live := 3, dom := 1 }), (16, { state := 1, parent := 1, depth := 31, dom := 1 })]
      [(6, 16), (7, 0xF100000000000009), (8, 16383)]
    Free s ∧ dstOk 5 s.cur.role = true ∧ Supplied (rr 5 6 7) s ∧ (sourceOf (rr 5 6 7) s 0).toNat < 16384 ∧
      field (sourceOf (rr 5 6 7) s 1) 1 2 = 0 ∧ (s.scope 16).dom = (s.slot s.me).domain ∧
      groupOwner s (clusterOf s.me) (field (sourceOf (rr 5 6 7) s 1) 60 4) = (s.slot s.me).domain ∧ (s.scope 16).state = scLive ∧
      (s.scope 16).depth ≠ 32 ∧ 16 ≤ 17 ∧ 17 < 16384 ∧ (s.scope 17).state = scFree ∧
      (∀ j, 16 ≤ j → j < 17 → (s.scope j).state ≠ scFree) ∧
      Supplied (ru 5 6) s ∧ (sourceOf (ru 5 6) s 0).toNat < 16384 ∧ (s.scope 16).state ≠ scFree ∧
      Supplied (ru 5 8) s ∧ (sourceOf (ru 5 8) s 0).toNat < 16384 ∧ (s.scope 16383).state = scFree := by
  refine ⟨by unfold Free; decide +kernel, by decide, by unfold Supplied; decide +kernel, ?_, ?_, ?_, ?_, ?_, ?_, by decide, by decide, ?_,
    fun j a b => ?_, by unfold Supplied; decide +kernel, ?_, ?_, by unfold Supplied; decide +kernel, ?_, ?_⟩
  case refine_8 => obtain rfl : j = 16 := by omega
                   decide +kernel
  all_goals decide +kernel

/-- Scope 18, to which nothing belongs, a scope already cancelled with a word at 0x200000, and one that is cancelling. -/
def cancelling : State :=
  inScopes .loader
    [(1, { state := 1, live := 3, dom := 1 }), (18, { state := 1, parent := 1, depth := 1, dom := 1 }),
      (19, { state := 3, parent := 1, depth := 1, dom := 1, ack := 0x200000 }),
      (20, { state := 2, parent := 1, depth := 1, dom := 1, ack := 0x200000 })]
    [(6, 18), (7, 19), (8, 20)]

theorem alone_18 : Alone cancelling 18 := by
  refine ⟨by decide +kernel, ?_, ?_, ?_, by decide +kernel, nofun, nofun⟩
  · intro k x h
    by_cases e : k = 0
    · subst e
      have this : (cancelling.slot 0).strand = some strandA := rfl
      rw [this] at h
      injection h with h
      rw [← h]
      decide
    · have : (cancelling.slot k).strand = none := by
        simp [cancelling, inScopes, seat, holding, State.slot, Sp.get, e]
      rw [this] at h; cases h
  · intro k
    by_cases e : k = 0
    · subst e; decide +kernel
    · have : cancelling.slot k = {} := by
        simp [cancelling, inScopes, seat, holding, State.slot, Sp.get, e]
      rw [this]
      exact ⟨List.forall_mem_nil _, List.forall_mem_nil _⟩
  · intro k
    by_cases e : k = 0
    · subst e; decide +kernel
    · have : cancelling.core k = {} := by
        simp [cancelling, inScopes, seat, holding, State.core, Sp.get, e]
      rw [this]
      exact List.forall_mem_nil _

theorem witness_CancelAndAcknowledge :
    let s := cancelling
    let s1 := (leads s 0x200000 .read).1
    let x := s.scope (sourceOf { srcs := [6] } s 0).toNat
    let y := s.scope (sourceOf (rr 5 7 6) s 0).toNat
    let z := s.scope (sourceOf (rr 5 8 6) s 0).toNat
    Free s ∧ Supplied { srcs := [6] } s ∧ Idle s ∧ (sourceOf { srcs := [6] } s 0).toNat = 18 ∧ x.dom = (s.slot s.me).domain ∧
      x.state = scLive ∧ x.live = 0 ∧ x.depth ≤ 32 ∧ x.ack = 0 ∧ x.even = false ∧ x.parent ≠ 18 ∧
      (s.scope x.parent).state = scLive ∧ Alone s 18 ∧ Supplied { srcs := [7] } s ∧ y.state ≠ scFree ∧ y.state ≠ scLive ∧
      Supplied (rr 5 7 6) s ∧ dstOk 5 s.cur.role = true ∧ ¬ isTimed s ∧ (s.slot s.me).susp = none ∧ y.ack ≠ 0 ∧
      y.dom = (s.slot s.me).domain ∧ y.state = scCancelled ∧ Reaches s (BitVec.setWidth 64 y.ack) 8 .read s1 placeD ∧
      Sound s1 placeD ∧ Supplied (rr 5 8 6) s ∧ z.ack ≠ 0 ∧ z.state ≠ scCancelled ∧ z.state ≠ scFree ∧
      Reaches s (BitVec.setWidth 64 z.ack) 8 .read s1 placeD := by
  refine ⟨by unfold Free; decide +kernel, by unfold Supplied; decide +kernel, by unfold Idle; decide +kernel, ?_, ?_, ?_, ?_, ?_,
    ?_, ?_, ?_, ?_, alone_18, by unfold Supplied; decide +kernel, ?_, ?_, by unfold Supplied; decide +kernel, by decide,
    by unfold isTimed; decide +kernel, ?_, ?_, ?_, ?_, reaches (by decide) rfl nofun, ?_, by unfold Supplied; decide +kernel, ?_,
    ?_, ?_, reaches (by decide) rfl nofun⟩ <;> decide +kernel

/-! ### Witnesses: frames, staging, parks -/

/-- A block that has counted no word yet, released at tick 4 for `e` ticks with the check value `crc`. -/
def blockA (e crc : BitVec 32) : Block := ⟨3, 4, e, crc, [], [], false, 0x100, some 2, 7, 1⟩

/-- Role `r` of a TIMED strand in that block acts, at VCC 12. -/
def timedIn (r : Role) (b : Block) (x : Slot) : State :=
  { holding r { x with strand := some { strandA with timed := true }, block := some b } with
    vcc := 12, frame := { running := true, no := 7, start := 3, header := 0x100 } }

theorem witness_FramesAndBlocks_queries :
    let s := timedIn .loader (blockA 0 0) (slotOf [(6, 4), (7, 15)])
    Free s ∧ dstOk 5 s.cur.role = true ∧ Supplied (ru 5 6) s ∧ (sourceOf (ru 5 6) s 0).toNat = 4 ∧
      (4, s.slips % 2 ^ 32) ∈ frameWords s ∧ s.cur.role = .loader ∧ Supplied (ru 5 7) s ∧ (sourceOf (ru 5 7) s 0).toNat < 16 ∧
      s.myRole.sup = true ∧ field ((headerOf s false).extractLsb' 0 64) 8 4 = (s.slot s.me).domain := by
  unfold Free Supplied; decide +kernel

/-- The words a computer's BEND adds to the block. -/
def ended : Block := (blockA 8 0).counted 12 2 (wordList (.bend 0))

/-- The other roles stand at their BEND or do not. -/
def atBend (b : Bool) : Slot :=
  let x : RoleCtx := { ctxOf [] with bend := b }
  { slotOf [] with lo := x, st := x }

theorem witness_FramesAndBlocks :
    let s := timedIn .computer (blockA 8 0) (atBend false)
    let x := timedIn .computer (blockA 8 (blockCrc ended)) (atBend true)
    InBlock s (blockA 8 0) ∧ Free s ∧ s.myRole.bend = false ∧
      (Role.loader ≠ s.cur.role ∧ (s.found.role s.me .loader).present = true ∧ (s.found.role s.me .loader).bend = false) ∧
      InBlock x (blockA 8 (blockCrc ended)) ∧ Free x ∧ x.myRole.bend = false ∧
      (∀ r, r ≠ x.cur.role → (x.found.role x.me r).present = true → (x.found.role x.me r).bend = true) ∧
      (∀ m ∈ (x.core (coreOf x.me)).vq ++ (x.core (coreOf x.me)).mq, m.slot ≠ x.me) ∧ BitVec.ofNat 32 (x.vcc - 4) = 8 ∧
      blockCrc ((blockA 8 (blockCrc ended)).counted x.vcc (roleNum x.cur.role) (wordList (.bend 0))) = blockCrc ended := by
  refine ⟨⟨rfl, rfl, rfl⟩, by unfold Free; decide +kernel, rfl, ⟨nofun, by decide +kernel, by decide +kernel⟩, ⟨rfl, rfl, rfl⟩,
    by unfold Free; decide +kernel, rfl, fun r h _ => by cases r <;> first | decide +kernel | exact absurd rfl h, nofun, ?_,
    ?_⟩ <;> decide +kernel

/-- Every role stands at its BEND and the block has counted what it expects. -/
theorem witness_FramesAndBlocks_check :
    let b : Block := { ended with ecrc := blockCrc ended }
    let y : Slot := { atBend true with co := { ctxOf [] with bend := true } }
    let s := timedIn .computer b y
    InBlock s b ∧ (∀ r, (s.role s.me r).present = true → (s.role s.me r).bend = true) ∧
      (∀ m ∈ (s.core (coreOf s.me)).vq ++ (s.core (coreOf s.me)).mq, m.slot ≠ s.me) ∧ BitVec.ofNat 32 (s.vcc - b.tick0) = b.eticks ∧
      blockCrc b = b.ecrc :=
  ⟨⟨rfl, rfl, rfl⟩, fun r _ => by cases r <;> rfl, nofun, by decide +kernel, by decide +kernel⟩

theorem witness_StagingHolds :
    let s := timedIn .loader (blockA 8 0) (slotOf [])
    let x := timedIn .computer (blockA 8 0) { slotOf [] with holds := 1 }
    let y := timedIn .computer (blockA 8 0) { slotOf [] with drops := [(5, 2)] }
    (s.slot s.me).block = some (blockA 8 0) ∧ (blockA 8 0).buf = some 2 ∧ (s.slot s.me).timed = true ∧ Free s ∧ Idle s ∧
      s.cur.role = .loader ∧ s.frame.running = true ∧ s.frame.no = (blockA 8 0).frameNo ∧ (s.slot s.me).holds < 255 ∧
      (s.found.queue s.me 3).length < 16 ∧
      (x.slot x.me).block = some (blockA 8 0) ∧ (x.slot x.me).timed = true ∧ Free x ∧ x.cur.role = .computer ∧
      0 < (x.slot x.me).holds ∧ (x.slot x.me).drops = [] ∧ NoMatrix x ∧ (y.slot y.me).drops = [(5, 2)] ∧ NoMatrix y := by
  refine ⟨rfl, rfl, rfl, by unfold Free; decide +kernel, by unfold Idle; decide +kernel, rfl, rfl, rfl, ?_, ?_, rfl, rfl,
    by unfold Free; decide +kernel, rfl, ?_, rfl, by unfold NoMatrix; decide +kernel, rfl,
    by unfold NoMatrix; decide +kernel⟩ <;> decide +kernel

/-- Scope 17 is parked, scope 18 is not. -/
theorem witness_ParkRequests :
    let s := { inScopes .computer
        [(1, { state := 1, live := 3, dom := 1 }), (17, { state := 1, parent := 1, depth := 1, dom := 1 }),
          (18, { state := 1, parent := 1, depth := 1, dom := 1 })]
        [(6, 17), (7, 18), (8, 0xFFFFFF), (9, 0x4000000000000000), (10, 0x8000000000000000)] with
      parks := [⟨17, 9, true, 1⟩] }
    Free s ∧ dstOk 5 s.cur.role = true ∧ Idle s ∧ Supplied (rr 5 6 8) s ∧ Supplied (rr 5 7 8) s ∧ Supplied (rr 5 6 9) s ∧
      Supplied (rr 5 6 10) s ∧ (sourceOf (rr 5 7 8) s 0).toNat < 16384 ∧ field (sourceOf (rr 5 7 8) s 1) 24 38 = 0 ∧
      field (sourceOf (rr 5 7 8) s 1) 62 2 = 0 ∧ (s.scope 18).state = scLive ∧ (s.scope 18).dom = (s.slot s.me).domain ∧
      (∀ q ∈ s.parks, q.scope ≠ 18) ∧ s.parks.length < 256 ∧ (s.scope 17).state = scLive ∧
      (s.scope 17).dom = (s.slot s.me).domain ∧ (⟨17, 9, true, 1⟩ : Park) ∈ s.parks ∧
      field (sourceOf (rr 5 6 9) s 1) 24 38 = 0 ∧ field (sourceOf (rr 5 6 9) s 1) 62 2 = 1 ∧
      field (sourceOf (rr 5 6 10) s 1) 24 38 = 0 ∧ field (sourceOf (rr 5 6 10) s 1) 62 2 = 2 ∧
      s.parks = [] ++ ⟨17, 9, true, 1⟩ :: [] := by
  unfold Free Supplied Idle; decide +kernel

/-! ### Witnesses: tokens and barriers -/

theorem witness_TokensAndBarrierWaits_tokens :
    let s := holding .storer { slotOf [] with tokens := [(15, 254)] }
    Free s ∧ Idle s ∧ tokenCount s s.me (15 : BitVec 4).toNat + ((s.slot s.me).tokPend.filter (fun e => e = (15, true))).length < 255 ∧
      0 < tokenNow s s.me (15 : BitVec 4).toNat := by
  unfold Free Idle; decide +kernel

/-- A barrier of 2 arrivals at 0x200000, at phase 0 with 2 pending. -/
def barrierMem : Mem := [(0x200000, 0x20), (0x200003, 2), (0x20000F, 2)]

/-- Role `r` acts beside it. -/
def barred (r : Role) (regs : Sp Word) : State := { seat r regs with deep := barrierMem }

/-- s6 names the barrier; s7 is a count or a phase. -/
def regsBar (n : Word) : Sp Word := [(6, 0x200000), (7, n)]

theorem at_barrier {s : State} {va : Word} {k : AccKind} {p : Place} (h : va.toNat % 16 = 0) (e : (leads s va k).2 = .ok p)
    (q : p.stamped = true ∧ Sound (leads s va k).1 p ∧ Sound (leads s va k).1 (p.plus 8)) :
    AtBarrier s va k (leads s va k).1 p := ⟨h, Prod.ext rfl e, q⟩

theorem witness_BarrierUpdates :
    let s := barred .loader (regsBar 2)
    let s1 := (leads s 0x200000 .write).1
    let x := barOf (rawRead s1 placeD 16)
    s.cur.role ≠ .computer ∧ Free s ∧ Idle s ∧ Plainly s s1 placeD ∧ Supplied { srcs := [6, 7] } s ∧ Supplied (rr 5 6 7) s ∧
      sourceOf { srcs := [6, 7] } s 0 = 0x200000 ∧ AtBarrier s 0x200000 .write s1 placeD ∧
      1 ≤ (sourceOf { srcs := [6, 7] } s 1).toNat ∧ (sourceOf { srcs := [6, 7] } s 1).toNat ≤ 1048575 ∧ x.init = true ∧
      x.pbytes + (sourceOf { srcs := [6, 7] } s 1).toNat < 2 ^ 48 ∧ (sourceOf (rr 5 6 7) s 1).toNat ≤ x.parv := by
  refine ⟨by decide, by unfold Free; decide +kernel, by unfold Idle; decide +kernel,
    by refine ⟨?_, ?_, ?_, ?_, nofun, fun a e => by cases e; decide⟩ <;> decide +kernel,
    by unfold Supplied; decide +kernel, by unfold Supplied; decide +kernel, ?_, at_barrier (by decide) rfl (by decide +kernel), ?_,
    ?_, ?_, ?_, ?_⟩ <;> decide +kernel

theorem witness_TokensAndBarrierWaits :
    let s := barred .storer (regsBar 15)
    let y := barred .storer (regsBar 0)
    let s1 := (leads s 0x200000 .read).1
    let y1 := (leads y 0x200000 .read).1
    s.cur.role ≠ .computer ∧ Free s ∧ Supplied (rr 5 6 7) s ∧ ¬ isTimed s ∧ s.myRole.barWait = none ∧
      (sourceOf (rr 5 6 7) s 1).toNat < 16 ∧ sourceOf (rr 5 6 7) s 0 = 0x200000 ∧ AtBarrier s 0x200000 .read s1 placeD ∧
      (barOf (rawRead s1 placeD 16)).phase ≠ (sourceOf (rr 5 6 7) s 1).toNat ∧
      Free y ∧ Supplied (rr 5 6 7) y ∧ sourceOf (rr 5 6 7) y 0 = 0x200000 ∧ AtBarrier y 0x200000 .read y1 placeD ∧
      (barOf (rawRead y1 placeD 16)).phase = (sourceOf (rr 5 6 7) y 1).toNat := by
  refine ⟨by decide, by unfold Free; decide +kernel, by unfold Supplied; decide +kernel, by unfold isTimed; decide +kernel, ?_, ?_,
    ?_, at_barrier (by decide) rfl (by decide +kernel), ?_, by unfold Free; decide +kernel, by unfold Supplied; decide +kernel, ?_,
    at_barrier (by decide) rfl (by decide +kernel), ?_⟩ <;> decide +kernel

theorem witness_TokensAndBarrierWaits_poll :
    let w : BarWait := ⟨placeD, 0x200000, 0, false, 10, false, false⟩
    let s := { holding .storer { slotOf [] with st := { ctxOf [] with barWait := some w } } with deep := barrierMem }
    s.myRole.barWait = some w ∧ w.entry = false ∧ w.done = false ∧ w.next ≤ s.cycle ∧
      w.place.stamped = true ∧ Sound s w.place ∧ Sound s (w.place.plus 8) := by
  decide +kernel

/-! ### Witnesses: commands -/

/-- The operands of a copy: 0x300000 to 0x200800, 64 bytes, with the barrier at 0x200000 or none. -/
def regsCopy (bar : Word) : Sp Word := [(6, 0x300000), (7, 0x200800), (8, 64), (9, bar)]
def copyX (aux : BitVec 16) : ExOps := ⟨6, 7, 8, 9, 1, aux, 0⟩

theorem witness_CopyPushes :
    let s := barred .computer (regsCopy 0)
    let v (k : Nat) : Word := sourceOf (exUse (copyX 0)) s k
    Free s ∧ CopyRoom s (copyX 0) ∧ Supplied (exUse (copyX 0)) s ∧ v 3 = 0 ∧ (copyX 0).aux.getLsbD 1 = false ∧
      CopyChecked (.cpy 0 (copyX 0)) s.found s v 0 ∧
      (∃ m, CopyChecked (.cpyt 0 (copyX 0)) s.found s v m) ∧ CopyChecked (.kvget 0 (copyX 0)) s.found s v 0 ∧ s.deepErr = [] ∧
      Idle s :=
  ⟨by unfold Free; decide +kernel, by unfold CopyRoom; decide +kernel, by unfold Supplied; decide +kernel, by decide +kernel,
    by decide, by unfold CopyChecked; decide +kernel,
    ⟨_, by decide +kernel, by decide +kernel, by decide +kernel, _, .deep 64, Prod.ext rfl rfl, nofun, by decide +kernel, rfl⟩,
    trivial, rfl, by unfold Idle; decide +kernel⟩

/-- A message's handler and record, a table's number, source and length. -/
theorem witness_CopyPushes_others :
    let s := barred .computer [(6, 0x20000046), (7, 0x200800), (8, 0x1000)]
    let x := barred .computer [(6, 15), (7, 0x200800), (8, 65536)]
    let y := barred .computer [(6, 15), (7, 0x200840), (8, 64)]
    CopyChecked (.msg 0 (copyX 0)) s.found s (sourceOf (exUse (copyX 0)) s) 0 ∧
      CopyChecked (.dtld 0 (copyX 0)) y.found y (sourceOf (exUse (copyX 0)) y) 0 ∧ Free x ∧
      (sourceOf (exUse (copyX 0)) x 2).toNat ≤ 65536 :=
  ⟨by unfold CopyChecked; decide +kernel,
    by refine ⟨?_, ?_, ?_, ?_, ?_, ?_, fun p h => ⟨_, (Except.ok.inj h).symm⟩⟩ <;> decide +kernel,
    by unfold Free; decide +kernel, by decide +kernel⟩

theorem witness_CopyPushes_expected :
    let s := barred .computer (regsCopy 0x200000)
    let s1 := (leads s 0x200000 .write).1
    let v (k : Nat) : Word := sourceOf (exUse (copyX 1)) s k
    Free s ∧ Idle s ∧ CopyRoom s (copyX 1) ∧ Supplied (exUse (copyX 1)) s ∧ v 3 ≠ 0 ∧ v 3 = 0x200000 ∧ (copyX 1).aux.getLsbD 0 = true ∧
      AtBarrier s 0x200000 .write s1 placeD ∧ CopyChecked (.cpy 0 (copyX 1)) s1 s v 0 ∧ Plainly s s1 placeD ∧
      (barOf (rawRead s1 placeD 16)).init = true ∧ (barOf (rawRead s1 placeD 16)).pbytes + (v 2).toNat < 2 ^ 48 := by
  refine ⟨by unfold Free; decide +kernel, by unfold Idle; decide +kernel, by unfold CopyRoom; decide +kernel,
    by unfold Supplied; decide +kernel, ?_, ?_, by decide, at_barrier (by decide) rfl (by decide +kernel),
    by unfold CopyChecked; decide +kernel, by refine ⟨?_, ?_, ?_, ?_, nofun, fun a e => by cases e; decide⟩ <;> decide +kernel, ?_,
    ?_⟩ <;> decide +kernel

/-- The computer acts; rows 2n and 2n + 1 carry tag n, the tiles tag 12, the register key tag 2; load queue 0 holds an offset. -/
def tagged : State :=
  holding .computer
    { slotOf [] with
      rowTag := (List.range 31).map (fun n => (n + 1, (n + 1) / 2)), tileTag := (List.range 8).map (fun n => (n, 12)), keyTag := 2,
      queues := [(0, [{ val := 0x3FE000, due := 3 }])] }

/-- Operands of element type `ty`. -/
def vx (d a b : BitVec 8) (mask ty : BitVec 4) : VxOps := ⟨d, a, b, mask, ty, 0, 0⟩

/-- Each plain vector instruction with operands that the rows' tags allow. -/
def vectorTerms : List (Instr × VxOps) :=
  let at' (v : VxOps) (l : List (BitVec 3 → VxOps → Instr)) : List (Instr × VxOps) := l.map (fun c => (c 7 v, v))
  at' (vx 1 4 0 15 2) [.vmov, .vabs, .vneg, .vsqrt, .vrsq, .vrcp, .vexp2, .vlog2, .vhad, .vcon, .vopld] ++
    at' (vx 1 4 4 15 2) [.vadd, .vsub, .vmul, .vmin, .vmax, .vdiv, .vext] ++ at' (vx 4 4 4 15 2) [.vfma, .vfms] ++
    at' (vx 1 4 4 0 2) [.vcmp, .vsel] ++ at' (vx 1 4 0 0 2) [.vred, .vscan] ++ at' (vx 1 0 0 15 1) [.viota, .vtag, .bpopr, .bpopc] ++
    at' (vx 1 0 0 0 1) [.vpop] ++ at' (vx 1 0 0 15 0) [.vand, .vor, .vxor, .vmlog] ++ at' (vx 1 14 14 15 7) [.vshl, .vshr, .vsar] ++
    at' (vx 1 4 2 15 2) [.vrot] ++ at' (vx 1 4 8 15 2) [.vshuf] ++ at' (vx 4 4 2 15 2) [.vins] ++
    at' (vx 1 0 0 15 12) [.brow, .bfill, .btrn, .bcomp, .bclos, .blog]

theorem witness_VectorPushes :
    Free tagged ∧ tagged.cur.role = .computer ∧ EngineRoom tagged 0 ∧ Supplied { early := true } tagged ∧
      vectorTerms.length = 45 ∧ ∀ e ∈ vectorTerms, e.1 ∈ plainVector 7 e.2 ∧ e.1.wellFormed = true ∧
        TagsFit tagged (vectorTags e.1 e.2 tagged) := by
  unfold Free EngineRoom Supplied TagsFit; decide +kernel

theorem witness_VectorPushes_parts :
    ∀ e ∈ [(Instr.vcvt 0 (vx 1 4 0 15 1), vx 1 4 0 15 1, 0), (.vqnt 0 { vx 1 4 0 15 9 with aux := 63 }, { vx 1 4 0 15 9 with aux := 63 }, 1),
        (.vdeq 0 { vx 1 18 0 15 2 with aux := 1 }, { vx 1 18 0 15 2 with aux := 1 }, 2)],
      e.1.wellFormed = true ∧ TagsFit tagged (vectorTags e.1 e.2.1 tagged) ∧ e.2.1.vb = 0 ∧
        ((partVector 0 e.2.1 tagged)[e.2.2]?).any (fun r => decide (r.1 = e.1 ∧ e.2.1.aux.toNat < r.2)) = true := by
  unfold TagsFit; decide +kernel

/-- A tile fills the end of the scratchpad. -/
theorem witness_VectorPushes_offsets :
    let u := scalar ((28 : BitVec 8).extractLsb' 0 5)
    Supplied u tagged ∧
      (∀ e ∈ [(Instr.vld 0 (vx 1 28 0 15 1), vx 1 28 0 15 1, 1024), (.vst 0 (vx 0 28 2 0 1), vx 0 28 2 0 1, 1024),
          (.bld 0 (vx 1 28 0 15 12), vx 1 28 0 15 12, 8192), (.bst 0 (vx 0 28 1 15 12), vx 0 28 1 15 12, 8192)],
        (e.1, e.2.2) ∈ offsetVector 0 e.2.1 ∧ e.1.wellFormed = true ∧ 28 ≤ e.2.1.va.toNat ∧ e.2.1.va.toNat ≤ 31 ∧
          TagsFit tagged (vectorTags e.1 e.2.1 tagged) ∧ OffsetOk tagged (sourceOf u tagged 0) e.2.2) := by
  unfold TagsFit OffsetOk Supplied; decide +kernel

theorem witness_VectorPushes_scalars :
    let v := vx 1 5 0 15 1
    let w := vx 4 4 5 15 2
    (Instr.vbcst 0 v).wellFormed = true ∧ Supplied (scalar (v.va.extractLsb' 0 5)) tagged ∧
      TagsFit tagged (vectorTags (.vbcst 0 v) v tagged) ∧ (Instr.vselb 0 w).wellFormed = true ∧
      Supplied (scalar (w.vb.extractLsb' 0 5)) tagged ∧ TagsFit tagged (vectorTags (.vselb 0 w) w tagged) := by
  unfold TagsFit Supplied; decide +kernel

/-- Operands of formats `wf` and `af`. -/
def mx (row cnt : BitVec 8) (wf af : BitVec 4) (sreg : BitVec 5) : MxOps := ⟨row, 0, 0, 0, 0, cnt, wf, af, 0, sreg, 0⟩

/-- The active plane carries format 3 of domain 1, and load queue 0 holds offset 0. -/
def planed : State :=
  { holding .computer
      { slotOf [] with
        rowTag := (List.range 31).map (fun n => (n + 1, (n + 1) / 2)), keyTag := 2, queues := [(0, [{ val := 0, due := 3 }])] } with
    cores := [(0, { active := ⟨0, 3, 1⟩ })] }

theorem witness_MatrixPushes :
    Free planed ∧ planed.cur.role = .computer ∧ EngineRoom planed 1 ∧ Supplied { early := true } planed ∧
      (∀ e ∈ [(Instr.mflip 0 (mx 0 0 0 0 0), mx 0 0 0 0 0), (.mpset 0 (mx 7 14 0 0 0), mx 7 14 0 0 0),
          (.mpget 0 (mx 7 14 0 0 0), mx 7 14 0 0 0), (.mdrain 0 (mx 0 0 0 0 0), mx 0 0 0 0 0), (.ocld 0 (mx 4 2 0 0 0), mx 4 2 0 0 0)],
        e.1 ∈ plainMatrix 0 e.2 ∧ e.1.wellFormed = true ∧ TagsFit planed (matrixTags e.1 planed)) ∧
      (Instr.mzero 0 (mx 0 160 3 3 0)).wellFormed = true ∧ comboOf 3 3 ≠ none ∧
      (Instr.ocmp 0 (mx 4 5 0 0 0)).wellFormed = true ∧ TagsFit planed (matrixTags (.ocmp 0 (mx 4 5 0 0 0)) planed) ∧
      5 % 16 ≠ 6 ∧ 5 / 16 % 4 < lanesOf (projTag planed.found planed.me .key) / 256 := by
  unfold Free EngineRoom Supplied TagsFit; decide +kernel

theorem witness_MatrixPushes_offsets :
    let u := scalar 28
    let o := sourceOf u planed 0
    28 ≤ (28 : BitVec 5).toNat ∧ Supplied u planed ∧ (Instr.mlds 0 (mx 0 0 9 0 28)).wellFormed = true ∧
      OffsetOk planed o (tileBytes 9) ∧ (Instr.mstr 0 (mx 4 2 3 3 28)).wellFormed = true ∧ comboOf 3 3 = some ⟨2, 1, 384, 8⟩ ∧
      TagsFit planed (matrixTags (.mstr 0 (mx 4 2 3 3 28)) planed) ∧
      projActive planed.found (newCmd planed.found (.mstr 0 (mx 4 2 3 3 28)) 1 false o planed.seqNo) = 3 ∧
      OffsetOk planed o (384 * 2) := by
  unfold Supplied TagsFit OffsetOk; decide +kernel

/-! ### Witnesses: images, checkpoints, translations, nullified instructions -/

/-- The second 32 MiB of domain 1 lie at 0xA8000000, in the undo region, whose lines need no logging. -/
def page1 : TlbEntry := ⟨1, 1, 25, 0xC0000000A8000060, 0⟩

/-- The computer acts with that page, the image's address in s6 and a mask in s7. -/
def imaged (w : Word) (x : Slot) : State :=
  { holding .computer { x with co := ctxOf [(6, 0x2000000), (7, w)] } with cores := [(0, { utlb := [page0, page1] })] }

/-- What the pages of an image's words lead to. -/
def imageLeads (s : State) (k : AccKind) (words : List Nat) : State × Except (Nat × Nat) (Sp Nat) :=
  imagePages s.found (0x2000000 : Word).toNat k words

/-- The pages of a whole image, the last translated first. -/
def pages : Sp Nat := [(515, 0xA8030000), (514, 0xA8020000), (513, 0xA8010000), (512, 0xA8000000)]

theorem paged {n : Nat} (h : n < 0x6600) : pagedWord pages (0x2000000 : Word).toNat n = 0xA8000000 + 8 * n := by
  show pagedWord pages 0x2000000 n = 0xA8000000 + 8 * n
  have p : imagePage 0x2000000 n = 512 + n / 8192 := by
    unfold imagePage pageBytes; omega
  unfold pagedWord
  rw [p]
  have q : n / 8192 = 0 ∨ n / 8192 = 1 ∨ n / 8192 = 2 ∨ n / 8192 = 3 := by omega
  have g : Sp.get pages 512 0 = 0xA8000000 ∧ Sp.get pages (512 + 1) 0 = 0xA8010000 ∧ Sp.get pages (512 + 2) 0 = 0xA8020000 ∧
      Sp.get pages (512 + 3) 0 = 0xA8030000 := by decide
  unfold pageBytes
  rcases q with q | q | q | q <;> rw [q]
  · rw [show 512 + 0 = 512 from rfl, g.1]; omega
  · rw [g.2.1]; omega
  · rw [g.2.2.1]; omega
  · rw [g.2.2.2]; omega

theorem selected_lt {c n : Nat} (h : n ∈ selected c) : n < 0x6600 := by
  exact List.mem_range.mp (List.mem_filter.mp h).1

theorem undo_region {s : State} (h : s.ringStoreMiB 0 = 1152) {i : Nat} (l : i < 2 ^ 28) : undoFirst s (0xA8000000 + i) = false := by
  have a : (0xA8000000 + i) / 2 ^ 32 % 4 = 0 := by omega
  have b : (0xA8000000 + i) % 2 ^ 32 = 0xA8000000 + i := by omega
  unfold undoFirst State.regionOf
  simp only [a, b, h]
  rw [if_neg (by omega), if_pos (by omega)]
  rfl

/-- A result that is the given list of pages. -/
def isPages (r : Except (Nat × Nat) (Sp Nat)) (m : Sp Nat) : Bool :=
  match r with
  | .ok n => n == m
  | .error _ => false

theorem image_at {w : Word} {x : Slot} {k : AccKind} {c : Nat} (t : ¬ isTimed (imaged w x))
    (h : isPages (imageLeads (imaged w x) k (selected c)).2 pages = true) :
    ImageAt (imaged w x) 0x2000000 k (selected c) (imageLeads (imaged w x) k (selected c)).1 (pagedWord pages (0x2000000 : Word).toNat) := by
  have e : imageLeads (imaged w x) k (selected c) = ((imageLeads (imaged w x) k (selected c)).1, .ok pages) := by
    revert h
    generalize imageLeads (imaged w x) k (selected c) = r
    intro h
    obtain ⟨a, _ | m⟩ := r
    · cases h
    · rw [show m = pages from eq_of_beq h]
  refine ⟨t, by decide, ⟨pages, e, rfl⟩, ?_, ?_⟩
  · intro n m
    have := selected_lt m
    rw [paged this]; omega
  · intro n m j l d
    rw [paged (selected_lt m), paged (selected_lt l)]; omega

theorem image_quiet {s1 : State} {c : Nat} (m : monitorCount s1 = 0) (e : s1.cores.all (fun e => !e.2.einj.getLsbD 0) = true)
    (r : s1.ringStoreMiB 0 = 1152) : ImageQuiet s1 (pagedWord pages (0x2000000 : Word).toNat) (selected c) := by
  refine ⟨m, unarmed e, fun n h => ?_⟩
  have := selected_lt h
  rw [paged this]
  exact undo_region r (by omega)

/-- A deep store without errors and without metadata of its own. -/
theorem sound_deep {s : State} (h : s.deepErr = [] ∧ s.deepMetaErr = [] ∧ s.deepMeta = []) (a : Nat) : Sound s (.deep a) := by
  obtain ⟨e, m, d⟩ := h
  refine ⟨?_, ?_, ?_⟩
  · simp only [errAt, e]; rfl
  · simp only [metaErrAt, m]; rfl
  · simp only [metaAt, d, Sp.get]; rfl

/-- A whole image has words in each of its four pages. -/
theorem leads_few (s : State) (k : AccKind) :
    imageLeads s k (selected 0x3F) = imageLeads s k [0, 8192, 16384, 24576] := by
  have any (n : Nat) (h : n < 0x6600) (c : Nat.testBit 0x3F (classOf n - 16) = true) (p : Nat → Bool) (q : p n = true) :
      (selected 0x3F).any p = true :=
    List.any_eq_true.mpr ⟨n, List.mem_filter.mpr ⟨List.mem_range.mpr h, c⟩, q⟩
  unfold imageLeads imagePages
  refine congrArg (List.foldl _ _) (List.filter_congr fun i m => ?_)
  have l : i < 4 := List.mem_range.mp m
  have e : i = 0 ∨ i = 1 ∨ i = 2 ∨ i = 3 := by omega
  rcases e with rfl | rfl | rfl | rfl
  · rw [any 0 (by decide) (by decide) _ (by decide)]; decide
  · rw [any 8192 (by decide) (by decide) _ (by decide)]; decide
  · rw [any 16384 (by decide) (by decide) _ (by decide)]; decide
  · rw [any 24576 (by decide) (by decide) _ (by decide)]; decide

/-- The image that a JRNL stores, the one that it loads. -/
theorem image_stored : ImageAt (imaged 0x3F0000 (slotOf [])) 0x2000000 .write (selected 0x3F)
    (imageLeads (imaged 0x3F0000 (slotOf [])) .write (selected 0x3F)).1 (pagedWord pages (0x2000000 : Word).toNat) :=
  image_at (by unfold isTimed; decide +kernel) (by rw [leads_few]; decide +kernel)

theorem image_loaded : ImageAt (imaged 0x3F0001 (slotOf [])) 0x2000000 .read (selected 0x3F)
    (imageLeads (imaged 0x3F0001 (slotOf [])) .read (selected 0x3F)).1 (pagedWord pages (0x2000000 : Word).toNat) :=
  image_at (by unfold isTimed; decide +kernel) (by rw [leads_few]; decide +kernel)

theorem image_sound (a : Nat) : Sound (imageLeads (imaged 0x3F0001 (slotOf [])) .read (selected 0x3F)).1 (.deep a) :=
  sound_deep (by rw [leads_few]; decide +kernel) a

theorem image_free : ImageQuiet (imageLeads (imaged 0x3F0000 (slotOf [])) .write (selected 0x3F)).1
    (pagedWord pages (0x2000000 : Word).toNat) (selected 0x3F) :=
  image_quiet (by rw [leads_few]; decide +kernel) (by rw [leads_few]; decide +kernel) (by rw [leads_few]; decide +kernel)

theorem witness_ContextImages :
    let s := imaged 0x3F0000 (slotOf [])
    let x := imaged 0x3F0001 (slotOf [])
    let s1 := (imageLeads s .write (selected 0x3F)).1
    let x1 := (imageLeads x .read (selected 0x3F)).1
    Free s ∧ s.myRole.sup = true ∧ dstOk 5 s.cur.role = true ∧ Supplied (rr 5 6 7) s ∧ sourceOf (rr 5 6 7) s 0 = 0x2000000 ∧
      classesOf 7 (sourceOf (rr 5 6 7) s 1) = 0x3F ∧ field (sourceOf (rr 5 6 7) s 1) 3 13 = 0 ∧
      field (sourceOf (rr 5 6 7) s 1) 22 42 = 0 ∧ field (sourceOf (rr 5 6 7) s 1) 0 3 = 0 ∧
      ImageAt s 0x2000000 .write (selected 0x3F) s1 (pagedWord pages (0x2000000 : Word).toNat) ∧
      ImageQuiet s1 (pagedWord pages (0x2000000 : Word).toNat) (selected 0x3F) ∧ HeldSound s ∧
      Free x ∧ classesOf 7 (sourceOf (rr 5 6 7) x 1) = 0x3F ∧ field (sourceOf (rr 5 6 7) x 1) 0 3 = 1 ∧
      ImageAt x 0x2000000 .read (selected 0x3F) x1 (pagedWord pages (0x2000000 : Word).toNat) ∧
      (x.slot x.me).journal = [] ∧ (x.slot x.me).lift = [] ∧
      ∀ n ∈ selected 0x3F, Sound x1 (.deep (pagedWord pages 0x2000000 n)) := by
  refine ⟨by unfold Free; decide +kernel, rfl, by decide, by unfold Supplied; decide +kernel, ?_, ?_, ?_, ?_, ?_, image_stored,
    image_free, ⟨fun _ => List.forall_mem_nil _, rfl, rfl, List.forall_mem_nil _, List.forall_mem_nil _⟩,
    by unfold Free; decide +kernel, ?_, ?_, image_loaded, rfl, rfl, fun _ _ => image_sound _⟩ <;> decide +kernel

/-- A scratchpad without errors and without metadata of its own. -/
theorem sound_spad {s : State} {c : Nat} (h : (s.core c).spadErr = [] ∧ (s.core c).metaErr = [] ∧ (s.core c).spadMeta = []) (o : Nat) :
    Sound s (.spad c o) := by
  obtain ⟨e, m, d⟩ := h
  refine ⟨?_, ?_, ?_⟩
  · simp only [errAt, e]; rfl
  · simp only [metaErrAt, m]; rfl
  · simp only [metaAt, d, Sp.get]; rfl

theorem fresh_allows {s : State} {c o slot : Nat} {dph : Word} (h : (s.core c).spadMeta = []) (a : stampAllows freshMeta slot dph = true) :
    stampAllows (metaAt s (.spad c o)) slot dph = true := by
  simpa only [metaAt, h, Sp.get] using a

/-- A copy of scope 17 in a slot's journal, and a command of slot 0, numbered 5. -/
def copyA : JEntry :=
  ⟨5, 0, 0, 0x300000, 0x200800, 64, 0, 0, 1, true, 0, .computer, 0, 17, 0, 0, false, false, false, false, false, 0, false, 4, 0, [], 0, 0, 0⟩
def cmdA (i : Instr) (engine : Nat) : Cmd := { newCmd tagged i engine false 0 5 with pushed := 4 }

/-- JRNL abandons: a discarded copy beside one that is not. -/
theorem witness_ContextImages_abandon :
    let y := imaged 0x3F0002 { slotOf [] with journal := [{ copyA with discarded := true }, { copyA with id := 6 }] }
    let y1 := (imageLeads y .write [0]).1
    Free y ∧ field (sourceOf (rr 5 6 7) y 1) 0 3 = 2 ∧ field (sourceOf (rr 5 6 7) y 1) 3 13 = 0 ∧
      field (sourceOf (rr 5 6 7) y 1) 22 42 = 0 ∧ ImageAt y 0x2000000 .write [0] y1 (pagedWord [(512, 0xA8000000)] 0x2000000) ∧
      ((y.slot y.me).journal.map (·.id)).Nodup := by
  refine ⟨by unfold Free; decide +kernel, ?_, ?_, ?_,
    ⟨by unfold isTimed; decide +kernel, by decide, ⟨_, Prod.ext rfl rfl, rfl⟩, by decide, by decide⟩, ?_⟩ <;> decide +kernel

theorem witness_ReplayAndSnapshot :
    let s := { holding .computer
        { slotOf [] with journal := [{ copyA with discarded := true }], lift := [cmdA (.vadd 0 (vx 1 4 4 15 2)) 0] } with snap := 5 }
    let x := seat .computer []
    Free s ∧ s.myRole.sup = true ∧ dstOk 5 s.cur.role = true ∧ Supplied { dst := some 5 } s ∧ ¬ isTimed s ∧
      (s.core (coreOf s.me)).vq.length + (s.slot s.me).lift.length ≤ 16 ∧
      (s.core (coreOf s.me)).mq.length + (s.slot s.me).lift.length ≤ 16 ∧ (coreEntries s (coreOf s.me)).length ≤ 32 ∧
      ((s.slot s.me).journal.map (·.id)).Nodup ∧ s.snap.getLsbD 0 = true ∧ s.snap.getLsbD 2 = true ∧ s.snapAt = none ∧
      Free x ∧ x.myRole.sup = true ∧ Supplied { dst := some 5 } x ∧ x.snap.getLsbD 0 = false := by
  unfold Free Supplied isTimed; decide +kernel

/-- One line logged: 0x1000, by the first record of die 0. -/
def checkpointed (n : Word) : State :=
  { seat .computer [(6, n)] with deep := [(0xA8000041, 0x10)], undo := [(0, { lines := [0x40] })] }

theorem logs_apart : LogsApart (checkpointed 1) := by
  have len (d : Nat) (h : d < 4) (k : Nat) (l : k < ((checkpointed 1).undo.get d {}).lines.length) : d = 0 ∧ k = 0 := by
    interval_cases d
    · exact ⟨rfl, Nat.lt_one_iff.mp l⟩
    all_goals exact absurd l (Nat.not_lt_zero k)
  intro d k h l
  obtain ⟨rfl, rfl⟩ := len d h k l
  refine ⟨by decide +kernel, fun e j a b => ?_⟩
  obtain ⟨rfl, rfl⟩ := len e a j b
  exact ⟨.inl (by decide +kernel), fun n => absurd rfl n⟩

theorem logs_sound : LogsSound (checkpointed 1) := by
  refine ⟨by decide +kernel, rfl, rfl, fun d k h l => ?_⟩
  exact ⟨(sound_deep (by exact ⟨rfl, rfl, rfl⟩) _).2.2, (sound_deep (by exact ⟨rfl, rfl, rfl⟩) _).2.2⟩

theorem witness_Checkpoints :
    let s (n : Word) := checkpointed n
    Free (s 0) ∧ (s 0).myRole.sup = true ∧ dstOk 5 (s 0).cur.role = true ∧ Supplied (ru 5 6) (s 0) ∧ ¬ isTimed (s 0) ∧
      sourceOf (ru 5 6) (s 0) 0 = 0 ∧ Idle (s 0) ∧ Free (s 1) ∧ Supplied (ru 5 6) (s 1) ∧ sourceOf (ru 5 6) (s 1) 0 = 1 ∧
      LogsApart (s 1) ∧ LogsSound (s 1) ∧ (s 1).stalled = [] ∧ Free (s 2) ∧ Supplied (ru 5 6) (s 2) ∧ sourceOf (ru 5 6) (s 2) 0 = 2 :=
  ⟨by unfold Free; decide +kernel, rfl, by decide, by unfold Supplied; decide +kernel, by unfold isTimed; decide +kernel,
    by decide +kernel, by unfold Idle; decide +kernel, by unfold Free; decide +kernel, by unfold Supplied; decide +kernel,
    by decide +kernel, logs_apart, logs_sound, rfl, by unfold Free; decide +kernel, by unfold Supplied; decide +kernel, by decide +kernel⟩

theorem witness_TranslationsLeave :
    let s := seat .storer [(6, 0x1000), (7, 0x21)]
    Free s ∧ s.myRole.sup = true ∧ Supplied { srcs := [6, 7] } s ∧ ¬ isTimed s ∧
      (∀ e ∈ s.found.slots, ∀ r, (e.2.role r).outst = []) ∧ (∀ e ∈ s.clusters, e.2.groups = []) ∧ Idle s ∧ (sourceOf { srcs := [6,
        7] } s 1).toNat < 64 ∧
      field (sourceOf { srcs := [6, 7] } s 1) 4 2 ≠ 3 := by
  refine ⟨by unfold Free; decide +kernel, rfl, by unfold Supplied; decide +kernel, by unfold isTimed; decide +kernel, ?_,
    List.forall_mem_nil _, by unfold Idle; decide +kernel, by decide +kernel, by decide +kernel⟩
  have h : ∀ e ∈ (seat .storer [(6, 0x1000), (7, 0x21)]).found.slots,
      (e.2.role .loader).outst = [] ∧ (e.2.role .computer).outst = [] ∧ (e.2.role .storer).outst = [] := by decide +kernel
  intro e m r
  cases r
  · exact (h e m).1
  · exact (h e m).2.1
  · exact (h e m).2.2

theorem witness_NullifiedRetires :
    let s := holding .computer { slotOf [] with co := { ctxOf [] with nul := 15 } }
    let x := holding .loader { slotOf [] with lo := { ctxOf [] with nul := 1 } }
    let y := holding .storer { slotOf [] with st := { ctxOf [] with nul := 2 } }
    Nullified s ∧ dstOk 5 s.cur.role = true ∧ noPort 5 s.cur.role = true ∧ aimOk s 0 1 ∧ aimOk s (-64) 15 ∧ userReads 1 = true ∧
      blockReady s s.me = false ∧ s.cur.role = .computer ∧ s.myRole.sup = true ∧
      (Instr.vadd 0 (vx 1 4 4 15 2)) ∈ vectorAll 0 (vx 1 4 4 15 2) (mx 4 5 0 0 0) ∧ (Instr.vadd 0 (vx 1 4 4 15 2)).wellFormed = true ∧
      (Instr.ocmp 0 (mx 4 5 0 0 0)) ∈ matrixAll 0 (vx 1 4 4 15 2) (mx 4 5 0 0 0) ∧ (Instr.ocmp 0 (mx 4 5 0 0 0)).wellFormed = true ∧
      Nullified x ∧ x.cur.role = .loader ∧ aimOk x 0 1 ∧ Nullified y ∧ y.cur.role = .storer := by
  unfold Nullified aimOk; decide +kernel

/-- The two lists part the engine pushes. -/
theorem test_engine_pushes (st : BitVec 3) (v : VxOps) (m : MxOps) :
    (vectorAll st v m).length = 54 ∧ (matrixAll st v m).length = 9 ∧
      onlyOfComputer st v m = .stgrel st :: (vectorAll st v m ++ matrixAll st v m) := ⟨rfl, rfl, rfl⟩

/-! ### Witnesses: the machine as a whole -/

/-- The computer of slot 0, its only role, at word 1 of line 65 of its domain, whose line holds an ADD behind its link word. -/
def fetching : State :=
  { holding .computer { slotOf [] with lo := {}, st := {} } with agenda := [], cores := [(0, { code := [⟨1, 65, false, false,
    0x0246320020000000, []⟩] })] }

theorem fetches : Fetches { fetching with cur := contextOf 0 .computer, issued := false } (.add 1 3 3 4) := by
  refine ⟨?_, ?_, all_found (by decide +kernel), 0x0246320020000000, ?_, ?_, ?_, ?_⟩ <;> decide +kernel

/-- The outcome is a next state in which an instruction has issued. -/
def leavesIssued (o : Host.Outcome State Fault Refusal) : Bool :=
  match o with
  | .next t => t.issued
  | _ => false

/-- The outcome is a next state. -/
def isNext (o : Host.Outcome State Fault Refusal) : Bool :=
  match o with
  | .next _ => true
  | _ => false

theorem next_of {o : Host.Outcome State Fault Refusal} (h : isNext o = true) : ∃ t, o = .next t := by
  cases o with
  | next t => exact ⟨t, rfl⟩
  | fault _ => cases h
  | refused _ => cases h

theorem next_state {o : Result} {s : State} (h : isNext o = true) : o = .next (o.state s) := by
  obtain ⟨t, rfl⟩ := next_of h; rfl

theorem witness_StepRunsDecoded :
    let s := { fetching with agenda := [.issue 0 .computer] }
    let x := { fetching with agenda := [.issuing 0] }
    let q := { x with agenda := [] }
    let sA := (performed 0 (List.range 4) (.next q)).state q
    let s0 := (performed 0 (List.range 1) (.next q)).state q
    let s1 := { s0 with cur := contextOf 0 (positionRole 1), issued := false }
    let y := { fetching with agenda := [.event (contextOf 0 .computer) .strandPickup] }
    s.powered = true ∧ s.agenda = .issue 0 .computer :: [] ∧
      Fetches { s with agenda := [], cur := contextOf 0 .computer, issued := false } (.add 1 3 3 4) ∧
      x.agenda = .issuing 0 :: [] ∧ performed 0 (List.range 4) (.next q) = .next sA ∧
      performed 0 (List.range (0 + 1)) (.next q) = .next s0 ∧ (coreTries sA 0).filter (·.took) = [⟨1, 4 * 0 + 0, true⟩] ∧
      Fetches s1 (.add 1 3 3 4) ∧
      leavesIssued (exec (.add 1 3 3 4) (s1.modMe (fun c => { c with link := linkWord s1 }))) = true ∧
      y.agenda = .event (contextOf 0 .computer) .strandPickup :: [] :=
  ⟨rfl, rfl, fetches, rfl, next_state (by decide +kernel), next_state (by decide +kernel), by decide +kernel,
    by refine ⟨?_, ?_, all_found (by decide +kernel), 0x0246320020000000, ?_, ?_, ?_, ?_⟩ <;> decide +kernel, by decide +kernel, rfl⟩

/-- Memories in their canonical form, of a machine whose step goes on. -/
theorem witness_MemoriesStayCanonical :
    let s := { fetching with agenda := [.issue 0 .computer], deep := barrierMem, host := [(5, 1)], remote := [(1, [(9, 2)])] }
    s.canonical ∧ ∃ t, step s = .next t :=
  ⟨by unfold State.canonical; decide +kernel, next_of (by decide +kernel)⟩

theorem witness_DecodeEncode : (Instr.add 7 31 31 31).wellFormed = true ∧ (Instr.add 7 31 31 31).hasWord = true := by decide

/-! ### Witnesses: the scheduler and the slots -/

def refA : RecRef := ⟨0x1000, 1, 0x1000, false⟩
def refB : RecRef := ⟨0x2000, 1, 0x2000, false⟩

/-- The record as an entry of a queue. -/
def readyA (prio : Nat) : Ready := ⟨refA, prio, false, true, 0, none, false⟩

/-- Slot 0 is free and its cluster is `c`, in cycle `n`, beside a RUNNING record whose line is logged. -/
def clustered (c : Cluster) (n : Nat) : State :=
  { beside .computer (recordAt 2 0 0) 1 [] with slots := [], clusters := [(0, c)], cycle := n }

theorem witness_SchedulerMovesRecords_queues :
    let s := clustered { ready := [readyA 20, { readyA 30 with ref := refB }] } 10
    let x := clustered { spill := [{ readyA 5 with ref := refB }, readyA 20], refillAt := 10 } 10
    let y := clustered { kept := [⟨10, readyA 20, none⟩, ⟨11, readyA 20, none⟩] } 10
    slotFree s s.me = true ∧ (s.cluster (clusterOf s.me)).ready = [] ++ readyA 20 :: [{ readyA 30 with ref := refB }] ∧
      before { readyA 30 with ref := refB } (readyA 20) = false ∧ (readyA 20).core = none ∧
      (s.cluster (clusterOf s.me)).resume = [] ∧ Takable s 0x1000 ∧ RecQuiet s 0x1000 ∧
      (x.cluster (clusterOf x.me)).spill = [] ++ { readyA 5 with ref := refB } :: [readyA 20] ∧ 5 ≤ (readyA 20).prio ∧
      (x.cluster (clusterOf x.me)).ready.length < 960 ∧ (x.cluster (clusterOf x.me)).refillAt ≤ x.cycle ∧
      (y.cluster (clusterOf y.me)).kept = ⟨10, readyA 20, none⟩ :: [⟨11, readyA 20, none⟩] ∧ 10 ≤ y.cycle ∧ y.cycle < 11 ∧
      (y.cluster (clusterOf y.me)).ready.length < 960 := by
  refine ⟨?_, ?_, ?_, rfl, ?_, by unfold Takable; decide +kernel, rec_quiet (by decide +kernel), ?_, by decide, ?_, ?_, ?_,
    by decide, by decide, ?_⟩ <;> decide +kernel

theorem witness_SchedulerMovesRecords :
    let w : EvWaiter := ⟨refA, 15, 1⟩
    let u : EvWaiter := ⟨refB, 0, 1⟩
    let c : Cluster := { overflow := [w, u], since := 1 <<< 240 }
    let s := clustered { c with since := 0 } 256
    let x := clustered c 512
    let y := clustered { poll := [(refA, 10), (refB, 11)] } 10
    s.cycle % 256 = 0 ∧
      (∀ v ∈ [w, u], (((s.cluster 0).events ||| (s.cluster 0).since).extractLsb' (16 * v.group) 16) &&& v.mask ≠ v.mask) ∧
      x.cycle % 256 = 0 ∧ (x.cluster (clusterOf x.me)).overflow = w :: [u] ∧ suspendingSlot x w.ref = none ∧ RecQuiet x w.ref.pa ∧
      (x.cluster (clusterOf x.me)).ready.length < 1024 ∧ ((c.events ||| c.since).extractLsb' (16 * w.group) 16) &&& w.mask = w.mask ∧
      ((c.events ||| c.since).extractLsb' (16 * u.group) 16) &&& u.mask ≠ u.mask ∧
      (y.cluster (clusterOf y.me)).poll = (refA, 10) :: [(refB, 11)] ∧ 10 ≤ y.cycle ∧ y.cycle < 11 ∧ suspendingSlot y refA = none ∧
        RecQuiet y refA.pa ∧
      (y.cluster (clusterOf y.me)).ready.length < 1024 := by
  refine ⟨by decide, ?_, by decide, rfl, ?_, rec_quiet (by decide +kernel), ?_, ?_, ?_, rfl, by decide, by decide, ?_,
    rec_quiet (by decide +kernel), ?_⟩ <;> decide +kernel

/-- Slot 0 holds `x` beside its strand's record, whose line is logged. -/
def ownRecord (x : Slot) : State := { holding .computer x with deep := recordAt 2 0 0, scopes := scopes17 1, undo := [(0, { lines := [0x40] })] }

theorem ordinary {s : State} (a : (s.slot s.me).strand = some strandA) (q : quietly s 0x1000 = true)
    (o : (s.role s.me .loader).outst = [] ∧ (s.role s.me .computer).outst = [] ∧ (s.role s.me .storer).outst = [])
    (v : (s.slot s.me).saveArea = none ∧ (s.slot s.me).victimOf = none) : Ordinary s strandA :=
  ⟨a, rfl, rfl, rfl, rec_quiet q, fun r => by cases r; exacts [o.1, o.2.1, o.2.2], v⟩

/-- The suspension `u` is to complete, in a cluster that is `c`, with a ring of 8 record addresses at 0xA8000000 for each list. -/
def suspended (u : Susp) (c : Cluster) : State :=
  { ownRecord { slotOf [(5, 9)] with susp := some u } with
    clusters := [(0, c)],
    mgmt := [4, 6, 10].flatMap (fun w => [(0x3000 + 8 * w, 0xA8000000#64), (0x3008 + 8 * w, 8#64)]) }

theorem suspended_ok {u : Susp} {c : Cluster} (q : quietly (suspended u c) 0x1000 = true)
    (d : (suspended u c).role (suspended u c).me u.role = ctxOf [(5, 9)])
    (e : suspendReady (suspended u c) (suspended u c).me = true ∧ queuesEmpty (suspended u c) (suspended u c).me = true) :
    Ordinary (suspended u c) strandA ∧ Suspended (suspended u c) u :=
  ⟨ordinary rfl q ⟨rfl, rfl, rfl⟩ ⟨rfl, rfl⟩, rfl, rfl, rfl, .inr e.2, e.1, by rw [d]; rfl⟩

/-- The list's ring lies in the undo region, whose lines need no logging. -/
theorem tail_quiet {s : State} {w a : Nat} (h : listTail s (clusterOf s.me) w = some (.deep a)) (m : a % 8 = 0 ∧ a / 64 ≠ 0x1000 / 64)
    (u : undoFirst s a = false) (q : ∀ e ∈ s.clusters, ∀ m ∈ e.2.monitors, m.2 ≠ .deep (a / 64 * 64)) : TailQuiet s w 0x1000 :=
  fun _ e => ⟨a, Option.some.inj (e.symm.trans h), m.1, m.2, u, q⟩

/-- YIELD, SUSP, and EVWAIT with a free entry and without one. -/
theorem witness_SlotsGiveUpStrands_suspension :
    let u (k : SuspKind) : Susp := ⟨.computer, k, 0x10000042, false, false⟩
    let y := suspended (u .yield) {}
    let d := suspended (u .dormant) {}
    let e := suspended (u (.event 1 15)) {}
    let f := suspended (u (.event 1 15)) { wait := List.replicate 64 ⟨refB, 0, 1⟩ }
    Ordinary y strandA ∧ Suspended y (u .yield) ∧ (y.cluster (clusterOf y.me)).ready.length < 1024 ∧
      Ordinary d strandA ∧ Suspended d (u .dormant) ∧ Ordinary e strandA ∧ Suspended e (u (.event 1 15)) ∧
      (e.cluster (clusterOf e.me)).wait.length < 64 ∧ Ordinary f strandA ∧ Suspended f (u (.event 1 15)) ∧
      64 ≤ (f.cluster (clusterOf f.me)).wait.length ∧ TailQuiet f 10 0x1000 ∧
      listTail f (clusterOf f.me) 10 = some (.deep 0xA8000000) := by
  refine ⟨?_, ?_, by decide +kernel, ?_, ?_, ?_, ?_, by decide +kernel, ?_, ?_, by decide +kernel, ?_, by decide +kernel⟩
  iterate 2 first
    | exact (suspended_ok (by decide +kernel) rfl (by decide +kernel)).1
    | exact (suspended_ok (by decide +kernel) rfl (by decide +kernel)).2
  iterate 6 first
    | exact (suspended_ok (by decide +kernel) rfl (by decide +kernel)).1
    | exact (suspended_ok (by decide +kernel) rfl (by decide +kernel)).2
  exact tail_quiet (a := 0xA8000000) (by decide +kernel) (by decide) (by decide +kernel) (by decide +kernel)

/-- TWAIT; WAITA with a monitor, woken, and with none; PHWAIT, woken and waiting. -/
theorem witness_SlotsGiveUpStrands_waits :
    let u (k : SuspKind) (w : Bool) : Susp := ⟨.computer, k, 0x10000042, w, false⟩
    let m : SuspKind := .monitor 0x200000 placeD
    let a := suspended (u (.frame 6) false) {}
    let b := suspended (u m false) { monitors := [(refA, placeD)] }
    let c := suspended (u m true) {}
    let d := suspended (u m false) {}
    let e := suspended (u (.phaser 3) true) {}
    let f := suspended (u (.phaser 3) false) {}
    (Ordinary a strandA ∧ Suspended a (u (.frame 6) false)) ∧ TailQuiet a 6 0x1000 ∧
      (Ordinary b strandA ∧ Suspended b (u m false)) ∧ (∃ x ∈ (b.cluster (clusterOf b.me)).monitors, x.1.pa = 0x1000) ∧
      (Ordinary c strandA ∧ Suspended c (u m true)) ∧ (c.cluster (clusterOf c.me)).ready.length < 1024 ∧
      (Ordinary d strandA ∧ Suspended d (u m false)) ∧ (∀ x ∈ (d.cluster (clusterOf d.me)).monitors, x.1.pa ≠ 0x1000) ∧
      TailQuiet d 4 0x1000 ∧ (Ordinary e strandA ∧ Suspended e (u (.phaser 3) true)) ∧
      (Ordinary f strandA ∧ Suspended f (u (.phaser 3) false)) :=
  ⟨suspended_ok (by decide +kernel) rfl (by decide +kernel),
    tail_quiet (a := 0xA8000000) (by decide +kernel) (by decide) (by decide +kernel) (by decide +kernel),
    suspended_ok (by decide +kernel) rfl (by decide +kernel), by decide +kernel,
    suspended_ok (by decide +kernel) rfl (by decide +kernel), by decide +kernel,
    suspended_ok (by decide +kernel) rfl (by decide +kernel), by decide +kernel,
    tail_quiet (a := 0xA8000000) (by decide +kernel) (by decide) (by decide +kernel) (by decide +kernel),
    suspended_ok (by decide +kernel) rfl (by decide +kernel), suspended_ok (by decide +kernel) rfl (by decide +kernel)⟩

/-- A record of priority 5 has waited for 4,096 cycles behind the strand of priority 20 in slot 0. -/
def waiting : State :=
  { seat .computer [] with
    cycle := 5000, clusters := [(0, { saves := [0x8000], ready := [{ readyA 5 with ref := refB, since := 904 }] })] }

theorem only_slot0 {j : Nat} (h : j ≠ 0) : waiting.slot j = {} := by
  simp [waiting, seat, holding, State.slot, Sp.get, h]

theorem witness_SlotsGiveUpStrands_preemption :
    let s := waiting
    let e : Ready := { readyA 5 with ref := refB, since := 904 }
    (s.cluster (clusterOf s.me)).saves = 0x8000 :: [] ∧ (s.cluster (clusterOf s.me)).ready = [e] ∧ e.busy = false ∧
      4096 ≤ s.cycle - e.since ∧ (∀ j, s.reservedBy j = none) ∧ clusterOf 0 = clusterOf s.me ∧ preemptable (s.slot 0) = true ∧
      (s.slot 0).strand = some strandA ∧ e.prio < strandA.prio ∧
      (∀ j y, clusterOf j = clusterOf s.me → j ≠ 0 → (s.slot j).strand = some y → y.prio < strandA.prio) := by
  refine ⟨by decide +kernel, by decide +kernel, rfl, by decide, fun j => ?_, rfl, by decide +kernel, rfl, by decide, ?_⟩
  · have h : ∀ d ∈ List.range 16, waiting.frameMode d = false := by decide +kernel
    exact List.find?_eq_none.2 (fun d m => by simp [h d m])
  · intro j y _ n e
    rw [only_slot0 n] at e
    cases e

/-- A command that waits on token 3, which is 0, in a slot that drains; the computer's NUL window is open. -/
def waitCmd : Cmd := { cmdA (.vadd 0 { vx 1 4 4 15 2 with tok := 0x260 }) 0 with pushed := 4 }

theorem witness_SlotsGiveUpStrands_drain :
    let q : TrapReq := ⟨.computer, 14, 0x2000, true, .computer⟩
    let s := { holding .computer { slotOf [] with draining := true, trap := some q, lo := { ctxOf [] with nul := 1 } } with
      cores := [(0, { vq := [waitCmd] })] }
    (s.slot s.me).draining = true ∧ (s.slot s.me).trap = some q ∧ windowsClosed s s.me (some q.role) = false ∧
      (s.core (coreOf s.me)).vq.filter (fun c => c.slot = s.me) = waitCmd :: [] ∧
      (∀ c ∈ (s.core (coreOf s.me)).mq, c.slot ≠ s.me) ∧ waitCmd.nullified = false ∧ waitToken waitCmd.w1 = some 3 ∧
      (s.slot s.me).tokens.get 3 0 = 0 ∧ (∀ r ∈ (s.core (coreOf s.me)).vrun ++ (s.core (coreOf s.me)).mrun, r.cmd.slot ≠ s.me) := by
  decide +kernel

theorem witness_SlotsGiveUpStrands :
    let s := ownRecord { slotOf [] with kill := true }
    let x := trapping .computer 11 true []
    let q : TrapReq := ⟨.computer, 11, 5, true, .storer⟩
    let y := { x with slots := [(0, { x.slot 0 with trap := some q })] }
    let z := holding .computer { slotOf [] with progress := 2 ^ 24 }
    Ordinary s strandA ∧ (s.slot s.me).kill = true ∧ windowsClosed s s.me none = true ∧ (s.slot s.me).lo.vpend = [] ∧
      (s.slot s.me).st.vpend = [] ∧ (s.slot s.me).susp = none ∧ (s.slot s.me).holds = 0 ∧
      (∀ m ∈ s.members, m.record ≠ strandA.ref.pa) ∧ 1 < (s.scope strandA.scope).live ∧ Enterable y q ∧
      (z.slot z.me).ctl.getLsbD 1 = true ∧ (z.slot z.me).strand ≠ none ∧
      2 ^ (16 + field (z.slot z.me).ctl 4 4) ≤ (z.slot z.me).progress := by
  refine ⟨ordinary rfl (by decide +kernel) (by decide +kernel) (by decide +kernel), rfl, ?_, rfl, rfl, rfl, rfl, ?_, ?_,
    by refine ⟨rfl, ?_, ?_, ?_, ?_, ?_, nofun, ?_, all_found (by decide +kernel), any_found (by decide +kernel)⟩ <;> decide +kernel,
    ?_, nofun, ?_⟩ <;> decide +kernel

/-! ### Witnesses: the units -/

theorem writable {s : State} {p : Place} {n : Nat} (a : n ∈ [1, 2, 4, 8] ∧ AlignedAt p n) (e : Exists p)
    (q : monitorCount s = 0 ∧ einjMatches s (coreOf s.me) p = false ∧ Sound s p ∧ undoStalls s p = false)
    (w : (∀ o, p ≠ .window o) ∧
      ∀ a, p = .deep a → a < 2 ^ 34 ∧ (undoFirst s a = true → ∀ j, j < 8 →
        errAt s (.deep (a / 64 * 64 + 8 * j)) = 0)) (u : s.cores.all (fun e => !e.2.einj.getLsbD 0) = true) :
    Writable s p n :=
  ⟨a.1, a.2, e, ⟨q.1, q.2.1, q.2.2.1, q.2.2.2, w.1, w.2⟩, unarmed u⟩

/-- A store of 8 bytes whose time has come, and a result that has arrived. -/
theorem witness_UnitsDoTheirWork_accesses :
    let o : Outst := ⟨3, placeD, 0x200000, 8, 0, 0x55, 0, 10⟩
    let l : Late := { val := 7, due := 10 }
    let s := holding .storer { slotOf [] with st := { ctxOf [] with outst := [o] } }
    let x := holding .storer { slotOf [] with lo := { ctxOf [] with vpend := [⟨.sreg 27, l⟩] } }
    s.myRole.outst = [o] ∧ o.op = 0 ∧ o.due ≤ s.cycle ∧ Writable s o.place o.w ∧
      (x.role x.me .loader).vpend = [⟨.sreg 27, l⟩] ∧ 27 ≠ 0 ∧ l.ticket = 0 ∧ l.events = none ∧ l.behind = 0 ∧ l.due ≤ x.clock x.me ∧
      (x.role x.me .loader).pend = [] :=
  ⟨rfl, rfl, by decide +kernel, writable ⟨by decide, rfl⟩ nofun (by decide +kernel) ⟨nofun, fun a e => by cases e; decide⟩
      (by decide +kernel), rfl, by decide, rfl, rfl, rfl, by decide +kernel, rfl⟩

/-- A merge group of two members, 8 cycles old. -/
def group2 : Merge :=
  ⟨placeD, 4, 0, 2, [⟨0, 0, .loader, 5, true, 1, 0x200000, 0x10000041⟩, ⟨7, 1, .storer, 6, true, 2, 0x200000, 0x10000041⟩]⟩

theorem witness_UnitsDoTheirWork_group :
    let m1 : Request := ⟨0, 0, .loader, 5, true, 1, 0x200000, 0x10000041⟩
    let m2 : Request := ⟨7, 1, .storer, 6, true, 2, 0x200000, 0x10000041⟩
    let s := { seat .loader [] with clusters := [(0, { groups := [group2] })] }
    (s.cluster (clusterOf s.me)).groups = [group2] ∧ group2.opened + 8 ≤ s.cycle ∧ group2.members = [m1, m2] ∧ m1.input < m2.input ∧
      m2.input < 8 ∧ m1.slot ≠ m2.slot ∧ m1.returns = true ∧ m2.returns = true ∧ m1.ticket ≠ 0 ∧ m2.ticket ≠ 0 ∧ group2.w ∈ [4, 8] ∧
      (takeDelay s).1 = 0 ∧ Writable s group2.place group2.w :=
  ⟨rfl, by decide, rfl, by decide, by decide, by decide, rfl, rfl, by decide, by decide, by decide, by decide +kernel,
    writable ⟨by decide, rfl⟩ nofun (by decide +kernel) ⟨nofun, fun a e => by cases e; decide⟩ (by decide +kernel)⟩

/-- A line to fetch at the mapped address 64 · 65; a clean line to scrub, and one with a bit in error. -/
theorem witness_UnitsDoTheirWork_lines :
    let s := seat .computer []
    let x := { seat .computer [] with deepErr := [(7, 0x10)] }
    ScrubLineSound s ∧ ScrubLineSound x ∧ codeEntry s (coreOf s.me) (s.slot s.me).domain (lineOf s.myRole.pc) s.myRole.sup = none ∧
      (∀ i, i < 8 → Sound s (.deep (4160 + 8 * i))) ∧
      blockedBy s s.me s.cur.role = none ∧ lineOf s.myRole.pc ≠ endLine ∧ isRom (lineOf s.myRole.pc) = false ∧
      cachedLine s (coreOf s.me) (s.slot s.me).domain (lineOf s.myRole.pc) s.myRole.sup = none ∧
      (translate s (coreOf s.me) (s.slot s.me).domain (64 * lineOf s.myRole.pc) .exec s.myRole.sup s.me).2 = .ok (.deep 4160) ∧
      (translate s (coreOf s.me) (s.slot s.me).domain (64 * lineOf s.myRole.pc) .exec s.myRole.sup s.me).1 = s ∧
      transWait s (coreOf s.me) (s.slot s.me).domain (64 * lineOf s.myRole.pc) = 0 ∧
      (s.core (coreOf s.me)).code.length < 768 ∧ (∀ i, i < 8 → s.deepErr.get (scrubUnit s i / 8) 0 = 0) ∧
      popcount (x.deepErr.get (scrubUnit x 7 / 8) 0) = 1 ∧ (∀ j, j < 8 → j ≠ 7 → x.deepErr.get (scrubUnit x j / 8) 0 = 0) := by
  refine ⟨by unfold ScrubLineSound; decide +kernel, by unfold ScrubLineSound; decide +kernel, ?_, ?_, ?_, ?_, ?_, ?_, rfl, ?_, ?_,
    ?_, ?_, ?_, ?_⟩ <;> decide +kernel

/-- Role computer of slot 0 acts on core 0 as `c`. -/
def onCore (c : Core) (x : Slot) : State := { holding .computer x with cores := [(0, c)], scopes := scopes17 1 }

/-- A run of command `m` whose landing is due. -/
def runA (m : Cmd) (effs : List Eff) : Run := ⟨m, 2, 0, 1, 8, 10, 2, 1, effs, 0x11, 0, 0, [], [], ⟨3, 9, 1⟩, 0, 1000, []⟩

theorem witness_UnitsDoTheirWork_engines :
    let v := cmdA (.vadd 0 (vx 1 4 4 15 2)) 0
    let m := cmdA (.mflip 0 (mx 0 0 0 0 0)) 1
    let l := cmdA (.mlds 0 (mx 0 0 9 0 28)) 1
    let s := onCore { vq := [v], mq := [m] } (slotOf [])
    let x := onCore { vrun := [runA v [.row 1 5 0xFFFF 2]], mrun := [runA l []] } (slotOf [])
    (s.core (coreOf s.me)).vq = [v] ∧ (s.core (coreOf s.me)).vrun = [] ∧ coreOf v.slot = coreOf s.me ∧ Startable s v ∧
      (s.core (coreOf s.me)).mq = m :: [] ∧ (s.core (coreOf s.me)).mrun = [] ∧ Startable s m ∧ m.mfn = 0x01 ∧ m.nullified = false ∧
      (x.core (coreOf x.me)).vrun = [runA v [.row 1 5 0xFFFF 2]] ∧ (runA v []).landedAt = 0 ∧ (runA v []).land ≤ x.cycle ∧
      (runA v []).fault = 0 ∧ v.nullified = false ∧ Counted x v.scope ∧ (x.core (coreOf x.me)).mrun = [runA l []] ∧
      (runA l []).rows = [] ∧ l.mfn = 0x00 ∧ mxHold l ≤ (runA l []).got ∧ l.nullified = false ∧ coreOf l.slot = coreOf x.me ∧
        Counted x l.scope := by
  unfold Startable Counted; decide +kernel

/-- A store that lands, and an MDRAIN that starts. -/
theorem witness_UnitsDoTheirWork_others :
    let v := cmdA (.vst 0 (vx 0 28 2 15 1)) 0
    let r := runA v [.store 0x3FFC00 1024 7 (BitVec.allOnes 8192)]
    let m := cmdA (.mdrain 0 (mx 0 0 0 0 0)) 1
    let s := onCore { vrun := [r], mq := [m] } (slotOf [])
    (s.core (coreOf s.me)).vrun = [r] ∧ r.landedAt = 0 ∧ r.land ≤ s.cycle ∧ r.fault = 0 ∧ v.nullified = false ∧ Counted s v.scope ∧
      1024 ∈ [1024, 8192] ∧ coreOf v.slot = coreOf s.me ∧ StoreQuiet s v 0x3FFC00 1024 ∧ (s.core (coreOf s.me)).mq = m :: [] ∧
      (s.core (coreOf s.me)).mrun = [] ∧ coreOf m.slot = coreOf s.me ∧ Startable s m ∧ m.mfn = 0x06 ∧ m.nullified = false ∧
      Counted s m.scope := by
  refine ⟨rfl, by decide, by decide +kernel, rfl, by decide +kernel, ?_, by decide, by decide +kernel, ⟨by decide, by decide, by decide +kernel,
    unarmed (by decide +kernel), fun i h => ?_⟩, by decide +kernel, rfl, by decide +kernel, ?_, by decide +kernel, by decide +kernel, ?_⟩
  · unfold Counted; decide +kernel
  · exact ⟨sound_spad (by decide +kernel) _, fresh_allows (by decide +kernel) (by decide +kernel),
      fun k r hk => unraced (s := { seat .loader [] with cur := contextOf 0 .loader }) _ rfl rfl k r hk⟩
  · unfold Startable; decide +kernel
  · unfold Counted; decide +kernel

theorem witness_UnitsDoTheirWork_copies :
    let e : JEntry := { copyA with w0 := (encode (.dtld 0 (copyX 0))).1, w1 := (encode (.dtld 0 (copyX 0))).2 }
    let f : JEntry := { copyA with finished := true, started := true }
    let s := { onCore {} { slotOf [] with journal := [e] } with cur := { contextOf 0 .computer with q := 1 } }
    let x := onCore {} { slotOf [] with journal := [f] }
    copyQueue s (coreOf s.me) s.cur.q.toNat = [(0, e)] ∧ copyFlight s (coreOf s.me) s.cur.q.toNat = [] ∧ (s.slot 0).journal = [e] ∧
      e.fn = 5 ∧ e.flips = 0 ∧ e.pushed < s.cycle ∧ e.next ≤ s.cycle ∧ e.started = false ∧ waitToken e.w1 = none ∧
      (x.slot x.me).journal = [f] ∧ f.finished = true ∧ f.discarded = false ∧ f.vc = 0 ∧ f.marked = 0 ∧ f.err = 0 ∧ Counted x f.scope := by
  unfold Counted; decide +kernel

/-! ### Witnesses: what commands compute -/

/-- The one command of core 0 is `m`, of the vector engine or of the matrix engine; the active plane carries format 3. -/
def alone (m : Cmd) : State := { tagged with cores := [(0, { vq := [m] })] }
def first (m : Cmd) : State := { tagged with cores := [(0, { mq := [m], active := ⟨0, 3, 1⟩ })] }

/-- Integer and immediate forms, the ends of the scratchpad, a move of a whole row, an insertion at a lane. -/
def moreTerms : List (Instr × Word) :=
  [(.vadd 0 (vx 1 14 14 15 7), 0), (.vmul 0 { vx 1 2 2 15 1 with aux := 1 }, 0), (.vabs 0 (vx 1 2 0 15 1), 0), (.vmin 0 (vx 1 16 16 15 8), 0),
   (.vsar 0 { vx 1 14 0 15 7 with aux := 7 }, 0), (.vshl 0 { vx 1 16 0 15 8 with aux := 7 }, 0), (.vmov 0 (vx 1 14 0 15 0), 0),
   (.vbcst 0 (vx 1 5 0 15 1), 7), (.vcmp 0 { vx 1 2 2 0 1 with aux := 5 }, 0), (.vld 0 (vx 1 28 0 15 1), 0x3FFC00),
   (.vst 0 (vx 0 28 2 0 1), 0x3FFC00), (.vrot 0 { vx 1 4 0 15 2 with aux := 63 }, 0), (.vscan 0 { vx 1 4 0 15 2 with aux := 4 }, 0),
   (.bld 0 (vx 1 28 0 15 12), 0x3FE000), (.bst 0 (vx 0 28 1 15 12), 0x3FE000), (.brow 0 { vx 1 24 0 15 12 with aux := 8 }, 0),
   (.bfill 0 { vx 1 0 0 15 12 with aux := 6 }, 0), (.viota 0 (vx 1 0 0 15 2), 0), (.vadd 0 (vx 1 6 6 15 3), 0),
   (.vcmp 0 { vx 1 2 2 0 1 with aux := 5 }, 0), (.vred 0 { vx 1 4 0 15 2 with aux := 1 }, 0), (.vcvt 0 (vx 1 4 0 15 1), 0),
   (.vcvt 0 { vx 14 4 0 15 7 with aux := 3 }, 0), (.vcvt 0 { vx 0 4 0 15 7 with aux := 3 }, 0), (.vshuf 0 { vx 14 14 8 15 7 with aux := 1 }, 0),
   (.vqnt 0 { vx 18 4 0 15 9 with aux := 63 }, 0), (.vqnt 0 { vx 0 6 4 15 10 with aux := 3 }, 0), (.vqnt 0 { vx 22 4 6 15 11 with aux := 7 }, 0),
   (.vdeq 0 { vx 1 18 0 15 2 with aux := 5 }, 0), (.vdeq 0 { vx 1 20 0 15 3 with aux := 3 }, 0), (.vdeq 0 { vx 1 22 6 15 2 with aux := 7 }, 0),
   (.vhad 0 { vx 1 6 0 15 3 with aux := 1 }, 0), (.vcon 0 { vx 4 4 0 15 2 with aux := 0x3E }, 0),
     (.bcomp 0 { vx 1 2 3 15 12 with aux := 1 }, 0), (.vselb 0 (vx 4 4 5 15 2), 255)]

/-- A vector command with the reads and writes that its push notes. -/
def cmdV (i : Instr) : Cmd := vecUses tagged (cmdA i 0)

theorem witness_UnitsDoTheirWork_vector :
    ∀ e ∈ vectorTerms.map (fun e => (e.1, (0 : Word))) ++ moreTerms,
      let m : Cmd := { cmdV e.1 with scal := e.2 }
      e.1.wellFormed = true ∧ (majorOf m.w0 = 0x60 ∨ majorOf m.w0 = 0x61) ∧ StartsAlone (alone m) m (majorOf m.w0) := by
  unfold StartsAlone Startable; decide +kernel

/-- Every function that the statement lists has a command among them. -/
theorem witness_UnitsDoTheirWork_functions :
    let of (major : Nat) : List Nat :=
      ((vectorTerms.map (·.1) ++ moreTerms.map (·.1)).map (fun i => cmdA i 0)).filterMap
        (fun m => if majorOf m.w0 = major then some m.vfn else none)
    (∀ f ∈ [0x00, 0x01, 0x02, 0x03, 0x04, 0x08, 0x09, 0x0A, 0x0B, 0x0C, 0x0D, 0x0E, 0x0F, 0x10, 0x11, 0x12, 0x13, 0x14, 0x15, 0x16, 0x18,
        0x19, 0x1A, 0x1B, 0x1C, 0x1D, 0x20, 0x21, 0x22, 0x23, 0x28, 0x29, 0x2A, 0x2B, 0x30, 0x31, 0x34, 0x35, 0x36, 0x37, 0x38, 0x3C, 0x3D],
        f ∈ of 0x60) ∧
      ∀ f ∈ [0x00, 0x01, 0x02, 0x03, 0x08, 0x09, 0x0A, 0x0B, 0x0C, 0x0D, 0x10], f ∈ of 0x61 := by
  decide +kernel

/-- The further conditions on these commands: the tags of what they read, and what their aux field names. -/
theorem witness_UnitsDoTheirWork_conditions :
    let at' (i : Instr) (p : Cmd → Bool) : Bool := p (cmdV i)
    let src (m : Cmd) : Nat := m.tagOf (.row m.vx.va.toNat)
    (at' (.viota 0 (vx 1 0 0 15 2)) (fun m => m.ty == 2) && at' (.vcmp 0 { vx 1 4 4 0 2 with aux := 5 }) (fun m => isFloatTy m.ty) &&
      at' (.vshuf 0 (vx 1 4 8 15 2)) (fun m => 8192 / laneBits m.ty == 256 && m.aux == 0) &&
      at' (.vshuf 0 { vx 14 14 8 15 7 with aux := 1 }) (fun m => 8192 / laneBits m.ty == 1024) &&
      at' (.vred 0 { vx 1 4 0 15 2 with aux := 1 }) (fun m => m.aux % 8 == 1) &&
      at' (.vscan 0 { vx 1 4 0 15 2 with aux := 4 }) (fun m => m.aux % 4 == 0) &&
      at' (.vcvt 0 (vx 1 4 0 15 1)) (fun m => laneBits m.ty == laneBits (src m)) &&
      at' (.vcvt 0 { vx 14 4 0 15 7 with aux := 3 }) (fun m => laneBits m.ty < laneBits (src m)) &&
      at' (.vqnt 0 { vx 18 4 0 15 9 with aux := 63 }) (fun m => m.ty == 9 && src m == 2) &&
      at' (.vqnt 0 { vx 0 6 4 15 10 with aux := 3 }) (fun m => m.ty == 10 && src m == 3) &&
      at' (.vqnt 0 { vx 22 4 6 15 11 with aux := 7 }) (fun m => m.ty == 11 && src m == 2) &&
      at' (.vdeq 0 { vx 1 18 0 15 2 with aux := 5 }) (fun m => src m == 9) &&
      at' (.vdeq 0 { vx 1 20 0 15 3 with aux := 3 }) (fun m => src m == 10) &&
      at' (.vdeq 0 { vx 1 22 6 15 2 with aux := 7 }) (fun m => src m == 11) &&
      at' (.vhad 0 { vx 1 6 0 15 3 with aux := 1 }) (fun m => m.ty == 3) &&
      at' (.vcon 0 { vx 4 4 0 15 2 with aux := 0x3E }) (fun m => m.aux % 4 == 2)) = true := by
  decide +kernel

/-- The scratchpad of a core that holds nothing can be read. -/
theorem readable {s : State} {m : Cmd} {off len : Nat} (h : off % 64 = 0 ∧ off + len ≤ 2 ^ 22)
    (e : (s.core (coreOf m.slot)).spadErr = [] ∧ (s.core (coreOf m.slot)).metaErr = [] ∧ (s.core (coreOf m.slot)).spadMeta = [])
    (a : stampAllows freshMeta m.slot m.dph = true) : SpadReadable s m off len :=
  ⟨h.1, h.2, fun _ _ => ⟨sound_spad e _, fresh_allows e.2.2 a⟩⟩

theorem witness_UnitsDoTheirWork_loads :
    let v : Cmd := { cmdV (.vld 0 (vx 1 28 0 15 1)) with scal := 0x3FFC00 }
    let b : Cmd := { cmdV (.bld 0 (vx 1 28 0 15 12)) with scal := 0x3FE000 }
    let l : Cmd := { cmdA (.mlds 0 (mx 0 0 9 0 28)) 1 with scal := 0 }
    let t : Cmd := { cmdA (.mstr 0 (mx 4 2 3 3 28)) 1 with scal := 0x3FFD00 }
    SpadReadable (alone v) v v.scal.toNat 1024 ∧ SpadReadable (alone b) b b.scal.toNat 8192 ∧
      SpadReadable (first l) l l.scal.toNat 1024 ∧ SpadReadable (first t) t t.scal.toNat (t.combo.stride / t.combo.passes) ∧
      ((first t).core (coreOf (first t).me)).active.tag ≠ 15 ∧ ((first t).core (coreOf (first t).me)).active.dom = t.dom :=
  ⟨readable (by decide +kernel) (by decide +kernel) (by decide +kernel), readable (by decide +kernel) (by decide +kernel) (by decide +kernel),
    readable (by decide +kernel) (by decide +kernel) (by decide +kernel), readable (by decide +kernel) (by decide +kernel) (by decide +kernel),
    by decide +kernel, by decide +kernel⟩

theorem zero_byte {w : Nat} {b : BitVec w} (h : b = 0#w) (i : Nat) : byteOf b.toNat i = 0 := by
  subst h; simp [byteOf]

/-- The second KiB of a tile to load, and the second row of an MSTR, are still to be read. -/
theorem witness_UnitsDoTheirWork_parts :
    let l : Run := { runA (cmdA (.mlds 0 (mx 0 0 3 0 28)) 1) [] with got := 1, land := 100, plane := ⟨0, 3, 1⟩ }
    let t : Run := { runA (cmdA (.mstr 0 (mx 4 2 3 3 28)) 1) [] with got := 1, land := 100, rows := [(4, 0), (5, 0)] }
    let s (r : Run) := onCore { mrun := [r] } (slotOf [])
    Reads (s l) l ∧ l.cmd.mfn = 0x00 ∧ SpadReadable (s l) l.cmd (l.cmd.scal.toNat + 1024 * l.got) 1024 ∧
      (∀ i, i < 1024 → byteOf l.plane.bytes.toNat (1024 * l.got + i) = 0) ∧ Reads (s t) t ∧ t.cmd.mfn = 0x02 ∧
      (let part := t.cmd.combo.stride / t.cmd.combo.passes
       SpadReadable (s t) t.cmd (t.cmd.scal.toNat + part * t.got) part) ∧ ((s t).core (coreOf (s t).me)).activeErr = [] ∧
      (∀ e ∈ t.rows, e.1 = t.cmd.first + t.got / t.cmd.combo.passes → e.2 = 0) ∧ byteOf (0 : BitVec 6144).toNat 0 = 0 := by
  refine ⟨?_, by decide +kernel, readable (by decide +kernel) (by decide +kernel) (by decide +kernel), fun i _ => ?_, ?_,
    by decide +kernel, readable (by decide +kernel) (by decide +kernel) (by decide +kernel), rfl, by decide +kernel, by decide +kernel⟩
  · unfold Reads; decide +kernel
  · exact zero_byte rfl _
  · unfold Reads; decide +kernel

theorem witness_UnitsDoTheirWork_matrix :
    (∀ i ∈ [Instr.mlds 0 (mx 0 0 9 0 28), .mstr 0 (mx 4 2 3 3 28), .mzero 0 (mx 0 160 3 3 0), .mpset 0 (mx 7 14 0 0 0),
        .mpget 0 (mx 7 14 0 0 0), .ocld 0 (mx 4 2 0 0 0), .ocmp 0 (mx 4 5 0 0 0)],
      i.wellFormed = true ∧ StartsFirst (first (cmdA i 1)) (cmdA i 1)) ∧
      ∀ i ∈ [Instr.ocmp 0 (mx 2 5 0 0 0), .ocmp 0 (mx 2 6 0 0 0)],
        let s := { first (cmdA i 1) with slots := [(0, { tagged.slot 0 with keyTag := 1 })] }
        i.wellFormed = true ∧ StartsFirst s (cmdA i 1) ∧ isFloatTy (s.slot (cmdA i 1).slot).keyTag = false := by
  have h (s : State) (m : Cmd) (p : (s.core (coreOf s.me)).mq = m :: [] ∧ (s.core (coreOf s.me)).mrun = [] ∧
      (s.core (coreOf s.me)).vrun = [] ∧ coreOf m.slot = coreOf s.me ∧ Startable s m ∧ m.nullified = false ∧
      (s.slot m.slot).rowErr = [] ∧ (s.core (coreOf s.me)).activeErr = [] ∧ poisonRow s m = none) : StartsFirst s m :=
    ⟨⟨[], p.1⟩, p.2⟩
  refine ⟨fun i m => ?_, fun i m => ?_⟩
  · have : i.wellFormed = true ∧ _ := And.intro ?_ (h (first (cmdA i 1)) (cmdA i 1) ?_)
    · exact this
    · revert i; decide +kernel
    · revert i; unfold Startable; decide +kernel
  · refine ⟨?_, h _ _ ?_, ?_⟩
    · revert i; decide +kernel
    · revert i; unfold Startable; decide +kernel
    · revert i; decide +kernel

/-- The last row of a MZERO and of an MSTR of bytes is due; an MPSET is. -/
theorem witness_UnitsDoTheirWork_rows :
    let z : Run := { runA (cmdA (.mzero 0 (mx 3 1 3 3 0)) 1) [] with rows := [(3, 0)], land := 4 }
    let t : Run := { runA (cmdA (.mstr 0 (mx 4 1 7 7 28)) 1) [] with rows := [(4, 5)] }
    let p := runA (cmdA (.mpset 0 (mx 7 14 0 0 0)) 1) [.pred 2 3 5]
    let s (r : Run) := { onCore { mrun := [r] } (slotOf []) with cycle := 40 }
    RowDue (s z) z 3 0 ∧ z.cmd.mfn = 0x03 ∧ z.effs = [] ∧ RowDue (s t) t 4 5 ∧ t.cmd.mfn = 0x02 ∧ t.cmd.wf = 7 ∧ t.cmd.af = 7 ∧
      t.cmd.mx.sat = 0 ∧ t.preds = [] ∧ ((s p).core (coreOf (s p).me)).mrun = [p] ∧ p.landedAt = 0 ∧ p.fault = 0 ∧ p.rows = [] ∧
      p.land ≤ (s p).cycle ∧ p.cmd.mfn ≠ 0x00 ∧ p.cmd.nullified = false ∧ coreOf p.cmd.slot = coreOf (s p).me ∧
      Counted (s p) p.cmd.scope ∧ p.effs = [.pred 2 3 5] := by
  unfold RowDue Counted; decide +kernel

/-! ### Witnesses: what copies move -/

/-- A CPY of 64 bytes from 0x200800 to 0x300000 in queue 1, with an arrival at the barrier `bar` if that is not 0. -/
def copyB (bar : Word) : JEntry :=
  let w := encode (.cpy 0 (copyX (if bar = 0 then 0 else 2)))
  { copyA with w0 := w.1, w1 := w.2, vc := bar }

/-- It stands in slot 0's journal, and its copy unit acts; the line of its destination is logged; a barrier at 0x200000 has 64 bytes
pending. -/
def copying (e : JEntry) : State :=
  { holding .computer { slotOf [] with journal := [e] } with
    cur := { contextOf 0 .computer with q := 1 }, scopes := scopes17 1, undo := [(0, { lines := [0xC000, 0x8000] })], agenda := [.chunk 0 1],
    deep := [(0x200000, 0x20), (0x200003, 2), (0x200006, 4), (0x20000F, 2)] }

theorem eights {o : Nat} (l : o < 64) (h : o % 8 = 0) :
    o = 0 ∨ o = 8 ∨ o = 16 ∨ o = 24 ∨ o = 32 ∨ o = 40 ∨ o = 48 ∨ o = 56 := by omega

/-- Where the unit at the address leads, as a computation. -/
def leadsDeep (s : State) (x : JEntry) (k : AccKind) (addr : Word) (a : Nat) : Bool :=
  match translate s 0 x.dom addr.toNat k x.sup 0 with
  | (t, .ok p) => decide (t = s ∧ p = .deep a) && decide (transWait s 0 x.dom addr.toNat = 0)
  | _ => false

theorem leads_deep_of {s : State} {x : JEntry} {k : AccKind} {addr : Word} {a : Nat} (h : leadsDeep s x k addr a = true) :
    translate s 0 x.dom addr.toNat k x.sup 0 = (s, .ok (.deep a)) ∧ transWait s 0 x.dom addr.toNat = 0 := by
  unfold leadsDeep at h
  revert h
  generalize translate s 0 x.dom addr.toNat k x.sup 0 = r
  intro h
  obtain ⟨t, _ | p⟩ := r
  · cases h
  · simp only [Bool.and_eq_true, decide_eq_true_eq] at h
    obtain ⟨⟨rfl, rfl⟩, w⟩ := h
    exact ⟨rfl, w⟩

theorem leads_to {s : State} {x : JEntry} {k : AccKind} {addr : Word} {a : Nat}
    (h : (leadsDeep s x k addr a && (tlbFind (s.core 0).utlb x.dom addr.toNat).isSome) = true) : LeadsTo s 0 x k addr (.deep a) := by
  simp only [Bool.and_eq_true] at h
  exact ⟨(leads_deep_of h.1).1, (leads_deep_of h.1).2, .inr h.2⟩

theorem usable {s : State} {a : Nat} (m : a % 8 = 0) (l : a < 2 ^ 34) : Usable s (.deep a) :=
  ⟨nofun, m, nofun, nofun, fun b q => by cases q; exact l⟩

theorem copy_at {s : State} {e : JEntry} {k : AccKind} {addr : Nat → Word} {len : Nat} (n : Nat) {base : Nat} (q : len = n)
    (h : (List.range n).all (fun o => o % 8 != 0 || (leadsDeep s e k (addr o) (base + o) &&
      (tlbFind (s.core 0).utlb e.dom (addr o).toNat).isSome)) = true) (b : base % 8 = 0 ∧ base + n ≤ 2 ^ 34) :
    CopyAt s 0 e k addr len (fun o => .deep (base + o)) := by
  intro o l m
  subst q
  have g := List.all_eq_true.mp h o (List.mem_range.mpr l)
  simp only [m, bne_self_eq_false, Bool.false_or] at g
  exact ⟨leads_to g, usable (by omega) (by omega)⟩

theorem dest_at {s : State} {k : Nat} {e : JEntry} {p : Nat → Place} (n : e.homes = []) (h : CopyAt s k e .write e.dst e.len p) :
    DestAt s k e p :=
  fun o l m => ⟨.inr ⟨by rw [n]; rfl, (h o l m).1⟩, (h o l m).2⟩

theorem copy_lines (x : JEntry) (o : Nat) : Sound (copying x) (.deep (0x300000 + o)) := sound_deep (by exact ⟨rfl, rfl, rfl⟩) _

theorem witness_UnitsDoTheirWork_moves :
    let e := copyB 0
    let r : JEntry := { copyB 0 with started := true, running := true, marked := 64 }
    IsCopy e ∧ e.flips = 0 ∧ e.len = 64 ∧ CopyAt (copying e) 0 e .write e.dst e.len (fun o => .deep (0x300000 + o)) ∧
      copyQueue (copying e) (coreOf (copying e).me) (copying e).cur.q.toNat = [(0, e)] ∧
      copyFlight (copying e) (coreOf (copying e).me) (copying e).cur.q.toNat = [] ∧ e.pushed < (copying e).cycle ∧
      e.next ≤ (copying e).cycle ∧ e.started = false ∧ e.chunks = 0 ∧ waitToken e.w1 = none ∧
      (∀ o, o < e.len → o % 8 = 0 → Place.stamped (.deep (0x300000 + o)) = true →
        Sound (copying e) (.deep (0x300000 + o)) ∧ stampAllows (metaAt (copying e) (.deep (0x300000 + o))) 0 e.dph = true ∧
          ∀ j q, lineStreams ((copying e).role j q) (.deep (0x300000 + o)) = []) ∧
      (copying r).powered = true ∧ (copying r).agenda = .chunk 0 1 :: [] ∧ copyFlight (copying r) 0 1 = [(0, r)] ∧ r.q = 1 ∧
      r.next ≤ (copying r).cycle ∧ r.stop = false ∧ 4096 * r.chunks < r.len ∧
      DestAt (copying r) 0 r (fun o => .deep (0x300000 + o)) ∧
      CopyAt (copying r) 0 r .read (fun i => r.src (0 + i)) 64 (fun o => .deep (0x200800 + o)) ∧
      (∀ i, i < 64 → i % 8 = 0 → Sound (copying r) (.deep (0x200800 + i)) ∧ sourceAllowed 0 r (copying r) (.deep (0x200800 + i)) = true) ∧
      (∀ i, i < 64 → i % 8 = 0 → ∀ a, Place.deep (0x300000 + i) = .deep a → undoFirst (copying r) a = false) ∧
      (∀ i j, i < 64 → j < 64 → i % 8 = 0 → j % 8 = 0 → i ≠ j → Place.deep (0x300000 + (0 + i)) ≠ .deep (0x300000 + (0 + j))) ∧
      (∀ c, ((copying r).core c).einj.getLsbD 0 = false) := by
  refine ⟨⟨by decide, nofun, by decide +kernel, by decide +kernel⟩, rfl, by decide +kernel,
    copy_at 64 (by decide +kernel) (by decide +kernel) (by decide),
    by decide +kernel, by decide +kernel, by decide, by decide, rfl, rfl, by decide +kernel, fun o l m _ => ⟨copy_lines _ o, ?_, fun j q => ?_⟩,
    rfl, rfl, by decide +kernel, by decide +kernel, by decide, rfl, by decide +kernel,
    dest_at rfl (copy_at 64 (by decide +kernel) (by decide +kernel) (by decide)), copy_at 64 rfl (by decide +kernel) (by decide),
      fun i l m => ⟨?_, ?_⟩,
    fun i l m a q => ?_, fun i j _ _ _ _ d q => d (by injection q; omega), unarmed (by decide +kernel)⟩
  · rcases eights (by exact l) m with h | h | h | h | h | h | h | h <;> subst h <;> decide +kernel
  · by_cases h : j = 0
    · subst h; cases q <;> rfl
    · exact unraced (s := seat .loader []) (x := { slotOf [] with journal := [copyB 0] }) _ rfl rfl j q h
  · exact sound_deep (by exact ⟨rfl, rfl, rfl⟩) _
  · rcases eights l m with h | h | h | h | h | h | h | h <;> subst h <;> decide +kernel
  · cases q
    rcases eights l m with h | h | h | h | h | h | h | h <;> subst h <;> decide +kernel

/-- The copy settles, with its barrier and without one. -/
theorem witness_UnitsDoTheirWork_settles :
    let c (bar : Word) : JEntry := { copyB bar with started := true, finished := true, marked := 64, chunks := 1 }
    let e := c 0
    let f := c 0x200000
    let b := barOf (rawRead (copying f) placeD 16)
    (0 = (copying e).me ∧ e.finished = true ∧ e.discarded = false ∧ e.marked = e.len ∧ e.len ≤ 4096 * e.chunks ∧ e.err = 0 ∧
        Counted (copying e) e.scope ∧ monitorCount (copying e) = 0 ∧ e.vc = 0) ∧
      DestAt (copying e) 0 e (fun o => .deep (0x300000 + o)) ∧ DestAt (copying f) 0 f (fun o => .deep (0x300000 + o)) ∧ f.vc ≠ 0 ∧ f.arv = true ∧
      translate (copying f) 0 f.dom f.vc.toNat .write f.sup 0 = (copying f, .ok placeD) ∧
      (tlbFind ((copying f).core 0).utlb f.dom f.vc.toNat).isSome = true ∧ Sys2Proof.Said.Exists placeD ∧ AlignedAt placeD 16 ∧
      placeD.stamped = true ∧ Plainly (copying f) (copying f) placeD ∧ Sound (copying f) (placeD.plus 8) ∧
      (∀ o, o < f.len → o % 8 = 0 → Place.line (.deep (0x300000 + o)) ≠ placeD.line) ∧ b.init = true ∧ f.len ≤ b.pbytes ∧ 1 ≤ b.parv := by
  refine ⟨?_, dest_at rfl (copy_at 64 (by decide +kernel) (by decide +kernel) (by decide)),
    dest_at rfl (copy_at 64 (by decide +kernel) (by decide +kernel) (by decide)), by decide, by decide +kernel, ?_,
    by decide +kernel, nofun, rfl, rfl,
    by refine ⟨?_, ?_, ?_, ?_, nofun, fun a q => by cases q; decide⟩ <;> decide +kernel, by decide +kernel,
    fun o l m => ?_, by decide +kernel, by decide +kernel, by decide +kernel⟩
  · unfold Counted; decide +kernel
  · exact (leads_deep_of (x := { copyB 0x200000 with started := true, finished := true, marked := 64, chunks := 1 })
      (by decide +kernel)).1
  · rcases eights (by exact l) m with h | h | h | h | h | h | h | h <;> subst h <;> decide +kernel

/-! ### Witnesses: segments and frames -/

/-- The header of a WEIGHTS segment of domain 1 with a payload of 512 bytes, all slices absent, and its HCRC. -/
def header1 : BitVec 512 := BitVec.ofNat 512 (0x100 + 512 * 2 ^ 96 + 4032464445 * 2 ^ 480)

/-- A segment of ring frame 4. -/
def segA (status : SegStatus) (begun : Bool) (buf : Option Nat) (waiting : Bool) : Seg :=
  ⟨4, header1, [], status, 10, begun, buf, waiting, [(1, 0, 0)], []⟩

/-- The three buffers in these states. -/
def buffered (a b c : BufState) (segs : List Seg) (n : Nat) : State :=
  { seat .loader [] with segs := segs, bufs := [(0, { st := a }), (1, { st := b }), (2, { st := c })], cycle := n }

/-- A slot arrives; a decode is due with a free buffer; with none free, behind a READY segment and alone; behind four that wait. -/
theorem witness_SegmentsAndFrames_segments :
    let s := { seat .loader [] with cycle := 522, ring := { flits := 114688, frameStart := 10 } }
    let g := segA .weights false none false
    let e := segA .empty false none false
    let o (n : Nat) : Seg := { segA .weights true (some 1) true with frame := n }
    let x := buffered .cur .held .free [g] 10
    let y := buffered .cur .ready .held [o 3, g] 10
    let z := buffered .cur .held .fill [g] 10
    let w := buffered .cur .ready .ready [o 0, o 1, o 2, o 3, e] 10
    ringStopped s = false ∧ slotFlits ≤ s.ring.flits ∧ s.ring.frameStart + 512 ≤ s.cycle ∧ s.ring.refilled = [] ∧
      PlanSound s [s.ring.planIndex] ∧
      monitorCount s = 0 ∧
      x.segs = [g] ∧ DecodeDue x g ∧ (x.buf 2).st = .free ∧ (∀ j, j < 2 → (x.buf j).st ≠ .free) ∧
      (o 3).frame ≠ g.frame ∧ DecodeDue y g ∧ NoneFree y ∧ (y.buf 1).st = .ready ∧ NoEntries { y with segs := [g] } (o 3) ∧
      DecodeDue z g ∧ NoneFree z ∧ g.buf = none ∧ NoEntries { z with segs := [] } g ∧
      w.segs = [o 0, o 1, o 2, o 3, e] ∧ [0, 1, 2, 3, e.frame].Nodup ∧ DecodeDue w e ∧ e.status ≠ .weights ∧
      (∀ q ∈ [o 0, o 1, o 2, o 3], q.begun = true ∧ q.waiting = true) ∧ (o 0).status = .weights ∧ (o 0).buf = some 1 ∧
      NoEntries { w with segs := [o 1, o 2, o 3, { e with begun := true }] } (o 0) := by
  intro s g e o x y z w
  exact ⟨by decide, by decide, by decide, rfl, fun o _ => sound_deep (by exact ⟨rfl, rfl, rfl⟩) _,
    by unfold DecodeDue NoneFree NoEntries; decide +kernel⟩

/-- A decode that runs without a buffer, one in its first and one in its last cycle, one that has failed. -/
theorem witness_SegmentsAndFrames_decodes :
    let g := segA .weights true (some 1) false
    let f : Seg := { g with slices := [([], false)] }
    let s (q : Seg) (n : Nat) := buffered .cur .fill .free [q] n
    (s (segA .lost true none false) 458).segs = [segA .lost true none false] ∧ 10 + 448 ≤ (s g 458).cycle ∧
      (s g 457).cycle < g.decodeAt + 448 ∧ g.decodeAt + 448 ≤ (s g 458).cycle ∧ g.decodes = true ∧ f.decodes = false ∧
      f.begun = true ∧ f.waiting = false ∧ f.buf = some 1 := by
  decide +kernel

/-- Nothing runs; an EMPTY segment is the oldest, then a WEIGHTS segment behind a current buffer without holds and with one. -/
theorem witness_SegmentsAndFrames_current :
    let g := segA .empty true none true
    let h := segA .weights true (some 1) true
    let s := { seat .loader [] with segs := [g], holdsVcc := [0] }
    let y := { buffered .cur .ready .free [h] 10 with holdsVcc := [0] }
    let z : State := { y with bufs := [(0, { st := .cur, holds := 255 }), (1, { st := .ready })] }
    let x := { seat .loader [] with
      frame := { running := true, no := 1, start := 0, entries := [⟨3, 512, 0, 8, 0x1000, 0⟩] }, vcc := 511, ticks := true }
    s.segs = g :: [] ∧ AwaitsFrame s ∧ (∀ n, n < 3 → (s.buf n).st ≠ .cur) ∧ y.segs = h :: [] ∧ AwaitsFrame y ∧ h.status = .weights ∧
      h.buf = some 1 ∧ (y.buf 1).st = .ready ∧ y.parks = [] ∧ hGen h.header = bgen y (hDomain h.header) ∧ (y.buf 0).st = .cur ∧
      (∀ j, j < 3 → j ≠ 0 → (y.buf j).st ≠ .cur) ∧ (y.buf 0).holds = 0 ∧ AwaitsFrame z ∧ (z.buf 0).holds ≠ 0 ∧
      x.frame.running = true ∧ x.frame.no ≠ 0 ∧ x.frame.start + 511 ≤ x.vcc ∧ ∀ e ∈ x.frame.entries, 511 < e.tick := by
  have w (s : State) (a : s.frame.running = false) (b : s.holdsVcc = [0]) (c : s.clusters = []) : AwaitsFrame s :=
    ⟨a, b, fun k => by simp [State.cluster, c, Sp.get]⟩
  exact ⟨rfl, w _ rfl rfl rfl, by decide +kernel, rfl, w _ rfl rfl rfl, rfl, rfl, by decide +kernel, rfl, by decide +kernel, by decide +kernel,
    by decide +kernel, by decide +kernel, w _ rfl rfl rfl, by decide +kernel, rfl, by decide, by decide, by decide⟩

/-- The tables of domain 1, which map its first 32 MiB at the same addresses: the root at 0x80000, below it the table at 0x100000. -/
def tables : Mem := [(0x80002, 0x10), (0x80007, 0x80), (0x100000, 0x60), (0x100007, 0xC0)]

/-- An entry of slot 0 that is due in tick 9 of the running frame, with the template at 0x1000. -/
def entryA : TEntry := ⟨3, 9, 0, 8, 0x1000, 0⟩
def releasing (mismatch : Option Word) (slip : Option Nat) : State :=
  { seat .loader [] with
    slots := [], deep := recordAt 1 0 0 ++ tables, mgmt := [(0x880, 0x80000)], scopes := scopes17 1, vcc := 12, slipping := slip,
    undo := [(0, { lines := [0x40] })],
    frame := { running := true, no := 7, start := 3, header := header1, entries := [entryA], mismatch := mismatch } }

/-- Where its template leads. -/
def templateOf (s : State) : State × Option RecRef := templateRef s (hDomain s.frame.header) entryA.tmpl

theorem witness_SegmentsAndFrames_release :
    let s := releasing none none
    let x := releasing none (some 5)
    let y := { x with slipping := none, holdsVcc := x.holdsVcc.erase 1 }
    s.frame.running = true ∧ s.slipping = none ∧ Releasable s entryA ∧ (templateOf s).2 = some refA ∧
      Takable (templateOf s).1 0x1000 ∧ RecQuiet (templateOf s).1 0x1000 ∧ x.slipping = some 5 ∧ Releasable x entryA ∧
      x.mreg 0x230 = 0 ∧ (templateOf y).2 = some refA ∧ Takable (templateOf y).1 0x1000 ∧ RecQuiet (templateOf y).1 0x1000 := by
  refine ⟨rfl, rfl, by unfold Releasable; decide +kernel, ?_, by unfold Takable; decide +kernel, rec_quiet (by decide +kernel), rfl,
    by unfold Releasable; decide +kernel, ?_, ?_, by unfold Takable; decide +kernel,
    rec_quiet (by decide +kernel)⟩ <;> decide +kernel

/-- Late accesses hold the VCC, and none does; the frame counter stands at 5. -/
theorem witness_SegmentsAndFrames :
    let s := { seat .loader [] with late := true }
    let x := { seat .loader [] with holdsVcc := [0, 2] }
    2 ∉ s.holdsVcc ∧ s.late = true ∧ x.holdsVcc = [0] ++ 2 :: [] ∧ 2 ∉ [0] ∧ x.late = false ∧
      0 ≤ ((5 : BitVec 64).extractLsb' 0 48 - x.frameCtr).toInt := by
  decide +kernel

/-! ### Witnesses: the ring -/

/-- The package stands at position 1 of 3 and acts for position `pos` and port `p`. -/
def ringed (p : Port) (pos : BitVec 8) (r : Ring) : State :=
  { seat .loader [] with
    mgmt := [(0, 4), (0x80, 0x301)], cur := { contextOf 0 .loader with port := p, pos := pos }, ring := r, cycle := 1200000000 }

theorem no_frame_mode (p : Port) (pos : BitVec 8) (r : Ring) (d : Nat) : (ringed p pos r).frameMode d = false := by
  have h : (ringed p pos r).domWord d 3 = 0 := by
    simp only [State.domWord, State.mreg, ringed, Sp.get]
    rw [if_neg (by omega), if_neg (by omega)]
  rw [State.frameMode, h]
  rfl

/-- Nothing disturbs a write in a state whose parts say so. -/
theorem quiet {s : State} (h : monitorCount s = 0 ∧ s.deepErr = [] ∧ s.deepMetaErr = [] ∧
    s.cores.all (fun e => !e.2.einj.getLsbD 0) = true ∧ s.stalled = []) : AllQuiet s :=
  ⟨h.1, h.2.1, h.2.2.1, unarmed h.2.2.2.1, h.2.2.2.2⟩

/-- A flit in sequence at U, one at D, one of a slot that no place takes. -/
theorem witness_RingSteps_flits :
    let s := ringed .up 1 {}
    let x := ringed .down 1 {}
    let y := ringed .up 1 { flits := 1 }
    ringStopped s = false ∧ (s.ring.link s.cur.port).trained = true ∧ s.cur.port = .up ∧ (0 : BitVec 16) = (s.ring.link .up).nextRecv ∧
      s.ring.flits < slotFlits ∧ crossing s = some 0 ∧ AllQuiet s ∧ undoFirst s (ringAddr s 0 s.ring.flits) = false ∧
      (s.ring.link s.cur.port).discarding = false ∧ ringStopped x = false ∧ (x.ring.link x.cur.port).trained = true ∧
      x.cur.port = .down ∧ (0 : BitVec 16) = (x.ring.link .down).nextRecv ∧ ringStopped y = false ∧
      (y.ring.link y.cur.port).trained = true ∧ (0 : BitVec 16) = (y.ring.link .up).nextRecv ∧ y.ring.flits < slotFlits ∧
      crossing y = none := by
  refine ⟨rfl, ?_, rfl, ?_, ?_, ?_, quiet (by decide +kernel), ?_, ?_, rfl, ?_, rfl, ?_, rfl, ?_, ?_, ?_, ?_⟩ <;> decide +kernel

/-- A ring that stands still; links that train again, across a failed package too; a release that awaits its links. -/
theorem witness_RingSteps_training :
    let s := ringed .up 1 { paused := true }
    let u := { ringed .up 1 { up := { retrainedOver := true } } with anyHeader := true }
    let d := ringed .down 1 {}
    let o := { ringed .down 1 { down := { retrainedOver := true } } with delays := [2] }
    let x := ringed .up 0 {}
    let r (c0 : Nat) (down : Link) := ringed .up 1 { releasing := some (1, c0), down := down }
    let q (c0 : Nat) := ringed .up 0 { releasing := some (0, c0), failed := [0] }
    ringStopped s = true ∧ x.cur.pos.toNat ≠ x.ringPos ∧ x.ring.releasing = none ∧ u.ring.releasing = none ∧
      u.cur.pos.toNat = u.ringPos ∧ u.cur.port = .up ∧ u.ring.up.retrainedOver = true ∧ u.anyHeader = true ∧
      d.ring.releasing = none ∧ d.cur.pos.toNat = d.ringPos ∧ d.cur.port = .down ∧ d.ring.down.retrainedOver = false ∧
      o.ring.releasing = none ∧ o.cur.pos.toNat = o.ringPos ∧ o.cur.port = .down ∧ o.ring.down.retrainedOver = true ∧
      o.delays = 2 :: [] ∧ PlanSound o (lastPlans o o.ring.sentPlan 2) ∧
      (∀ x ∈ [r 980000001 {}, r 980000000 {}, r 980000001 { trained := false }],
        x.ring.releasing.map (·.1) = some x.ringPos ∧ x.cur.pos.toNat = x.ringPos ∧ x.cur.port = .up) ∧
      (r 980000001 {}).cycle < 980000001 + 220000000 ∧ (r 980000001 {}).ring.down.trained = true ∧
      980000000 + 220000000 ≤ (r 980000000 {}).cycle ∧ (r 980000001 { trained := false }).ring.down.trained = false ∧
      (∀ x ∈ [q 980000001, q 980000000], x.ring.releasing.map (·.1) = some 0 ∧ 0 ≠ x.ringPos ∧ x.cur.pos.toNat = 0) ∧
      (q 980000001).cycle < 980000001 + 220000000 ∧ 980000000 + 220000000 ≤ (q 980000000).cycle := by
  refine ⟨?_, ?_, rfl, rfl, ?_, rfl, rfl, rfl, rfl, ?_, rfl, rfl, rfl, ?_, rfl, rfl, rfl, fun _ _ => sound_deep (by exact ⟨rfl, rfl, rfl⟩) _,
    ?_, ?_, rfl, ?_, rfl, ?_, ?_, ?_⟩ <;> decide +kernel

/-- A package that fails beside this one; a graft to release here, and another's; a release whose links do not train in time. -/
theorem witness_RingSteps_grafts :
    let s := ringed .up 1 { latched := true, former := 0x301 }
    let x := ringed .up 0 { failed := [0] }
    let z := ringed .down 0 { releasing := some (1, 5) }
    let w := ringed .down 0 { releasing := some (2, 5) }
    let far := { ringed .down 3 {} with mgmt := [(0, 4), (0x80, 0x401)] }
    s.cur.pos.toNat = s.ringPos ∧ field (s.mreg 0) 0 4 = 4 ∧ s.ring.latched = true ∧ s.mreg 0x80 = s.ring.former ∧
      (∀ d, s.frameMode d = false) ∧ s.ring.releasing = none ∧ x.cur.pos.toNat ≠ x.ringPos ∧ x.cur.pos.toNat ∈ x.ring.failed ∧
      x.ring.releasing = none ∧ nextTo x x.cur.pos.toNat = true ∧ neighbour (ringed .up 0 {}) .up = x.cur.pos.toNat ∧
      z.ring.releasing = some (1, 5) ∧ 1 = z.ringPos ∧ 5 + 220000000 ≤ z.cycle ∧ w.ring.releasing = some (2, 5) ∧ 2 ≠ w.ringPos ∧
      nextTo w 2 = true ∧ far.cur.pos.toNat ≠ far.ringPos ∧ (∀ p, neighbour far p ≠ far.cur.pos.toNat) := by
  refine ⟨?_, ?_, rfl, ?_, no_frame_mode _ _ _, rfl, ?_, ?_, rfl, ?_, ?_, rfl, ?_, ?_, rfl, ?_, ?_, ?_,
    fun p => by cases p <;> decide +kernel⟩ <;> decide +kernel

/-- A heartbeat that is due, one from the neighbour, a silent and an untrained link; a slot to forward, whole and in part. -/
theorem witness_RingSteps :
    let s := ringed .down 1 { heartbeat := 5, down := { silentSince := 100000000 } }
    let n := ringed .up 0 {}
    let u := ringed .down 0 { down := { silentSince := 1100000000, trained := false, untrainedSince := 100000000 } }
    let v := ringed .down 0 { down := { silentSince := 100000001, trained := false, untrainedSince := 100000001 } }
    let z := ringed .down 0 { store := [⟨3, 0, 4, header1, []⟩] }
    let p := { z with delays := [7] }
    s.cur.pos.toNat = s.ringPos ∧ s.ring.heartbeat + 1100000 ≤ s.cycle ∧ n.cur.pos.toNat ≠ n.ringPos ∧
      neighbour n .up = n.cur.pos.toNat ∧ neighbour s s.cur.port ≠ s.ringPos ∧ s.ring.latched = false ∧ s.ring.releasing = none ∧
      neighbour u u.cur.port ≠ u.ringPos ∧ u.ring.latched = false ∧ u.ring.releasing = none ∧
      ¬ ((v.ring.link v.cur.port).silentSince + 1100000000 ≤ v.cycle ∨ ((v.ring.link v.cur.port).trained = false ∧
        (v.ring.link v.cur.port).untrainedSince + 1100000000 ≤ v.cycle)) ∧
      (s.ring.link s.cur.port).silentSince + 1100000000 ≤ s.cycle ∧
      (u.ring.link u.cur.port).trained = false ∧ (u.ring.link u.cur.port).untrainedSince + 1100000000 ≤ u.cycle ∧
      z.ring.store = ⟨3, 0, 4, header1, []⟩ :: [] ∧ ringStopped z = false ∧ z.ring.down.trained = true ∧ z.delays = [] ∧
      z.ring.down.acked ≤ slotFlits ∧ z.ring.down.sent ≤ slotFlits ∧ p.delays = 7 :: [] ∧ p.ring.down.acked ≤ slotFlits - 7 ∧
      p.ring.down.sent ≤ p.ring.down.acked + 1024 := by
  decide +kernel

/-- The image of domain 1 stands at 0x40 of the host: its header is that of segment 0 in generation 0. -/
def imageBase (r : Ring) (w : Swap) : State :=
  { ringed .up 0 r with
    mgmt := [(0x8C0, 0x40), (0x8C8, 0x40)], host := Mem.writeNat [] 0x40 64 header1.toNat, swap := w,
    deep := [(5, 1)] }

/-- The image of a refill is that of the slot, which stands in the ring store or has gone on; or it is not. -/
theorem witness_RingSteps_refill :
    let lost : BitVec 512 := 0x102
    let bad : BitVec 512 := 0x10102
    let s := imageBase { refills := [lost] } {}
    let y := imageBase { refills := [lost], store := [⟨3, 0, 4, lost, []⟩] } {}
    let x := imageBase { refills := [bad] } {}
    s.ring.refills = lost :: [] ∧ y.ring.refills = lost :: [] ∧
      imageOk (imageSlot s (s.domWord (hDomain lost) 8) (hSegidx lost)).1 lost (hGen lost) = true ∧
      lostSlots s (imageSlot s (s.domWord (hDomain lost) 8) (hSegidx lost)).1 = [] ∧
      lostSlots y (imageSlot y (y.domWord (hDomain lost) 8) (hSegidx lost)).1 = [⟨3, 0, 4, lost, []⟩] ∧
      x.ring.refills = bad :: [] ∧ imageOk (imageSlot x (x.domWord (hDomain bad) 8) (hSegidx bad)).1 bad (hGen bad) = false := by
  have e0 : (imageBase {} {}).domWord (hDomain 0x102) 8 = 0x40 := by decide +kernel
  have e (r : Ring) : (imageBase r {}).domWord (hDomain 0x102) 8 = 0x40 := e0
  have f : (imageBase { refills := [0x10102] } {}).domWord (hDomain 0x10102) 8 = 0x40 := by decide +kernel
  have g0 : (imageSlot (imageBase {} {}) 0x40 (hSegidx 0x102)).1 = header1 := by decide +kernel
  have g (r : Ring) : (imageSlot (imageBase r {}) 0x40 (hSegidx 0x102)).1 = header1 := g0
  have h : (imageSlot (imageBase { refills := [0x10102] } {}) 0x40 (hSegidx 0x10102)).1 = header1 := by decide +kernel
  refine ⟨rfl, rfl, ?_, ?_, ?_, rfl, ?_⟩
  · rw [e, g]; decide +kernel
  · rw [e, g]; decide +kernel
  · rw [e, g]; decide +kernel
  · rw [f, h]; decide +kernel

/-- A swap to begin, one that pauses where it holds no slot, one that replaces a slot. -/
theorem witness_RingSteps_swap :
    let x : RingSlot := ⟨3, 0, 4, header1, []⟩
    let s := imageBase {} { dom := 1 }
    let t := { imageBase { frameNo := 9 } { dom := 1, pend := true, since := 9 } with deep := [] }
    let z := { imageBase { store := [x] } { dom := 1, pend := true, source := 0x40 } with deep := [] }
    s.swap.pend = false ∧ t.swap.pend = true ∧ t.swap.paused = false ∧ t.ring.store = [] ∧ t.ringPos = 0 ∧
      t.swap.since + planLen t ≤ t.ring.frameNo ∧ z.swap.pend = true ∧ z.swap.paused = false ∧ z.ring.store = [x] ∧
      z.swap.since + planLen z ≤ z.ring.frameNo ∧ hKind x.header = 0 ∧ hDomain x.header = z.swap.dom ∧ headerValid x.header = true ∧
      imageOk (imageSlot z (BitVec.ofNat 64 (field z.swap.source 0 48)) (hSegidx x.header)).1 x.header
        (field z.swap.source 48 16) = true := by
  decide +kernel

/-! ### Witnesses: the host's side and the launches -/

/-- The undo region of die 0 needs no logging. -/
theorem logged {s : State} (h : s.ringStoreMiB 0 = 1152) (o n : Nat) (l : o + n ≤ 2 ^ 28) : Logged s (0xA8000000 + o) n :=
  fun i b => by rw [Nat.add_assoc]; exact undo_region h (by omega)

/-- Another package's store and atomic at 0xA8000040, its load. -/
theorem witness_HostAndNeighbours_remote :
    let s := seat .loader []
    let acc (kind : BitVec 2) (w : BitVec 2) : RemoteAccess := ⟨kind, 0xA8000040, w, 11, 5, 0⟩
    AllQuiet s ∧ (acc 1 3).pa.toNat / 2 ^ (acc 1 3).w.toNat * 2 ^ (acc 1 3).w.toNat = 0xA8000000 + 0x40 ∧
      Logged s (0xA8000000 + 0x40) (2 ^ (acc 1 3).w.toNat) ∧ Sound s (.deep (0xA8000000 + 0x40)) ∧ (acc 2 3).fn.toNat < 12 ∧
        2 ^ (acc 2 3).w.toNat ∈ [4, 8] ∧
      2 ^ (acc 2 2).w.toNat ∈ [4, 8] :=
  ⟨quiet (by decide +kernel), by decide, logged (by decide +kernel) _ _ (by decide), by decide +kernel, by decide, by decide, by decide⟩

/-- An address that a walk translates, one that it does not, one in the scratchpad window and one beyond it. -/
theorem witness_HostAndNeighbours_walk :
    let s := { seat .loader [] with cores := [], deep := tables, mgmt := [(0x880, 0x80000)] }
    WalkQuiet s (coreOf s.me) (s.slot s.me).domain 0x1000 ∧ tlbFind (s.core (coreOf s.me)).utlb (s.slot s.me).domain 0x1000 = none ∧
      tlbFind (s.cluster (clusterOf s.me)).tlb (s.slot s.me).domain 0x1000 = none ∧
      (lookup s (coreOf s.me) (s.slot s.me).domain 0x1000 s.me).2 = .ok ⟨1, 0, 25, 0xC000000000000060, 0⟩ ∧
      (lookup s (coreOf s.me) (s.slot s.me).domain 0x2000000 s.me).2 = .error 2 ∧
      (0xFF000000001000 : BitVec 56).toNat / 2 ^ 48 = 0xFF ∧ inWindow (0xFF000000001000 : BitVec 56).toNat = true ∧
      (0xFF000000800000 : BitVec 56).toNat / 2 ^ 48 = 0xFF ∧ inWindow (0xFF000000800000 : BitVec 56).toNat = false := by
  exact ⟨⟨by decide +kernel, nofun⟩, rfl, rfl, by rfl, by rfl, by decide, by decide, by decide, by decide⟩

/-- The table of 1 block at 0xA8000100, whose entry is valid for domain 1, with a count of references below its end. -/
theorem witness_HostAndNeighbours_block :
    let s := { seat .loader [] with
      deep := [(0xA8000100 + 12, 3), (0xA8000100 + 14, 0x81)], mgmt := [(0x248, 0xA8000100), (0x250, 1)] }
    AllQuiet s ∧ BlockStands s 1 0 ∧ secondStage s 0 = 0xA8000000 + 0x100 ∧ Logged s (0xA8000000 + 0x100) 16 ∧
      Counts (blockEntry s 0) 1 4 ∧ Counts (blockEntry s 0) 2 2 := by
  refine ⟨quiet (by decide +kernel), by unfold BlockStands; decide +kernel, by decide +kernel, logged (by decide +kernel) _ _ (by decide), ?_⟩
  unfold Counts; decide +kernel

/-- The key-value command `i` of slot 0 in flight in queue 1, from 0x300000 its table: entry 0 names block 0 at 0x400000, of 512 bytes. -/
def kvOf (i : Instr) (vb : Word) : JEntry :=
  { copyA with w0 := (encode i).1, w1 := (encode i).2, vd := 0, va := 0x300000, vb := vb, started := true, running := true }
def kving (e : JEntry) : State :=
  { holding .computer { slotOf [] with journal := [e] } with
    undo := [(0, { lines := [0xC000, 0xC020, 0x10000] })], mgmt := [(0x248, 0xA8000000), (0x250, 1)],
    deep := [(0x300007, 0x80), (0xA8000002, 0x40), (0xA8000009, 2), (0xA800000C, 3), (0xA800000E, 0x81)] }

theorem own_due {e : JEntry} {c q : Nat}
    (h : copyFlight (kving e) c q = [(0, e)] ∧ ((kving e).slot 0).journal = [e] ∧ e.next ≤ (kving e).cycle ∧ e.stop = false ∧ e.err = 0) :
    OwnDue (kving e) c q 0 e := h

/-- Table entry 0 of the command leads to 0x300000 and names block 0. -/
theorem table_names {e : JEntry} {k : AccKind} (d : e.dom = 1) {j : Nat}
    (h : (leadsDeep (kving e) e k (e.va + BitVec.ofNat 64 (8 * j)) 0x300000 &&
      (tlbFind ((kving e).core 0).utlb e.dom (e.va + BitVec.ofNat 64 (8 * j)).toNat).isSome) = true)
    (v : rawRead (kving e) (.deep 0x300000) 8 = 2 ^ 63) (r : (kving e).ringPos = 0)
    (b : BlockStands (kving e) 1 0) : TableNames (kving e) 0 e j k 0x300000 0 := by
  refine ⟨leads_to h, by decide, by decide, sound_deep ⟨rfl, rfl, rfl⟩ _, ?_⟩
  rw [v, r, d]
  exact ⟨rfl, rfl, rfl, rfl, b⟩

theorem block_stands (e : JEntry) : BlockStands (kving e) 1 0 :=
  have h : BlockStands (kving copyA) 1 0 := by unfold BlockStands; decide +kernel
  h

/-- A KVPUT that retains and one that releases its one entry. -/
theorem witness_HostAndNeighbours_counts :
    let r := kvOf (.kvputRetain 0 (copyX 4)) 1
    let d := kvOf (.kvputRelease 0 (copyX 8)) 64
    OwnDue (kving r) 0 1 0 r ∧ AllQuiet (kving r) ∧ r.fn = 3 ∧ r.chunks < kvEntries r ∧ r.kvMode = 1 ∧
      TableNames (kving r) 0 r (r.vd.toNat + r.chunks) .read 0x300000 0 ∧ Counts (blockEntry (kving r) 0) r.kvMode 4 ∧
      secondStage (kving r) 0 = 0xA8000000 + 0 ∧ Logged (kving r) (0xA8000000 + 0) 16 ∧ Logged (kving r) 0x300000 8 ∧
      secondStage (kving r) 0 / 64 ≠ 0x300000 / 64 ∧
      OwnDue (kving d) 0 1 0 d ∧ AllQuiet (kving d) ∧ d.fn = 3 ∧ d.chunks < kvEntries d ∧ d.kvMode = 2 ∧
      TableNames (kving d) 0 d (d.vd.toNat + d.chunks) .write 0x300000 0 ∧ Counts (blockEntry (kving d) 0) d.kvMode 2 := by
  refine ⟨own_due (by decide +kernel), quiet (by decide +kernel), ?_, ?_, ?_,
    table_names rfl (by decide +kernel) (by decide +kernel) rfl (block_stands _), by unfold Counts; decide +kernel, ?_,
    logged (by decide +kernel) _ _ (by decide), by unfold Logged; decide +kernel, ?_, own_due (by decide +kernel), quiet (by decide +kernel),
    ?_, ?_, ?_, table_names rfl (by decide +kernel) (by decide +kernel) rfl (block_stands _), by unfold Counts; decide +kernel⟩ <;>
    decide +kernel

/-- A KVGET of token 0 to 0x300800 and a KVPUT from there. -/
theorem witness_HostAndNeighbours_moves :
    let g := { kvOf (.kvget 0 (copyX 0)) 0 with vd := 0x300800 }
    let p := { kvOf (.kvputStore 0 (copyX 0)) 0 with vd := 0x300800 }
    let far (o : Nat) : Place := .deep (0x400000 + o)
    let dst (o : Nat) : Place := .deep (0x300800 + o)
    OwnDue (kving g) 0 1 0 g ∧ AllQuiet (kving g) ∧ g.chunks = 0 ∧ g.first = 0 ∧ g.vb.toNat % 64 + g.kvCount ≤ 64 ∧ g.fn = 2 ∧
      TableNames (kving g) 0 g (g.vb.toNat / 64) .read 0x300000 0 ∧ kvLen (blockEntry (kving g) 0) = 512 ∧ g.kvCount = 1 ∧
      blockBase (blockEntry (kving g) 0) = .deep 0x400000 ∧
      (∀ o, o < 8 → o % 8 = 0 → Usable (kving g) (far o) ∧ Sound (kving g) (far o) ∧ Sound (kving g) (dst o)) ∧
      (∀ o o', o < 8 → o' < 8 → (dst o).line ≠ (far o').line) ∧ CopyAt (kving g) 0 g .write g.dst 8 dst ∧
      (∀ o, o < 8 → o % 8 = 0 → (dst o).stamped = true ∧ stampAllows (metaAt (kving g) (dst o)) 0 g.dph = true ∧
        (∀ j r, lineStreams ((kving g).role j r) (dst o) = []) ∧ ∀ a, dst o = .deep a → undoFirst (kving g) a = false) ∧
      (∀ o o', o < 8 → o' < 8 → o % 8 = 0 → o' % 8 = 0 → o ≠ o' → dst o ≠ dst o') ∧
      OwnDue (kving p) 0 1 0 p ∧ AllQuiet (kving p) ∧ p.fn = 3 ∧ p.kvMode = 0 ∧
      TableNames (kving p) 0 p (p.vb.toNat / 64) .read 0x300000 0 ∧ CopyAt (kving p) 0 p .read p.dst 8 dst ∧
      (∀ o, o < 8 → o % 8 = 0 → sourceAllowed 0 p (kving p) (dst o) = true) ∧
      (∀ o, o < 8 → o % 8 = 0 → ∀ a, far o = .deep a → undoFirst (kving p) a = false) := by
  have z {o : Nat} (l : o < 8) (m : o % 8 = 0) : o = 0 := by omega
  refine ⟨own_due (by decide +kernel), quiet (by decide +kernel), rfl, rfl, by decide, by decide +kernel,
    table_names rfl (by decide +kernel) (by decide +kernel) rfl (block_stands _), by decide +kernel, by decide +kernel, by decide +kernel,
    fun o _ m => ⟨usable (by omega) (by omega), sound_deep ⟨rfl, rfl, rfl⟩ _, sound_deep ⟨rfl, rfl, rfl⟩ _⟩, fun o o' l l' q => ?_,
    copy_at 8 rfl (by decide +kernel) (by decide), fun o l m => ⟨rfl, ?_, fun j r => ?_, fun a q => ?_⟩,
    fun o o' _ _ _ _ d q => d (by injection q; omega), own_due (by decide +kernel), quiet (by decide +kernel), by decide +kernel,
    by decide +kernel, table_names rfl (by decide +kernel) (by decide +kernel) rfl (block_stands _),
    copy_at 8 rfl (by decide +kernel) (by decide), fun o l m => ?_, fun o l m a q => ?_⟩
  · injection q; omega
  · cases z l m; decide +kernel
  · by_cases h : j = 0
    · subst h; cases r <;> rfl
    · exact unraced (s := seat .loader []) (x := { slotOf [] with journal := [{ kvOf (.kvget 0 (copyX 0)) 0 with vd := 0x300800 }] })
        _ rfl rfl j r h
  · cases z l m; cases q; decide +kernel
  · cases z l m; decide +kernel
  · cases z l m; cases q; decide +kernel

/-- A dormant record at 0xA8000000 takes a message: it is ready, awaits a join, awaits an event; a free one takes none. -/
theorem witness_HostAndNeighbours_message :
    let s := { seat .loader [] with deep := [(0xA800000F, 7)] }
    let j := { seat .loader [] with deep := [(0xA800000F, 7), (0xA8000010, 1)] }
    let e := { seat .loader [] with deep := [(0xA800000F, 7), (0xA8000012, 1)] }
    let x := seat .loader []
    let pa := (0xA8000000 : BitVec 34).toNat
    AllQuiet s ∧ AwaitsMessage s pa ∧ recJoinc s pa = 0 ∧ recEventHolds s (homeCluster pa) pa = true ∧
      (s.cluster (homeCluster pa)).ready.length < 960 ∧ AllQuiet j ∧ AwaitsMessage j pa ∧ recJoinc j pa ≠ 0 ∧
      AllQuiet e ∧ AwaitsMessage e pa ∧ recJoinc e pa = 0 ∧ recEventHolds e (homeCluster pa) pa = false ∧
      (e.cluster (homeCluster pa)).wait.length < 64 ∧ AllQuiet x ∧ RecQuiet x pa ∧ recState x pa ≠ stDormant := by
  refine ⟨quiet (by decide +kernel), ⟨rec_quiet (by decide +kernel), ?_⟩, ?_, ?_, ?_, quiet (by decide +kernel),
    ⟨rec_quiet (by decide +kernel), ?_⟩, ?_, quiet (by decide +kernel), ⟨rec_quiet (by decide +kernel), ?_⟩, ?_, ?_, ?_,
    quiet (by decide +kernel), rec_quiet (by decide +kernel), ?_⟩ <;> decide +kernel

/-- A MSG of 8 bytes of slot 0 from 0x300800 to the record at 0x300000, whose buffer has room for `room` bytes at 0x400000; the record
is in state `st`. -/
def msgA : JEntry := { kvOf (.msg 0 (copyX 4)) 0x300000 with vd := 0x41, va := 0x300800 }
def messaging (st room : BitVec 8) : State :=
  { kving msgA with deep := Mem.writeNat (Mem.writeNat (Mem.writeNat [] 0x30000F 1 st.toNat) 0x30002A 1 0x40) 0x300030 1 room.toNat }

theorem witness_HostAndNeighbours_sends :
    let src (o : Nat) : Place := .deep (0x300800 + o)
    let dst (o : Nat) : Place := .deep (0x400000 + o)
    let sup := { msgA with sup := true }
    (∀ x ∈ [messaging 0 8, messaging 7 7, messaging 7 8], OwnDue x 0 1 0 msgA ∧ AllQuiet x ∧ CopyAt x 0 msgA .read msgA.src 8 src ∧
      Sound x (src 0) ∧ sourceAllowed 0 msgA x (src 0) = true ∧ LeadsTo x 0 msgA .write msgA.vb (.deep 0x300000) ∧
      RecQuiet x 0x300000) ∧
      msgA.fn = 4 ∧ msgA.chunks = 0 ∧ msgA.msgLen = 8 ∧ recState (messaging 0 8) 0x300000 ≠ stDormant ∧
      AwaitsMessage (messaging 7 7) 0x300000 ∧ (recReg (messaging 7 7) 0x300000 4).toNat = 7 ∧
      AwaitsMessage (messaging 7 8) 0x300000 ∧ (recReg (messaging 7 8) 0x300000 4).toNat = 8 ∧
      recReg (messaging 7 8) 0x300000 3 = 0x400000 ∧ LeadsTo (messaging 7 8) 0 sup .write 0x400000 (dst 0) ∧
      homeCluster 0x300000 = 0 ∧ Usable (messaging 7 8) (dst 0) ∧ (dst 0).line ≠ .deep 0x300000 ∧
      ∀ a, dst 0 = .deep a → undoFirst (messaging 7 8) a = false := by
  have h (x : State) (d : copyFlight x 0 1 = [(0, msgA)] ∧ (x.slot 0).journal = [msgA] ∧ msgA.next ≤ x.cycle ∧ msgA.stop = false ∧ msgA.err = 0)
      (q : monitorCount x = 0 ∧ x.deepErr = [] ∧ x.deepMetaErr = [] ∧ x.cores.all (fun e => !e.2.einj.getLsbD 0) = true ∧ x.stalled = [])
      (l : (List.range 8).all (fun o => o % 8 != 0 || (leadsDeep x msgA .read (msgA.src o) (0x300800 + o) &&
        (tlbFind (x.core 0).utlb msgA.dom (msgA.src o).toNat).isSome)) = true)
      (m : sourceAllowed 0 msgA x (.deep 0x300800) = true)
      (v : (leadsDeep x msgA .write msgA.vb 0x300000 && (tlbFind (x.core 0).utlb msgA.dom msgA.vb.toNat).isSome) = true)
      (z : x.deepMeta = []) (r : quietly x 0x300000 = true) :
      OwnDue x 0 1 0 msgA ∧ AllQuiet x ∧ CopyAt x 0 msgA .read msgA.src 8 (fun o => .deep (0x300800 + o)) ∧
        Sound x (.deep 0x300800) ∧ sourceAllowed 0 msgA x (.deep 0x300800) = true ∧
        LeadsTo x 0 msgA .write msgA.vb (.deep 0x300000) ∧ RecQuiet x 0x300000 :=
    ⟨d, quiet q, copy_at 8 rfl l (by decide), sound_deep ⟨q.2.1, q.2.2.1, z⟩ _, m, leads_to v, rec_quiet r⟩
  refine ⟨fun x m => ?_, by decide +kernel, rfl, by decide +kernel, by decide +kernel, ⟨rec_quiet (by decide +kernel), by decide +kernel⟩, ?_,
    ⟨rec_quiet (by decide +kernel), by decide +kernel⟩, ?_, ?_, leads_to (by decide +kernel), by decide, usable (by decide) (by decide),
    by decide, fun a q => by cases q; decide +kernel⟩
  · rcases List.mem_cons.mp m with e | m
    · subst e; apply h <;> decide +kernel
    · rcases List.mem_cons.mp m with e | m
      · subst e; apply h <;> decide +kernel
      · cases List.mem_singleton.mp m; apply h <;> decide +kernel
  all_goals decide +kernel

/-- What a management write meets: a boot that ends, a swap that pends and one that does not, domain 1 in frame mode and out of it, a
live die's halted slot. -/
theorem witness_HostAndNeighbours_registers :
    let b := { seat .loader [] with mgmt := [(0, 2)] }
    let d := { seat .loader [] with mgmt := [(0, 1)] }
    let f := { seat .loader [] with mgmt := [(0x898, 1)], cur := { contextOf 0 .loader with dom := 1 }, swap := { pend := true } }
    let x := { seat .loader [] with slots := [(7, { halted := true })] }
    field (b.mreg 0) 0 4 = 2 ∧ LowestLive b.dispatch.liveDies 0 ∧ field (d.mreg 0) 0 4 = 1 ∧ field (b.mreg 0) 0 4 ≠ 1 ∧
      b.cur.pos.toNat = b.ringPos ∧ b.swap.pend = false ∧ f.swap.pend = true ∧ f.cur.dom.toNat = 1 ∧ f.frameMode 1 = true ∧
      b.frameMode 1 = false ∧ x.dispatch.liveDies.getLsbD (1 / 16) = true ∧ (x.slot (4 * 1 + 3)).halted = true := by
  refine ⟨?_, by unfold LowestLive; decide +kernel, ?_⟩ <;> decide +kernel

/-- An image accepted is one whose key has the hash fused into the package, which is uninterpreted (log entry 7): no state is shown that
accepts one, and one that does not. -/
theorem witness_HostAndNeighbours :
    let s := { seat .loader [] with mgmt := [(0x10, 256)], host := [(5, 1)] }
    let x := { State.reset with mgmt := [(0, 1), (0x10, 256)] }
    let y := { State.reset with mgmt := [(0, 1), (0x10, 255)] }
    let z := { s with ring := { latched := true } }
    let f (p n : Nat) := { s with mgmt := [(0, BitVec.ofNat 64 p), (0x10, BitVec.ofNat 64 n)] }
    s.ring.latched = false ∧ z.ring.latched = true ∧ ImageOffered s ∧ field (s.mreg 0) 0 4 = 0 ∧ field (x.mreg 0) 0 4 = 1 ∧
      (x.slot 0).strand = some bootStrand ∧ field (y.mreg 0) 0 4 = 1 ∧ imageAccepted y = false ∧ AllQuiet s ∧
      (∀ n ∈ [255, 192, 67108928], (n % 64 ≠ 0 ∨ n < 256 ∨ 67108864 < n) ∧ ∀ p ∈ [0, 3], field ((f p n).mreg 0) 0 4 = p ∧
        ((f p n).mreg 0x10).toNat = n) ∧ (∀ p ∈ [2, 4], field ((f p 256).mreg 0) 0 4 = p) ∧
      (0xA8000000 : BitVec 64).toNat + 208 ≤ 2 ^ 34 ∧ Logged s (0xA8000000 + 0) 208 := by
  refine ⟨rfl, rfl, ⟨by decide +kernel, by decide +kernel, by decide +kernel, by decide +kernel, by decide +kernel,
    quiet (by decide +kernel), by decide +kernel, by decide +kernel⟩, ?_, ?_, rfl, ?_, ?_, quiet (by decide +kernel), ?_, ?_, by decide,
    logged (by decide +kernel) _ _ (by decide)⟩ <;> decide +kernel

/-- The launch of record 1 of the queue at 0x4000, of 2 records: 65 indices of the template at 0x1000 of domain 1; the pool's entries
stand from 0x4000000 on, which the domain's second 32 MiB map. -/
def launchRaw (n : Nat) : BitVec 512 := BitVec.ofNat 512 (0x1000 + n * 2 ^ 64 + 2 ^ 96 + 0x6000 * 2 ^ 192 + 77 * 2 ^ 448)
def launchState (n : Nat) (d : Dispatch) (l : List Launch) : State :=
  { seat .loader [] with
    mgmt := [(0, 4), (0x40, 0x4000), (0x48, 2), (0x50, 2), (0x58, 1), (0x880, 0x80000), (0x8E8, 0x2000000), (0x8F8, 4)],
    host := Mem.writeNat [] 0x4040 64 (launchRaw n).toNat, dispatch := d, launches := l, scopes := scopes17 1,
    undo := [(0, { lines := [0x100000] })],
    deep := recordAt 1 2 0 ++ tables ++ [(0x100008, 0x60), (0x10000B, 0x04), (0x10000F, 0xC0)] }

/-- What is left to place of a launch whose template waits for a join. -/
def launchA (next : Nat) : Launch := ⟨9, BitVec.ofNat 512 (2 ^ 32 + 17 * 2 ^ 96 + 2 * 2 ^ 128), 65, 1, false, 0x6000, 77, next, 0, 0, []⟩
def grantA : Grant := ⟨9, 64, 1, 0, 0, 0, false, 10⟩

/-- The template, read before the record's copies and after them; one malformed record. -/
theorem witness_LaunchesAndDispatch_records :
    let s := launchState 65 { leader := some 0 } []
    let x := launchState 0 { leader := some 0 } []
    let r : LaunchRec := ⟨launchRaw 65⟩
    let once := readTemplate { s with seqNo := s.seqNo + 1 } (r.field 12 1) (r.field 0 8) (decide (r.field 13 1 / 2 = 1))
    let twice := readTemplate once.1 (r.field 12 1) (r.field 0 8) (decide (r.field 13 1 / 2 = 1))
    NextRecord s (launchRaw 65) ∧ launchFieldsOk s r = true ∧ r.field 13 1 % 2 = 0 ∧ r.field 40 4 = 0 ∧ once.2 ≠ none ∧
      twice.2 ≠ none ∧ NextRecord x (launchRaw 0) ∧ launchFieldsOk x ⟨launchRaw 0⟩ = false := by
  unfold NextRecord; decide +kernel

/-- What is left of the launch is granted; the die's last index finds its entry FREE, and awaits a join. -/
theorem witness_LaunchesAndDispatch_indices :
    let s := launchState 65 { leader := some 0 } [launchA 0]
    let x := launchState 65 { leader := some 0, mirror := [grantA] } [launchA 65]
    let w := hwDeep x (launchA 65).dom (poolEntry x (launchA 65)) .write true
    let dead := launchState 65 { leader := some 0, mirror := [grantA], liveDies := 0 } [launchA 65]
    let ended := { launchA 70 with id := 8 }
    let y := launchState 65 { leader := some 0 } [ended, launchA 0]
    s.launches = [] ++ launchA 0 :: [] ∧ (launchA 0).status ≠ 1 ∧ (launchA 0).status ≠ 2 ∧ (launchA 0).next < (launchA 0).nidx ∧
      s.dispatch.leader ≠ none ∧ (grantDie s).isSome = true ∧ x.dispatch.mirror = [grantA] ∧ grantA.retryAt ≤ x.cycle ∧
      x.launches = [launchA 65] ∧ dieLive x grantA.die = true ∧ (launchA 65).id = grantA.launch ∧ indexKept x (launchA 65) = false ∧
      w.2 = some (0x4000000, ⟨1, 1, 25, 0xC000000004000060, 0⟩) ∧ AllQuiet w.1 ∧ RecQuiet w.1 0x4000000 ∧
      recState w.1 0x4000000 = stFree ∧ grantA.done + 1 = grantA.count ∧
      scopeDead w.1 ((launchA 65).template.toNat / 2 ^ 96 % 2 ^ 14) = false ∧
      ((launchA 65).template.toNat / 2 ^ 128) % 2 ^ 16 ≠ 0 ∧ dead.dispatch.mirror = [grantA] ∧ grantA.acked = false ∧
      dead.dispatch.liveDies = 0 ∧ y.launches = [ended] ++ launchA 0 :: [] ∧ ended.nidx ≤ ended.next ∧ ended.id ≠ (launchA 0).id ∧
      (grantDie y).isSome = true := by
  refine ⟨rfl, by decide, by decide, by decide, nofun, ?_, rfl, ?_, rfl, ?_, rfl, ?_, by rfl, quiet (by decide +kernel),
    rec_quiet (by decide +kernel), ?_, by decide, ?_, ?_, rfl, rfl, rfl, rfl, by decide, by decide, ?_⟩ <;> decide +kernel

/-- The index of a launch without joins is ready; behind a full ready queue it is spilled. -/
theorem witness_LaunchesAndDispatch_ready :
    let l := { launchA 65 with template := BitVec.ofNat 512 (2 ^ 32 + 17 * 2 ^ 96) }
    let x := launchState 65 { leader := some 0, mirror := [grantA] } [l]
    let full := { x with
      clusters := [(0, { ready := List.replicate 960 ⟨⟨0, 1, 0, false⟩, 0, false, true, 0, none, false⟩ })], mgmt := x.mgmt ++ [(0x3000,
        0xA8000000), (0x3008, 8)] }
    let w := hwDeep x l.dom (poolEntry x l) .write true
    let v := hwDeep full l.dom (poolEntry full l) .write true
    (l.template.toNat / 2 ^ 128) % 2 ^ 16 = 0 ∧
      eventHolds (eventGroup w.1 grantA.cluster (l.template.toNat / 2 ^ 160 % 2 ^ 8 / 16)) (BitVec.ofNat 16 (l.template.toNat / 2 ^ 144)) =
        true ∧
      (w.1.cluster grantA.cluster).ready.length < 960 ∧ w.2.isSome = true ∧ v.2 = some (0x4000000, ⟨1, 1, 25, 0xC000000004000060, 0⟩) ∧
      960 ≤ (v.1.cluster grantA.cluster).ready.length ∧
      (v.1.cluster grantA.cluster).spill.length < (v.1.clusterWord grantA.cluster 1).toNat ∧
      listTail v.1 grantA.cluster 0 = some (.deep 0xA8000000) ∧ 0xA8000000 % 8 = 0 ∧ 0xA8000000 / 64 ≠ 0x4000000 / 64 ∧
      undoFirst v.1 0xA8000000 = false := by
  decide +kernel

/-- The same pool while its entry still holds a record; a launch that is over; dies that live, of which one runs a record. -/
theorem witness_LaunchesAndDispatch :
    let x := launchState 65 { leader := some 0, mirror := [grantA], mirrorDie := some 2, liveDies := 5 } [launchA 65]
    let y := { x with deep := x.deep ++ [(0x400000F, 2)] }
    let z := launchState 65 {} [launchA 65]
    let m := { x with
      slots := [(130, { slotOf [] with strand := some { strandA with ref := { strandA.ref with pa := 0x80 } } })],
      cur := contextOf 128 .loader, launches := [{ launchA 65 with records := [(0x40, 2), (0x80, 0)] }] }
    recState (hwDeep y (launchA 65).dom (poolEntry y (launchA 65)) .write true).1 0x4000000 ≠ stFree ∧
      z.launches = [] ++ launchA 65 :: [] ∧ (launchA 65).nidx ≤ (launchA 65).next ∧ (launchA 65).records = [] ∧
      (∀ g ∈ z.dispatch.mirror, g.launch ≠ 9) ∧ (launchA 65).status < 2 ^ 32 ∧ field (x.mreg 0) 0 4 = 4 ∧
      LowestLive x.dispatch.liveDies 0 ∧ Fails x .leaderFailover 0 ∧ LowestLive (x.dispatch.liveDies &&& ~~~(1#4 <<< 0)) 2 ∧
      Fails x .mirrorDieFailure 2 ∧ LowestLive (x.dispatch.liveDies &&& ~~~(1#4 <<< 2)) 0 ∧ Fails m .mirrorDieFailure 2 ∧
      (∀ r ∈ [(0x40, 2), (0x80, 0)], StandsOn m r 2) ∧ x.dispatch.liveDies.getLsbD (coreOf x.me / 16) = true := by
  refine ⟨by decide +kernel, rfl, by decide, rfl, by decide, by decide, by decide +kernel, by unfold LowestLive; decide +kernel,
    .inl ⟨rfl, rfl⟩, by unfold LowestLive; decide +kernel, .inr ⟨rfl, .inr ⟨by decide +kernel, rfl⟩⟩,
    by unfold LowestLive; decide +kernel, .inr ⟨rfl, .inl ⟨by decide +kernel, by decide +kernel, by decide⟩⟩,
    by unfold StandsOn; decide +kernel, by decide +kernel⟩

end Sys2Proof.Tests
end

section
/-! PROOFS. Every step keeps the memories in their canonical form (01 R4). -/

-- One thread: a thread per theorem does not fit the memory the check allows.
set_option Elab.async false

namespace Sys2Proof.Machine

/-! ### The form as a law about stores, outcomes and folds

`State.canonical` speaks of four fields of the state, so a change of the others keeps it
(`State.canonical.same`). Each operation below has one lemma, that it keeps the form, proved from
the lemmas of the operations its definition calls; an operation that goes on with another (`next`,
`body`) takes that the other keeps the form as a hypothesis. Where a proof names an intermediate
state (`generalize`, `clear_value`) before it splits, the split does not copy the term that
computes the state. -/

/-- The canonical form said of the four stores alone. -/
def Stores (deep host : Mem) (remote : Sp Mem) (cores : Sp Core) : Prop :=
  deep.wf = true ∧ host.wf = true ∧ (∀ e ∈ remote, Mem.wf e.2 = true) ∧
    ∀ e ∈ cores, e.2.spad.wf = true

theorem canonical_iff {s : State} : s.canonical ↔ Stores s.deep s.host s.remote s.cores := Iff.rfl

/-- What an instruction's body answers is in the form. -/
def Did.canonical (d : Did) : Prop :=
  match d with
  | .done s => s.canonical
  | .goto s _ => s.canonical
  | .trap s _ _ => s.canonical
  | .wait s _ => s.canonical

/-- An outcome that goes on goes on in the form. -/
def CanonicalNext (r : Result) : Prop :=
  match r with
  | .next s => s.canonical
  | _ => True

theorem canonical_next {s : State} (h : s.canonical) : CanonicalNext (.next s) := h

theorem canonical_ite {p : Prop} [Decidable p] {s t : State} (hs : s.canonical) (ht : t.canonical) :
    (if p then s else t).canonical := by
  split
  · exact hs
  · exact ht

theorem canonical_foldl_fst {α β : Type} (f : State × β → α → State × β)
    (hf : ∀ x a, x.1.canonical → (f x a).1.canonical) (l : List α) (x : State × β)
    (h : x.1.canonical) : (l.foldl f x).1.canonical :=
  List.foldlRecOn (motive := fun y => y.1.canonical) l f h fun y hy a _ => hf y a hy

theorem canonical_foldl_fst_fst {α β γ : Type} (f : (State × β) × γ → α → (State × β) × γ)
    (hf : ∀ x a, x.1.1.canonical → (f x a).1.1.canonical) (l : List α) (x : (State × β) × γ)
    (h : x.1.1.canonical) : (l.foldl f x).1.1.canonical :=
  List.foldlRecOn (motive := fun y => y.1.1.canonical) l f h fun y hy a _ => hf y a hy

theorem canonical_foldl_next {α : Type} (f : Result → α → Result)
    (hf : ∀ x a, CanonicalNext x → CanonicalNext (f x a)) (l : List α) (x : Result)
    (h : CanonicalNext x) : CanonicalNext (l.foldl f x) :=
  List.foldlRecOn (motive := CanonicalNext) l f h fun y hy a _ => hf y a hy

theorem canonical_modCore {s : State} {k : Nat} {f : Core → Core} (h : s.canonical)
    (hf : (f (s.core k)).spad = (s.core k).spad) : (s.modCore k f).canonical :=
  h.core (hf ▸ h.spad k)

/-- A change of every core keeps the form where it keeps each scratchpad. -/
theorem canonical_mapCores {s : State} (f : Core → Core) (hf : ∀ c, (f c).spad = c.spad)
    (h : s.canonical) :
    ({ s with cores := s.cores.map (fun e => (e.1, f e.2)) } : State).canonical := by
  obtain ⟨hdeep, hhost, hfar, hspad⟩ := h
  refine ⟨hdeep, hhost, hfar, fun e he => ?_⟩
  obtain ⟨c, hc, rfl⟩ := List.mem_map.mp he
  exact (hf c.2).symm ▸ hspad c hc

theorem canonical_setSlot {s : State} (k : Nat) (x : Slot) (h : s.canonical) :
    (s.setSlot k x).canonical :=
  h.same

theorem canonical_modRole {s : State} (k : Nat) (r : Role) (f : RoleCtx → RoleCtx)
    (h : s.canonical) : (s.modRole k r f).canonical :=
  h.same

theorem canonical_modMe {s : State} (f : RoleCtx → RoleCtx) (h : s.canonical) :
    (s.modMe f).canonical :=
  h.same

/-! ### Accessors and the error log -/

theorem canonical_takeSeq {s : State} (h : s.canonical) : (takeSeq s).2.canonical := h.same

theorem canonical_logSlot {s : State} (k kind array code : Nat) (addr md : Word) (jidx : Nat)
    (h : s.canonical) : (logSlot s k kind array code addr md jidx).canonical := by
  grind [logSlot, canonical_logError]

theorem canonical_setMreg {s : State} (off : Nat) (v : Word) (h : s.canonical) :
    (s.setMreg off v).canonical :=
  h.same

theorem canonical_raiseEvent {s : State} (n : Nat) (h : s.canonical) : (s.raiseEvent n).canonical :=
  h.same

/-! ### Checked reads of several units -/

theorem canonical_readUnits {s : State} (p : Place) (n slot dom : Nat) (h : s.canonical) :
    (readUnits s p n slot dom).1.canonical := by
  grind [readUnits, canonical_foldl_fst, canonical_readUnit]

/-! ### Records, the wait table and the overflow list -/

theorem canonical_recCheck {s : State} (pa slot dom : Nat) (h : s.canonical) :
    (recCheck s pa slot dom).1.canonical := by
  unfold recCheck
  split <;> grind [canonical_readUnits]

theorem canonical_noteExited {s : State} (pa : Nat) (exited : Bool) (h : s.canonical) :
    (noteExited s pa exited).canonical :=
  h.same

theorem canonical_refillResume {s : State} (cluster : Nat) (h : s.canonical) :
    (refillResume s cluster).canonical :=
  h.same

theorem canonical_recPutHw {s : State} (pa off n v : Nat) (h : s.canonical) :
    (recPutHw s pa off n v).canonical := by
  grind [recPutHw, canonical_hwWriteWake]

theorem canonical_applyEventChanges {s : State} (cluster : Nat) (h : s.canonical) :
    (applyEventChanges s cluster).canonical :=
  h.same

theorem canonical_evalWaitTable {s : State} (cluster : Nat) (h : s.canonical) :
    (evalWaitTable s cluster).canonical := by
  grind [evalWaitTable, canonical_foldl, canonical_modCluster, canonical_wakeRec]

theorem canonical_scanOverflow {s : State} (cluster : Nat) (h : s.canonical) :
    (scanOverflow s cluster).canonical := by
  grind [scanOverflow, canonical_foldl, canonical_modCluster, canonical_wakeRec]

/-! ### Page walks and performed accesses -/

theorem canonical_fillTlbs {s : State} (w : Walk) (h : s.canonical) : (fillTlbs s w).canonical := by
  grind [fillTlbs, canonical_foldl, canonical_modCluster, canonical_modCore]

theorem canonical_finishWalks {s : State} (h : s.canonical) : (finishWalks s).canonical := by
  grind [finishWalks, canonical_foldl, canonical_fillTlbs, canonical_iff]

theorem canonical_translateRecord {s : State} (core dom va : Nat) (sup : Bool) (slot : Nat)
    (h : s.canonical) : (translateRecord s core dom va sup slot).1.canonical := by
  grind [translateRecord, canonical_lookup]

theorem canonical_logXlate {s : State} (slot reason : Nat) (va : Word) (h : s.canonical) :
    (logXlate s slot reason va).canonical := by
  grind [logXlate, canonical_logError]

theorem canonical_logMmx {s : State} (slot dom : Nat) (p : Place) (va : Word) (h : s.canonical) :
    (logMmx s slot dom p va).canonical := by
  grind [logMmx, canonical_logError]

theorem canonical_performAtomic {s : State} (p : Place) (n op b slot dom : Nat) (h : s.canonical) :
    (performAtomic s p n op b slot dom).1.canonical := by
  grind [performAtomic, canonical_performRmw]

theorem canonical_addPending {s : State} (slot : Nat) (r : TrapReq) (h : s.canonical) :
    (addPending s slot r).canonical :=
  h.same

/-! ### Scopes, phasers, and what a strand gives up when it leaves -/

theorem canonical_unitStore {s : State} (p : Place) (n v : Nat) (h : s.canonical) :
    (unitStore s p n v).canonical := by
  unfold unitStore
  split <;> grind [canonical_performWrite, canonical_iff]

theorem canonical_setScope {s : State} (c : Nat) (x : Scope) (h : s.canonical) :
    (s.setScope c x).canonical :=
  h.same

theorem canonical_scopeInc {s : State} (c : Nat) (h : s.canonical) : (scopeInc s c).canonical :=
  h.same

theorem canonical_ackWrite {s : State} (c : Nat) (h : s.canonical) : (ackWrite s c).canonical := by
  grind [ackWrite, canonical_translate, canonical_logError, canonical_unitStore]

theorem canonical_scopeDecFrom {s : State} (c fuel : Nat) (h : s.canonical) :
    (scopeDecFrom s c fuel).canonical := by
  fun_induction scopeDecFrom s c fuel <;>
    grind [canonical_setScope, canonical_ackWrite, canonical_changeEvents]

theorem canonical_scopeDec {s : State} (c : Nat) (h : s.canonical) : (scopeDec s c).canonical := by
  grind [scopeDec, canonical_scopeDecFrom]

theorem canonical_setPhaser {s : State} (p : Nat) (x : Phaser) (h : s.canonical) :
    (s.setPhaser p x).canonical :=
  h.same

theorem canonical_setMember {s : State} (m : Member) (h : s.canonical) :
    (setMember s m).canonical :=
  h.same

theorem canonical_phComplete {s : State} (p : Nat) (h : s.canonical) :
    (phComplete s p).1.canonical := by
  grind [phComplete, canonical_foldl, canonical_wakeRec, canonical_setPhaser, canonical_iff]

theorem canonical_phClose {s : State} (p : Nat) (h : s.canonical) : (phClose s p).1.canonical := by
  grind [phClose, canonical_setPhaser]

theorem canonical_phRun {s : State} (tasks : List PhTask) (fuel : Nat) (h : s.canonical) :
    (phRun s tasks fuel).canonical := by
  fun_induction phRun s tasks fuel <;>
    grind [canonical_phClose, canonical_phComplete, canonical_setPhaser]

theorem canonical_phBefore {s : State} (p : Nat) (h : s.canonical) : (phBefore s p).canonical := by
  grind [phBefore, canonical_phRun]

theorem canonical_phLower {s : State} (p : Nat) (h : s.canonical) : (phLower s p).canonical := by
  grind [phLower, canonical_phRun, canonical_setPhaser]

theorem canonical_updateData {s : State} (slot key p : Nat) (h : s.canonical) :
    (updateData s slot key p).canonical := by
  grind [updateData, canonical_modSlot]

theorem canonical_phUnlink {s : State} (c : Nat) (h : s.canonical) : (phUnlink s c).canonical := by
  grind [phUnlink, canonical_phRun, canonical_phLower, canonical_phBefore, canonical_setPhaser]

theorem canonical_phFree {s : State} (p fuel : Nat) (h : s.canonical) :
    (phFree s p fuel).canonical := by
  fun_induction phFree s p fuel <;> grind [canonical_phUnlink, canonical_setPhaser]

theorem canonical_phDrop {s : State} (m : Member) (slot : Option Nat) (h : s.canonical) :
    (phDrop s m slot).canonical := by
  unfold phDrop
  split <;> grind [canonical_modSlot, canonical_phLower, canonical_phFree, canonical_phBefore,
    canonical_setPhaser, canonical_iff]

theorem canonical_phDropAll {s : State} (key : Nat) (slot : Option Nat) (h : s.canonical) :
    (phDropAll s key slot).canonical := by
  grind [phDropAll, canonical_foldl, canonical_phDrop]

theorem canonical_launchExit {s : State} (pa : Nat) (cancelled : Bool) (h : s.canonical) :
    (launchExit s pa cancelled).canonical :=
  h.same

theorem canonical_releaseVictim {s : State} (slot : Nat) (h : s.canonical) :
    (releaseVictim s slot).canonical := by
  grind [releaseVictim, canonical_modCluster, canonical_modSlot, canonical_listAppend]

theorem canonical_logPending {s : State} (slot : Nat) (h : s.canonical) :
    (logPending s slot).canonical := by
  grind [logPending, canonical_foldl, canonical_modSlot, canonical_logSlot]

theorem canonical_vacate {s : State} (slot : Nat) (h : s.canonical) :
    (vacate s slot).canonical := by
  grind [vacate, canonical_modSlot, canonical_releaseVictim, canonical_drainSlot]

theorem canonical_noteDrops {s : State} (slot : Nat) (h : s.canonical) :
    (noteDrops s slot).canonical :=
  h.same

theorem canonical_strandGone {s : State} (slot : Nat) (cancelled : Bool) (h : s.canonical) :
    (strandGone s slot cancelled).canonical := by
  grind [strandGone, canonical_phDropAll, canonical_scopeDec, canonical_noteDrops,
    canonical_launchExit]

theorem canonical_strandExit {s : State} (slot : Nat) (h : s.canonical) :
    (strandExit s slot).canonical := by
  grind [strandExit, canonical_vacate, canonical_logPending, canonical_recPut, canonical_strandGone,
    canonical_changeEvents]

/-! ### Code lines, queues, traps, halting and suspending -/

theorem canonical_logWordErr {s : State} (slot dom array addr : Nat) (e : Flips) (h : s.canonical) :
    (logWordErr s slot dom array addr e).canonical := by
  grind [logWordErr, canonical_logError]

theorem canonical_codeCheck {s : State} (slot line : Nat) (sup : Bool) (h : s.canonical) :
    (codeCheck s slot line sup).canonical := by
  grind [codeCheck, canonical_foldl, canonical_logWordErr, canonical_modCore]

theorem canonical_codeInsert {s : State} (core : Nat) (l : CodeLine) (h : s.canonical) :
    (codeInsert s core l).canonical := by
  grind [codeInsert, canonical_modCore]

theorem canonical_codeFill {s : State} (slot line : Nat) (sup : Bool) (h : s.canonical) :
    (codeFill s slot line sup).1.canonical := by
  grind [codeFill, canonical_codeInsert, canonical_readUnits, canonical_codeCheck,
    canonical_translate, canonical_logXlate]

theorem canonical_landSlot {s : State} (slot : Nat) (h : s.canonical) :
    (landSlot s slot).canonical :=
  h.same

theorem canonical_setQueue {s : State} (slot q : Nat) (l : List QEntry) (h : s.canonical) :
    (setQueue s slot q l).canonical :=
  h.same

theorem canonical_fireSnapshot {s : State} (src : Nat) (h : s.canonical) :
    (fireSnapshot s src).canonical := by
  grind [fireSnapshot, canonical_iff]

theorem canonical_haltDone {s : State} (slot : Nat) (h : s.canonical) :
    (haltDone s slot).canonical := by
  grind [haltDone, canonical_modSlot]

theorem canonical_finishHalt {s : State} (slot : Nat) (h : s.canonical) :
    (finishHalt s slot).canonical := by
  grind [finishHalt, canonical_haltDone, canonical_scopeDec, canonical_modSlot,
    canonical_releaseVictim, canonical_logPending, canonical_launchExit, canonical_drainSlot]

theorem canonical_haltSlot {s : State} (slot : Nat) (r : Role) (h : s.canonical) :
    (haltSlot s slot r).canonical := by
  grind [haltSlot, canonical_modSlot, canonical_modRole, canonical_finishHalt]

theorem canonical_dropSuspension {s : State} (slot : Nat) (h : s.canonical) :
    (dropSuspension s slot).canonical := by
  grind [dropSuspension, canonical_modCluster, canonical_modSlot, canonical_iff]

theorem canonical_doubleFault {s : State} (slot : Nat) (r : Role) (line : Nat) (h : s.canonical) :
    (doubleFault s slot r line).canonical := by
  grind [doubleFault, canonical_haltSlot, canonical_logSlot]

theorem canonical_enterTrap {s : State} (slot : Nat) (q : TrapReq) (h : s.canonical) :
    (enterTrap s slot q).canonical := by
  grind [enterTrap, canonical_fireSnapshot, canonical_modSlot, canonical_dropSuspension,
    canonical_doubleFault, canonical_codeFill]

theorem canonical_startTrap {s : State} (slot : Nat) (q : TrapReq) (h : s.canonical) :
    (startTrap s slot q).canonical := by
  grind [startTrap, canonical_enterTrap, canonical_modSlot]

theorem canonical_raiseTrap {s : State} (slot : Nat) (q : TrapReq) (h : s.canonical) :
    (raiseTrap s slot q).canonical := by
  grind [raiseTrap, canonical_startTrap, canonical_modSlot, canonical_addPending, canonical_modRole]

theorem canonical_takePending {s : State} (slot : Nat) (h : s.canonical) :
    (takePending s slot).canonical := by
  grind [takePending, canonical_modSlot, canonical_logPending, canonical_raiseTrap]

theorem canonical_trapNow {s : State} (cause : Nat) (tval : Word) (h : s.canonical) :
    (s.trapNow cause tval).canonical := by
  grind [State.trapNow, canonical_raiseTrap]

theorem canonical_fetchTrap {s : State} (line cause : Nat) (tval : Word) (h : s.canonical) :
    (fetchTrap s line cause tval).canonical := by
  grind [fetchTrap, canonical_modMe, canonical_trapNow]

theorem canonical_returnFromTrap {s : State} (h : s.canonical) : (returnFromTrap s).canonical := by
  grind [returnFromTrap, canonical_modSlot, canonical_raiseTrap, canonical_modMe]

theorem canonical_writeBack {s : State} (slot : Nat) (t : Strand) (u : Susp) (h : s.canonical) :
    (writeBack s slot t u).canonical := by
  grind [writeBack, canonical_noteExited, canonical_recPut]

theorem canonical_completeSuspension {s : State} (slot : Nat) (t : Strand) (u : Susp)
    (h : s.canonical) : (completeSuspension s slot t u).canonical := by
  unfold completeSuspension
  split
  · exact canonical_vacate slot h
  · extract_lets _ ref cl pa s1 put s2
    have hv : s2.canonical :=
      canonical_vacate slot (canonical_writeBack slot t u (canonical_drainSlot slot h))
    have hp {x : State} (n : Nat) (hx : x.canonical) : (put x n).canonical :=
      canonical_recPut _ _ _ _ hx
    clear_value s2 put
    split <;> grind [canonical_recPut, canonical_placeResume, canonical_enterWaitEv,
      canonical_listAppend, canonical_modCluster, canonical_resumeRec, canonical_iff]

/-! ### How an instruction issues -/

theorem canonical_blocked {s : State} (why : Nat) (h : s.canonical) : (s.blocked why).canonical :=
  h.same

theorem canonical_blockWords {s : State} (slot order : Nat) (ws : List InstrWord)
    (h : s.canonical) :
    (blockWords s slot order ws).canonical :=
  h.same

theorem canonical_mark {s : State} (h : s.canonical) : s.mark.canonical := h.same

theorem canonical_retireTo (i : Instr) (pc : BitVec 32) (nul : Nat) {s : State} (h : s.canonical) :
    (retireTo i pc nul s).canonical :=
  h.same

theorem canonical_retire (i : Instr) (nul : Nat) {s : State} (h : s.canonical) :
    (retire i nul s).canonical :=
  h.same

theorem canonical_close (i : Instr) {d : Did} (hd : d.canonical) : (d.close i).canonical := by
  cases d <;>
    grind [Did.canonical, Did.close, canonical_retire, canonical_retireTo, canonical_mark,
      canonical_trapNow, canonical_blocked]

/-- An instruction keeps the form where its body does, and what it does when it is nullified. -/
theorem canonical_gate (i : Instr) (chk3 : Bool) (roles : Role → Bool) (sup : Bool)
    {null : State → State} {body : State → Did} {s : State}
    (hnull : ∀ t, t.canonical → (null t).canonical) (hbody : ∀ t, t.canonical → (body t).canonical)
    (h : s.canonical) : (gate i chk3 roles sup null body s).canonical := by
  grind [gate, canonical_mark, canonical_landSlot, canonical_trapNow, canonical_close,
    canonical_retire, canonical_blocked]

theorem canonical_mendEntry {s : State} (slot q n : Nat) (h : s.canonical) :
    (mendEntry s slot q n).canonical := by
  grind [mendEntry, canonical_setQueue, canonical_takeFree, canonical_logFlips]

theorem canonical_mendQueue {s : State} (slot q n : Nat) (h : s.canonical) :
    (mendQueue s slot q n).canonical := by
  grind [mendQueue, canonical_foldl, canonical_mendEntry]

theorem canonical_mendPops {s : State} (u : Use) (h : s.canonical) : (mendPops s u).canonical := by
  grind [mendPops, canonical_foldl, canonical_mendQueue]

theorem canonical_popAll {s : State} (u : Use) (h : s.canonical) : (popAll s u).canonical := by
  grind [popAll, canonical_foldl, canonical_setQueue]

theorem canonical_popped (u : Use) {d : Did} (hd : d.canonical) : (d.popped u).canonical := by
  unfold Did.popped
  split <;> grind [Did.canonical, canonical_popAll]

theorem canonical_refused {d : Did} {s : State} (hd : d.canonical) (h : s.canonical) :
    (d.refused s).canonical := by
  unfold Did.refused
  split <;> grind [Did.canonical]

/-- An instruction that reads operands keeps the form where its body does on every operand. -/
theorem canonical_operands (u : Use) {body : List Word → State → Did} {s : State}
    (hbody : ∀ v t, t.canonical → (body v t).canonical) (h : s.canonical) :
    (operands u body s).canonical := by
  grind [operands, Did.canonical, canonical_mendPops, canonical_refused, canonical_popped]

theorem canonical_writeReg {s : State} (d : BitVec 5) (lat : Nat) (v : Word) (h : s.canonical) :
    (writeReg s d lat v).canonical := by
  grind [writeReg, canonical_setQueue, canonical_modMe]

theorem canonical_writeFlag {s : State} (f : BitVec 3) (b : Bool) (h : s.canonical) :
    (writeFlag s f b).canonical :=
  h.same

theorem canonical_writeLate {s : State} (d : BitVec 5) (l : Late) (h : s.canonical) :
    (writeLate s d l).canonical := by
  grind [writeLate, canonical_setQueue, canonical_modMe]

theorem canonical_dueIn {s : State} (lat : Nat) (h : s.canonical) : (dueIn s lat).2.canonical := by
  grind [dueIn, canonical_takeDelay]

theorem canonical_writeInterlocked {s : State} (d : BitVec 5) (lat : Nat) (v : Word)
    (h : s.canonical) : (writeInterlocked s d lat v).canonical := by
  grind [writeInterlocked, canonical_dueIn, canonical_writeLate]

theorem canonical_trapFree {s : State} (cause : Nat) (h : s.canonical) :
    (trapFree s cause).canonical :=
  h.same

theorem canonical_alu2 (i : Instr) (lat : Nat) (d a b : BitVec 5) (f : Word → Word → Word)
    {s : State} (h : s.canonical) : (alu2 i lat d a b f s).canonical := by
  grind [alu2, canonical_writeReg, canonical_gate, canonical_operands, Did.canonical]

theorem canonical_alu1 (i : Instr) (lat : Nat) (d a : BitVec 5) (f : Word → Word) {s : State}
    (h : s.canonical) : (alu1 i lat d a f s).canonical := by
  grind [alu1, canonical_writeReg, canonical_gate, canonical_operands, Did.canonical]

/-! ### Scalar instructions -/

theorem canonical_state {r : Result} {s : State} (hr : CanonicalNext r) (h : s.canonical) :
    (r.state s).canonical := by
  unfold Result.state
  split <;> grind [CanonicalNext]

theorem canonical_divideDue {s : State} (h : s.canonical) : (divideDue s).2.canonical := by
  grind [divideDue, canonical_modCore, canonical_takeDelay]

theorem canonical_divide (i : Instr) (d a b : BitVec 5) (f : Word → Word → Word) {s : State}
    (h : s.canonical) : (divide i d a b f s).canonical := by
  grind [divide, canonical_gate, canonical_operands, canonical_divideDue, Did.canonical,
    canonical_writeLate]

theorem canonical_execSel (st f : BitVec 3) (d a b : BitVec 5) {s : State} (h : s.canonical) :
    CanonicalNext (execSel st f d a b s) := by
  grind [execSel, canonical_writeReg, canonical_gate, canonical_operands, CanonicalNext,
    Did.canonical]

theorem canonical_readModify (i : Instr) (d : BitVec 5) (srcs : List (BitVec 5))
    (f : Word → Word → Word) {s : State} (h : s.canonical) :
    (readModify i d srcs f s).canonical := by
  grind [readModify, canonical_writeReg, canonical_gate, canonical_operands, Did.canonical]

theorem canonical_alu0 (i : Instr) (d : BitVec 5) (v : State → Word) {s : State} (h : s.canonical) :
    (alu0 i d v s).canonical := by
  grind [alu0, canonical_writeReg, canonical_gate, canonical_operands, Did.canonical]

theorem canonical_execFcmp (st f : BitVec 3) (a b : BitVec 5) (cond : BitVec 7) {s : State}
    (h : s.canonical) : CanonicalNext (execFcmp st f a b cond s) := by
  grind [execFcmp, canonical_gate, canonical_operands, CanonicalNext, canonical_writeFlag,
    Did.canonical]

theorem canonical_execFlog (st fd fa fb : BitVec 3) (op : BitVec 7) {s : State} (h : s.canonical) :
    CanonicalNext (execFlog st fd fa fb op s) := by
  grind [execFlog, canonical_gate, canonical_operands, CanonicalNext, canonical_writeFlag,
    Did.canonical]

theorem canonical_execNul (st f : BitVec 3) (n : BitVec 4) {s : State} (h : s.canonical) :
    CanonicalNext (execNul st f n s) := by
  grind [execNul, canonical_gate, canonical_operands, CanonicalNext, Did.canonical, canonical_modMe]

theorem canonical_branch2 (i : Instr) (a b : BitVec 5) (off : BitVec 8) (tw : BitVec 4)
    (taken : Word → Word → Bool) {s : State} (h : s.canonical) :
    (branch2 i a b off tw taken s).canonical := by
  grind [branch2, canonical_gate, Did.canonical, canonical_operands]

theorem canonical_branchFlag (i : Instr) (f : BitVec 3) (off : BitVec 8) (tw : BitVec 4)
    (when : Bool) {s : State} (h : s.canonical) : (branchFlag i f off tw when s).canonical := by
  grind [branchFlag, canonical_gate, Did.canonical, canonical_operands]

theorem canonical_execLoop (st : BitVec 3) (a : BitVec 5) (off : BitVec 8) (tw : BitVec 4)
    {s : State} (h : s.canonical) : CanonicalNext (execLoop st a off tw s) := by
  grind [execLoop, canonical_writeReg, canonical_gate, Did.canonical, canonical_operands,
    CanonicalNext]

theorem canonical_execJ (st : BitVec 3) (off : BitVec 18) (tw : BitVec 4) {s : State}
    (h : s.canonical) : CanonicalNext (execJ st off tw s) := by
  grind [execJ, canonical_gate, Did.canonical, canonical_operands, CanonicalNext]

theorem canonical_execJl (st : BitVec 3) (off : BitVec 18) (tw : BitVec 4) {s : State}
    (h : s.canonical) : CanonicalNext (execJl st off tw s) := by
  grind [execJl, canonical_writeReg, canonical_gate, Did.canonical, canonical_operands,
    CanonicalNext]

theorem canonical_execJi (st : BitVec 3) (d a : BitVec 5) {s : State} (h : s.canonical) :
    CanonicalNext (execJi st d a s) := by
  grind [execJi, canonical_writeReg, Did.canonical, canonical_gate, canonical_operands,
    CanonicalNext]

theorem canonical_execNop (st : BitVec 3) {s : State} (h : s.canonical) :
    CanonicalNext (execNop st s) := by
  grind [execNop, canonical_gate, CanonicalNext, Did.canonical]

/-! ### Loads, stores, fences, atomics, monitors and routers -/

theorem canonical_performedAll {s : State} (h : s.canonical) : (performedAll s).1.canonical := by
  grind [performedAll, canonical_drain]

theorem canonical_performedStreams {s : State} (pick : Nat → Bool) (h : s.canonical) :
    (performedStreams s pick).1.canonical := by
  grind [performedStreams, canonical_drain]

theorem canonical_performedUnit {s : State} (p : Place) (h : s.canonical) :
    (performedUnit s p).1.canonical := by
  grind [performedUnit, canonical_drain]

theorem canonical_performedLine {s : State} (p : Place) (h : s.canonical) :
    (performedLine s p).1.canonical := by
  grind [performedLine, canonical_drain]

theorem canonical_performedPlain {s : State} (p : Place) (stream : Nat) (all : Bool)
    (h : s.canonical) : (performedPlain s p stream all).1.canonical := by
  grind [performedPlain, canonical_drain]

theorem canonical_performedFor {s : State} (ord : Nat) (p : Place) (h : s.canonical) :
    (performedFor s ord p).1.canonical := by
  grind [performedFor, canonical_performedUnit, canonical_performedAll]

theorem canonical_logEarly {s : State} (p : Place) (h : s.canonical) :
    (logEarly s p).canonical := by
  unfold logEarly
  split <;> grind [canonical_wakeUndo, canonical_undoLog]

theorem canonical_undoWait {s : State} (p : Place) {next : State → Did} (h : s.canonical)
    (hnext : ∀ t, t.canonical → (next t).canonical) : (undoWait s p next).canonical := by
  grind [undoWait, Did.canonical, canonical_noteStall]

theorem canonical_leave {s : State} (o : Outst) (h : s.canonical) : (leave s o).canonical := by
  grind [leave, canonical_logEarly, canonical_performOne, canonical_takeDelay, canonical_modMe]

theorem canonical_checkAddress {s : State} (va : Word) (n : Nat) (k : AccKind)
    {next : State → Place → Did} (h : s.canonical)
    (hnext : ∀ t p, t.canonical → (next t p).canonical) :
    (checkAddress s va n k next).canonical := by
  grind [checkAddress, Did.canonical, canonical_translate, canonical_logXlate]

theorem canonical_checkStamp {s : State} (va : Word) (p : Place) (write : Bool) {next : State → Did}
    (h : s.canonical) (hnext : ∀ t, t.canonical → (next t).canonical) :
    (checkStamp s va p write next).canonical := by
  grind [checkStamp, canonical_settleLine, canonical_logMmx, canonical_logBad, Did.canonical,
    canonical_eccMeta]

theorem canonical_readOrTrap {s : State} (va : Word) (p : Place) (n : Nat)
    {next : State → Nat → Did} (h : s.canonical)
    (hnext : ∀ t n, t.canonical → (next t n).canonical) : (readOrTrap s va p n next).canonical := by
  grind [readOrTrap, canonical_performRead, Did.canonical]

theorem canonical_plainRead {s : State} (va : Word) (n : Nat) (stream : BitVec 4)
    {next : State → Place → Nat → Did} (h : s.canonical)
    (hnext : ∀ t p n, t.canonical → (next t p n).canonical) :
    (plainRead s va n stream next).canonical := by
  grind [plainRead, Did.canonical, canonical_checkStamp, canonical_checkAddress,
    canonical_readOrTrap, canonical_performedPlain]

theorem canonical_load (i : Instr) (n : Nat) (signed : Bool) (t base : BitVec 5) (stream : BitVec 4)
    (disp : BitVec 8) {s : State} (h : s.canonical) :
    (load i n signed t base stream disp s).canonical := by
  grind [load, canonical_gate, canonical_plainRead, canonical_operands, canonical_writeInterlocked,
    Did.canonical]

theorem canonical_plainWrite {s : State} (va : Word) (n : Nat) (stream : BitVec 4) (v : Word)
    {next : State → Did} (h : s.canonical) (hnext : ∀ t, t.canonical → (next t).canonical) :
    (plainWrite s va n stream v next).canonical := by
  grind [plainWrite, Did.canonical, canonical_leave, canonical_checkStamp, canonical_undoWait,
    canonical_checkAddress, canonical_performedPlain, canonical_unitStore]

theorem canonical_store (i : Instr) (n : Nat) (t base : BitVec 5) (stream : BitVec 4)
    (disp : BitVec 8) {s : State} (h : s.canonical) :
    (store i n t base stream disp s).canonical := by
  grind [store, canonical_gate, canonical_operands, Did.canonical, canonical_plainWrite]

theorem canonical_pushBehind {s : State} {next : State → Nat → Did} (h : s.canonical)
    (hnext : ∀ t n, t.canonical → (next t n).canonical) : (pushBehind s next).canonical := by
  grind [pushBehind, Did.canonical, canonical_drain]

theorem canonical_execLdq (st : BitVec 3) (q : BitVec 2) (base : BitVec 5) (stream : BitVec 4)
    (disp : BitVec 8) {s : State} (h : s.canonical) :
    CanonicalNext (execLdq st q base stream disp s) := by
  grind [execLdq, canonical_setQueue, Did.canonical, canonical_dueIn, canonical_pushBehind,
    canonical_gate, canonical_plainRead, canonical_operands, CanonicalNext]

theorem canonical_execStq (st : BitVec 3) (q : BitVec 1) (base : BitVec 5) (stream : BitVec 4)
    (disp : BitVec 8) {s : State} (h : s.canonical) :
    CanonicalNext (execStq st q base stream disp s) := by
  grind [execStq, canonical_setQueue, Did.canonical, canonical_gate, canonical_operands,
    CanonicalNext, canonical_mendQueue, canonical_plainWrite]

theorem canonical_execLdo (st : BitVec 3) (d a : BitVec 5) (ord : BitVec 3) (sx : BitVec 1)
    (w : BitVec 2) {s : State} (h : s.canonical) : CanonicalNext (execLdo st d a ord sx w s) := by
  grind [execLdo, Did.canonical, canonical_gate, canonical_operands, canonical_checkAddress,
    CanonicalNext, canonical_performedFor, canonical_writeInterlocked, canonical_readOrTrap]

theorem canonical_execSto (st : BitVec 3) (a b : BitVec 5) (ord : BitVec 3) (w : BitVec 2)
    {s : State} (h : s.canonical) : CanonicalNext (execSto st a b ord w s) := by
  grind [execSto, Did.canonical, canonical_leave, canonical_performOne, canonical_undoWait,
    canonical_gate, canonical_operands, canonical_checkAddress, CanonicalNext,
    canonical_performedFor, canonical_unitStore]

theorem canonical_execFence (st ord sco : BitVec 3) {s : State} (h : s.canonical) :
    CanonicalNext (execFence st ord sco s) := by
  grind [execFence, Did.canonical, canonical_gate, CanonicalNext, canonical_performedAll]

theorem canonical_execXfence (st : BitVec 3) (mask : BitVec 16) {s : State} (h : s.canonical) :
    CanonicalNext (execXfence st mask s) := by
  grind [execXfence, Did.canonical, canonical_gate, CanonicalNext, canonical_performedStreams]

theorem canonical_enterRouter {s : State} (cluster : Nat) (p : Place) (n op : Nat)
    (ms : List Request) (h : s.canonical) :
    (enterRouter s cluster p n op ms).canonical :=
  h.same

theorem canonical_joinGroup {s : State} (p : Place) (n op : Nat) (operand va : Word) (ticket : Nat)
    (returns : Bool) (h : s.canonical) :
    (joinGroup s p n op operand va ticket returns).canonical := by
  grind [joinGroup, canonical_logEarly, canonical_enterRouter]

theorem canonical_performedMerging {s : State} (p : Place) (n op : Nat) (h : s.canonical) :
    (performedMerging s p n op).1.canonical := by
  grind [performedMerging, canonical_drain]

theorem canonical_homeOrTrap {s : State} (p : Place) (va : Word) {next : State → Did}
    (h : s.canonical) (hnext : ∀ t, t.canonical → (next t).canonical) :
    (homeOrTrap s p va next).canonical := by
  grind [homeOrTrap, Did.canonical, canonical_eccUnit]

theorem canonical_routedAtomic (p : Place) (n op : Nat) (d : BitVec 5) (va operand : Word)
    {s : State} (h : s.canonical) : (routedAtomic p n op d va operand s).canonical := by
  grind [routedAtomic, canonical_dueIn, Did.canonical, canonical_joinGroup, canonical_writeLate,
    canonical_takeSeq]

theorem canonical_atomic (i : Instr) (n op : Nat) (d a b : BitVec 5) (ord : BitVec 3) {s : State}
    (h : s.canonical) : (atomic i n op d a b ord s).canonical := by
  refine canonical_gate _ _ _ _ (fun _ ht => ht) (fun t ht => ?_) h
  refine canonical_operands _ (fun v u hu => ?_) ht
  refine canonical_checkAddress _ _ _ hu fun w p hw => ?_
  grind [Did.canonical, canonical_performAtomic, canonical_leave, canonical_undoWait,
    canonical_routedAtomic, canonical_homeOrTrap, canonical_performedFor,
    canonical_writeInterlocked, canonical_performedMerging]

theorem canonical_casLike (i : Instr) (x : ExOps) (f : Nat → Nat → Nat → Option Nat)
    (refused : Bool) {s : State} (h : s.canonical) : (casLike i x f refused s).canonical := by
  unfold casLike
  split <;> grind [Did.canonical, canonical_dueIn, canonical_gate, canonical_operands,
    canonical_checkAddress, canonical_performedFor, canonical_performRmw, canonical_noteStall,
    canonical_modMe, canonical_writeLate]

theorem canonical_suspendHere {s : State} (kind : SuspKind) (ptr : BitVec 32) (h : s.canonical) :
    (suspendHere s kind ptr).canonical :=
  h.same

theorem canonical_armMonitor {s : State} (p : Place) (h : s.canonical) :
    (armMonitor s p).canonical := by
  grind [armMonitor, canonical_modCluster]

theorem canonical_waitAddress (i : Instr) (n : Nat) (d a b : BitVec 5) {s : State}
    (h : s.canonical) : (waitAddress i n d a b s).canonical := by
  grind [waitAddress, Did.canonical, canonical_suspendHere, canonical_gate, canonical_performedUnit,
    canonical_operands, canonical_trapFree, canonical_checkAddress, canonical_writeInterlocked,
    canonical_readOrTrap, canonical_armMonitor]

theorem canonical_deliver {s : State} (slot ticket : Nat) (v : Word) (h : s.canonical) :
    (deliver s slot ticket v).canonical :=
  h.same

theorem canonical_trapBack {s : State} (q : TrapReq) (slot : Nat) (pc : BitVec 32)
    (h : s.canonical) : (trapBack s q slot pc).canonical := by
  grind [trapBack, canonical_raiseTrap, canonical_addPending, canonical_modRole]

theorem canonical_refuseMember {s : State} (m : Request) (h : s.canonical) :
    (refuseMember s m).canonical := by
  grind [refuseMember, canonical_trapBack, canonical_modSlot, canonical_addPending]

theorem canonical_departGroup {s : State} (g : Merge) (h : s.canonical) :
    (departGroup s g).canonical := by
  grind [departGroup, canonical_foldl, canonical_foldl_fst, canonical_performRead,
    canonical_refuseMember, canonical_performWrite, canonical_deliver]

theorem canonical_leaveRouter (cluster : Nat) {s : State} (g : Merge) (h : s.canonical) :
    (leaveRouter cluster s g).canonical := by
  grind [leaveRouter, canonical_modCluster, canonical_takeDelay, canonical_departGroup,
    canonical_enterRouter]

theorem canonical_execRouterMergeDepart {s : State} (h : s.canonical) :
    CanonicalNext (execRouterMergeDepart s) := by
  grind [execRouterMergeDepart, canonical_foldl, canonical_leaveRouter, CanonicalNext]

/-! ### Strands, events and the scheduler -/

theorem canonical_blockRole {s : State} (due : Nat) (h : s.canonical) :
    (blockRole s due).canonical :=
  h.same

theorem canonical_writeBlocking {s : State} (d : BitVec 5) (lat : Nat) (v : Word)
    (h : s.canonical) : (writeBlocking s d lat v).canonical := by
  grind [writeBlocking, canonical_dueIn, canonical_blockRole, canonical_writeLate]

theorem canonical_recordAt {s : State} (a : Word) {next : State → RecRef → Did} (h : s.canonical)
    (hnext : ∀ t ref, t.canonical → (next t ref).canonical) : (recordAt s a next).canonical := by
  grind [recordAt, canonical_readUnits, Did.canonical, canonical_logXlate,
    canonical_translateRecord]

theorem canonical_release {s : State} {next : State → Did} (h : s.canonical)
    (hnext : ∀ t, t.canonical → (next t).canonical) : (release s next).canonical := by
  grind [release, Did.canonical, canonical_performedAll]

theorem canonical_eventsFirst {s : State} {next : State → Did} (h : s.canonical)
    (hnext : ∀ t, t.canonical → (next t).canonical) : (eventsFirst s next).canonical := by
  grind [eventsFirst, Did.canonical]

theorem canonical_countAccepted {s : State} (pa : Nat) (h : s.canonical) :
    (countAccepted s pa).canonical := by
  grind [countAccepted, canonical_scopeInc, canonical_iff]

theorem canonical_uncountDormant {s : State} (pa : Nat) (h : s.canonical) :
    (uncountDormant s pa).canonical := by
  grind [uncountDormant, canonical_scopeDec, canonical_iff]

theorem canonical_acceptRecord {s : State} (ref : RecRef) (join dormant : Bool) (b : Word)
    (regs : List Word) (h : s.canonical) :
    (acceptRecord s ref join dormant b regs).1.canonical := by
  fun_cases acceptRecord s ref join dormant b regs <;>
    grind [canonical_foldl, canonical_scopeInc, canonical_countAccepted, canonical_uncountDormant,
      canonical_recPut, canonical_admitRec, canonical_recSetState]

theorem canonical_spawnBody (i : Instr) (join : Bool) (d a b : BitVec 5) {s : State}
    (h : s.canonical) : (spawnBody i join d a b s).canonical := by
  grind [spawnBody, canonical_eventsFirst, Did.canonical, canonical_gate, canonical_operands,
    canonical_trapFree, canonical_acceptRecord, canonical_writeBlocking, canonical_release,
    canonical_recordAt]

theorem canonical_execJoin (st : BitVec 3) (a : BitVec 5) {s : State} (h : s.canonical) :
    CanonicalNext (execJoin st a s) := by
  refine canonical_gate _ _ _ _ (fun _ ht => ht) (fun t ht => ?_) h
  refine canonical_operands _ (fun v u hu => ?_) ht
  refine canonical_eventsFirst hu fun u hu => canonical_release hu fun u hu => ?_
  refine canonical_recordAt _ hu fun u ref hu => ?_
  extract_lets pa finish
  have hfin {x : State} (hx : x.canonical) : (finish x).canonical := by
    grind [Did.canonical, canonical_dueIn, canonical_blockRole]
  clear_value finish
  grind [canonical_scopeInc, Did.canonical, canonical_recPut, canonical_launchExit,
    canonical_logSlot, canonical_admitRec, canonical_recSetState]

theorem canonical_bchk {s : State} (v : Word) (h : s.canonical) : (bchk s v).canonical := by
  grind [bchk, Did.canonical, canonical_logSlot]

theorem canonical_execExit (st : BitVec 3) {s : State} (h : s.canonical) :
    CanonicalNext (execExit st s) := by
  grind [execExit, Did.canonical, canonical_eventsFirst, canonical_strandExit, canonical_gate,
    CanonicalNext, canonical_modMe, canonical_bchk, canonical_release]

theorem State.canonical.withPreemptedOn {s : State} (l : Sp Nat) (h : s.canonical) :
    { s with preemptedOn := l }.canonical :=
  h.same

theorem canonical_preemptYield {s : State} (h : s.canonical) : (preemptYield s).canonical := by
  unfold preemptYield
  extract_lets +onlyGivenNames k
  split
  · exact h
  · refine canonical_placeResume _ _ (State.canonical.withPreemptedOn _ (canonical_vacate _
      (canonical_modSlot _ _ (canonical_recPut _ _ _ _ ?_))))
    exact canonical_noteExited _ _ (canonical_recPut _ _ _ _ (canonical_recPut _ _ _ _
      (canonical_recPut _ _ _ _ h)))

theorem canonical_suspendPlain (i : Instr) (kind : SuspKind) {s : State} (h : s.canonical) :
    (suspendPlain i kind s).canonical := by
  grind [suspendPlain, Did.canonical, canonical_suspendHere, canonical_trapFree]

theorem canonical_execYield (st : BitVec 3) {s : State} (h : s.canonical) :
    CanonicalNext (execYield st s) := by
  grind [execYield, Did.canonical, canonical_suspendPlain, canonical_gate, canonical_preemptYield,
    canonical_trapFree, CanonicalNext, canonical_drainSlot]

theorem canonical_execSusp (st : BitVec 3) {s : State} (h : s.canonical) :
    CanonicalNext (execSusp st s) := by
  grind [execSusp, canonical_suspendPlain, canonical_gate, CanonicalNext]

theorem canonical_execPrio (st : BitVec 3) (d a : BitVec 5) {s : State} (h : s.canonical) :
    CanonicalNext (execPrio st d a s) := by
  grind [execPrio, canonical_writeReg, Did.canonical, canonical_gate, canonical_modSlot,
    canonical_operands, canonical_trapFree, CanonicalNext]

theorem canonical_checkGroup {s : State} (a : Word) {next : State → Nat → Did} (h : s.canonical)
    (hnext : ∀ t n, t.canonical → (next t n).canonical) : (checkGroup s a next).canonical := by
  grind [checkGroup, Did.canonical]

theorem canonical_checkMask {s : State} (a b : Word) {next : State → Nat → BitVec 16 → Did}
    (h : s.canonical) (hnext : ∀ t n m, t.canonical → (next t n m).canonical) :
    (checkMask s a b next).canonical := by
  grind [checkMask, Did.canonical, canonical_checkGroup]

theorem canonical_eventChange (i : Instr) (set : Bool) (a b : BitVec 5) {s : State}
    (h : s.canonical) : (eventChange i set a b s).canonical := by
  grind [eventChange, canonical_gate, canonical_operands, Did.canonical, canonical_modMe,
    canonical_changeEvents, canonical_checkMask, canonical_release]

theorem canonical_execEvwait (st : BitVec 3) (a b : BitVec 5) {s : State} (h : s.canonical) :
    CanonicalNext (execEvwait st a b s) := by
  grind [execEvwait, Did.canonical, canonical_suspendHere, canonical_gate, canonical_operands,
    canonical_trapFree, CanonicalNext, canonical_checkMask]

theorem canonical_execEvtest (st : BitVec 3) (d a : BitVec 5) {s : State} (h : s.canonical) :
    CanonicalNext (execEvtest st d a s) := by
  grind [execEvtest, canonical_checkGroup, canonical_dueIn, canonical_gate, canonical_operands,
    CanonicalNext, Did.canonical, canonical_writeLate]

theorem canonical_execSuspensionComplete {s : State} (h : s.canonical) :
    CanonicalNext (execSuspensionComplete s) := by
  grind [execSuspensionComplete, canonical_completeSuspension, canonical_modSlot, CanonicalNext]

theorem canonical_placeStrand {s : State} (slot : Nat) (ref : RecRef) (timed : Bool)
    (stv issue : Nat) (h : s.canonical) : (placeStrand s slot ref timed stv issue).canonical := by
  grind [placeStrand, canonical_recCheck, canonical_noteExited, canonical_modSlot,
    canonical_logPending, canonical_raiseTrap, canonical_modRole]

theorem canonical_execStrandPickup {s : State} (h : s.canonical) :
    CanonicalNext (execStrandPickup s) := by
  grind [execStrandPickup, canonical_refillResume, canonical_modCluster, CanonicalNext,
    canonical_placeStrand]

theorem canonical_execEventOverflowScan {s : State} (h : s.canonical) :
    CanonicalNext (execEventOverflowScan s) := by
  grind [execEventOverflowScan, canonical_scanOverflow, CanonicalNext]

theorem canonical_execSpillRefill {s : State} (h : s.canonical) :
    CanonicalNext (execSpillRefill s) := by
  grind [execSpillRefill, canonical_modCluster, CanonicalNext]

theorem canonical_settleMsg {s : State} (msg : Option (Nat × Nat)) (h : s.canonical) :
    (settleMsg s msg).canonical := by
  unfold settleMsg
  split <;> grind [canonical_modSlot]

theorem canonical_retryKept (cl : Nat) {s : State} (e : Kept) (h : s.canonical) :
    (retryKept cl s e).canonical := by
  grind [retryKept, canonical_offerNew, canonical_settleMsg, canonical_modCluster]

theorem canonical_execPlacementRetry {s : State} (h : s.canonical) :
    CanonicalNext (execPlacementRetry s) := by
  grind [execPlacementRetry, canonical_foldl, canonical_retryKept, CanonicalNext]

theorem canonical_requestPreempt {s : State} (slot : Nat) (v : Word) (h : s.canonical) :
    (requestPreempt s slot v).canonical := by
  grind [requestPreempt, canonical_modCluster, canonical_modSlot, canonical_addPending]

theorem canonical_execPreemptTrigger {s : State} (h : s.canonical) :
    CanonicalNext (execPreemptTrigger s) := by
  grind [execPreemptTrigger, canonical_modCluster, canonical_requestPreempt, canonical_takeFree,
    CanonicalNext]

theorem canonical_liftStep {s : State} (slot : Nat) (h : s.canonical) :
    (liftStep s slot).canonical := by
  grind [liftStep, canonical_modCore, canonical_modSlot]

theorem canonical_execPreemptDrainEnd {s : State} (h : s.canonical) :
    CanonicalNext (execPreemptDrainEnd s) := by
  grind [execPreemptDrainEnd, canonical_enterTrap, canonical_liftStep, CanonicalNext]

theorem canonical_execPollWake {s : State} (h : s.canonical) : CanonicalNext (execPollWake s) := by
  grind [execPollWake, canonical_foldl, canonical_modCluster, CanonicalNext, canonical_wakeRec]

theorem canonical_execTrapEntry {s : State} (h : s.canonical) :
    CanonicalNext (execTrapEntry s) := by
  grind [execTrapEntry, canonical_enterTrap, canonical_haltDone, canonical_takePending,
    CanonicalNext, canonical_logPending, canonical_finishHalt]

theorem canonical_execCodeLineFill {s : State} (h : s.canonical) :
    CanonicalNext (execCodeLineFill s) := by
  grind [execCodeLineFill, CanonicalNext, canonical_translate, canonical_codeFill]

/-! ### Frames, blocks, cancel scopes, staging holds and parks -/

theorem canonical_execTwait (st : BitVec 3) (a : BitVec 5) {s : State} (h : s.canonical) :
    CanonicalNext (execTwait st a s) := by
  grind [execTwait, Did.canonical, canonical_suspendHere, canonical_gate, canonical_operands,
    canonical_trapFree, CanonicalNext]

theorem canonical_execFrameq (st : BitVec 3) (d a : BitVec 5) {s : State} (h : s.canonical) :
    CanonicalNext (execFrameq st d a s) := by
  grind [execFrameq, Did.canonical, canonical_gate, canonical_operands, CanonicalNext,
    canonical_writeInterlocked]

theorem canonical_checkBlock {s : State} (slot : Nat) (h : s.canonical) :
    (checkBlock s slot).canonical := by
  grind [checkBlock, canonical_modSlot, canonical_raiseTrap, canonical_logSlot,
    canonical_addPending, canonical_modRole]

theorem canonical_execBend (st : BitVec 3) {s : State} (h : s.canonical) :
    CanonicalNext (execBend st s) := by
  grind [execBend, canonical_checkBlock, canonical_gate, canonical_modSlot, canonical_trapFree,
    CanonicalNext, Did.canonical, canonical_modMe]

theorem canonical_execBlockCheck {s : State} (h : s.canonical) :
    CanonicalNext (execBlockCheck s) := by
  grind [execBlockCheck, canonical_checkBlock, CanonicalNext]

theorem canonical_execScope (st : BitVec 3) (d a b : BitVec 5) {s : State} (h : s.canonical) :
    CanonicalNext (execScope st d a b s) := by
  grind [execScope, canonical_scopeInc, Did.canonical, canonical_gate, canonical_operands,
    CanonicalNext, canonical_writeInterlocked, canonical_setScope]

theorem canonical_execScqry (st : BitVec 3) (d a : BitVec 5) {s : State} (h : s.canonical) :
    CanonicalNext (execScqry st d a s) := by
  grind [execScqry, Did.canonical, canonical_gate, canonical_operands, CanonicalNext,
    canonical_writeInterlocked]

theorem canonical_execScack (st : BitVec 3) (d a b : BitVec 5) {s : State} (h : s.canonical) :
    CanonicalNext (execScack st d a b s) := by
  grind [execScack, Did.canonical, canonical_suspendHere, canonical_gate, canonical_operands,
    canonical_trapFree, canonical_checkAddress, CanonicalNext, canonical_writeInterlocked,
    canonical_readOrTrap, canonical_setScope, canonical_armMonitor]

theorem canonical_setBuf {s : State} (n : Nat) (b : Buf) (h : s.canonical) :
    (s.setBuf n b).canonical :=
  h.same

theorem canonical_bufOwner {s : State} (n : Nat) (v : Bool) (dom : Nat) (h : s.canonical) :
    (bufOwner s n v dom).canonical := by
  grind [bufOwner, canonical_foldl, canonical_modCore]

theorem canonical_freeBuf {s : State} (n : Nat) (h : s.canonical) : (freeBuf s n).canonical := by
  grind [freeBuf, canonical_setBuf, canonical_bufOwner]

theorem canonical_dropHold {s : State} (n : Nat) (h : s.canonical) : (dropHold s n).canonical := by
  grind [dropHold, canonical_freeBuf, canonical_setBuf]

theorem canonical_settleDrops {s : State} (slot : Nat) (h : s.canonical) :
    (settleDrops s slot).canonical := by
  grind [settleDrops, canonical_foldl, canonical_modSlot, canonical_dropHold]

theorem canonical_execSeghdr (st : BitVec 3) (d a : BitVec 5) {s : State} (h : s.canonical) :
    CanonicalNext (execSeghdr st d a s) := by
  grind [execSeghdr, Did.canonical, canonical_gate, canonical_operands, CanonicalNext,
    canonical_writeInterlocked]

theorem canonical_execStgq (st : BitVec 3) (q : BitVec 2) {s : State} (h : s.canonical) :
    CanonicalNext (execStgq st q s) := by
  fun_cases execStgq st q s
  grind [canonical_setQueue, Did.canonical, canonical_pushBehind, canonical_gate, canonical_modSlot,
    canonical_trapFree, canonical_setBuf, CanonicalNext]

theorem canonical_execStgrel (st : BitVec 3) {s : State} (h : s.canonical) :
    CanonicalNext (execStgrel st s) := by
  grind [execStgrel, canonical_gate, canonical_modSlot, canonical_trapFree, CanonicalNext,
    Did.canonical, canonical_settleDrops]

theorem canonical_unpark {s : State} (c : Nat) (h : s.canonical) : (unpark s c).canonical := h.same

theorem canonical_parkScope {s : State} (c rejoin : Nat) (h : s.canonical) :
    (parkScope s c rejoin).1.canonical := by
  grind [parkScope, canonical_iff]

theorem canonical_park (i : Instr) (d a b : BitVec 5) {s : State} (h : s.canonical) :
    (park i d a b s).canonical := by
  grind [park, Did.canonical, canonical_gate, canonical_parkScope, canonical_operands,
    canonical_writeInterlocked, canonical_release, canonical_unpark]

/-! ### Phasers -/

theorem canonical_phaserChecks {s : State} (a : Word) (need : Option Member → Bool)
    {next : State → Nat → Did} (h : s.canonical)
    (hnext : ∀ t n, t.canonical → (next t n).canonical) :
    (phaserChecks s a need next).canonical := by
  grind [phaserChecks, Did.canonical]

theorem canonical_joinPhaser {s : State} (p mode : Nat) (data : Bool) (h : s.canonical) :
    (joinPhaser s p mode data).canonical := by
  grind [joinPhaser, canonical_updateData, canonical_setPhaser, canonical_iff]

theorem canonical_createPhaser {s : State} (p mode : Nat) (data : Bool) (h : s.canonical) :
    (createPhaser s p mode data).canonical := by
  grind [createPhaser, canonical_updateData, canonical_setPhaser, canonical_iff]

theorem canonical_execPhnew (st : BitVec 3) (d a : BitVec 5) {s : State} (h : s.canonical) :
    CanonicalNext (execPhnew st d a s) := by
  grind [execPhnew, canonical_createPhaser, Did.canonical, canonical_gate, canonical_operands,
    CanonicalNext, canonical_writeInterlocked]

theorem canonical_register (i : Instr) (mode : Nat) (d a b : BitVec 5) {s : State}
    (h : s.canonical) : (register i mode d a b s).canonical := by
  grind [register, Did.canonical, canonical_gate, canonical_phaserChecks, canonical_operands,
    canonical_joinPhaser, canonical_writeInterlocked]

theorem canonical_execPhdrop (st : BitVec 3) (a : BitVec 5) {s : State} (h : s.canonical) :
    CanonicalNext (execPhdrop st a s) := by
  fun_cases execPhdrop st a s
  grind [canonical_gate, canonical_phaserChecks, canonical_operands, CanonicalNext, Did.canonical,
    canonical_release, canonical_phDrop]

theorem canonical_signalPhaser {s : State} (m : Member) (h : s.canonical) :
    (signalPhaser s m).canonical := by
  grind [signalPhaser, canonical_phLower, canonical_setMember]

theorem canonical_execPhsig (st : BitVec 3) (a : BitVec 5) {s : State} (h : s.canonical) :
    CanonicalNext (execPhsig st a s) := by
  fun_cases execPhsig st a s
  grind [Did.canonical, canonical_updateData, canonical_signalPhaser, canonical_gate,
    canonical_phaserChecks, canonical_operands, CanonicalNext, canonical_release,
    canonical_phBefore]

theorem canonical_waitPhaser {s : State} (p : Nat) (h : s.canonical) :
    (waitPhaser s p).canonical := by
  grind [waitPhaser, Did.canonical, canonical_updateData, canonical_suspendHere,
    canonical_setMember, canonical_iff]

theorem canonical_execPhwait (st : BitVec 3) (a : BitVec 5) {s : State} (h : s.canonical) :
    CanonicalNext (execPhwait st a s) := by
  grind [execPhwait, canonical_waitPhaser, canonical_gate, canonical_phaserChecks,
    canonical_operands, CanonicalNext, canonical_phBefore]

theorem canonical_execPhnext (st : BitVec 3) (a : BitVec 5) {s : State} (h : s.canonical) :
    CanonicalNext (execPhnext st a s) := by
  fun_cases execPhnext st a s
  grind [Did.canonical, canonical_signalPhaser, canonical_waitPhaser, canonical_gate,
    canonical_phaserChecks, canonical_operands, CanonicalNext, canonical_release,
    canonical_phBefore]

theorem canonical_execPhlink (st : BitVec 3) (d a b : BitVec 5) {s : State} (h : s.canonical) :
    CanonicalNext (execPhlink st d a b s) := by
  grind [execPhlink, Did.canonical, canonical_gate, canonical_phaserChecks, canonical_operands,
    canonical_phFree, CanonicalNext, canonical_writeInterlocked, canonical_phUnlink,
    canonical_setPhaser]

theorem canonical_execPhqry (st : BitVec 3) (d a : BitVec 5) {s : State} (h : s.canonical) :
    CanonicalNext (execPhqry st d a s) := by
  grind [execPhqry, Did.canonical, canonical_gate, canonical_operands, CanonicalNext,
    canonical_writeInterlocked]

/-! ### The copy unit and message delivery -/

theorem canonical_setToken {s : State} (slot t n : Nat) (h : s.canonical) :
    (setToken s slot t n).canonical :=
  h.same

theorem canonical_takeToken {s u : State} (slot t : Nat) (h : s.canonical)
    (hu : takeToken s slot t = some u) : u.canonical := by
  grind [takeToken, canonical_setToken]

theorem canonical_commandSignal {s : State} (slot : Nat) (r : Role) (addr : BitVec 32)
    (w1 : InstrWord) (h : s.canonical) : (commandSignal s slot r addr w1).canonical := by
  grind [commandSignal, canonical_setToken, canonical_addPending]

theorem canonical_laterSignal {s : State} (slot : Nat) (r : Role) (addr : BitVec 32)
    (w1 : InstrWord) (h : s.canonical) : (laterSignal s slot r addr w1).canonical := by
  grind [laterSignal, canonical_modSlot, canonical_addPending]

theorem canonical_barWrite {s : State} (p : Place) (b : Bar) (slot dom : Nat) (h : s.canonical) :
    (barWrite s p b slot dom).canonical := by
  grind [barWrite, canonical_performWrites]

theorem canonical_modWaiters {s : State} (p : Place) (f : BarWait → BarWait) (h : s.canonical) :
    (modWaiters s p f).canonical :=
  h.same

theorem canonical_barRead {s : State} (p : Place) (slot dom : Nat) (h : s.canonical) :
    (barRead s p slot dom).1.canonical := by
  grind [barRead, canonical_readUnits, canonical_modWaiters, canonical_notePort]

theorem canonical_barTest {s : State} (p : Place) (b : Bar) (h : s.canonical) :
    (barTest s p b).1.canonical := by
  grind [barTest, canonical_modWaiters]

theorem canonical_modEntry {s : State} (slot id : Nat) (f : JEntry → JEntry) (h : s.canonical) :
    (modEntry s slot id f).canonical :=
  h.same

theorem canonical_finishCopy {s : State} (slot id code : Nat) (h : s.canonical) :
    (finishCopy s slot id code).canonical :=
  h.same

theorem canonical_unitPlace {s : State} (slot dom : Nat) (sup : Bool) (k : AccKind) (va : Word)
    (h : s.canonical) : (unitPlace s slot dom sup k va).1.canonical := by
  grind [unitPlace, canonical_translate, canonical_logError]

theorem canonical_destPlace {s : State} (slot : Nat) (e : JEntry) (o : Nat) (h : s.canonical) :
    (destPlace s slot e o).1.canonical := by
  grind [destPlace, canonical_unitPlace]

theorem canonical_checkUnits {s : State} (slot : Nat) (e : JEntry) (k : AccKind) (addr : Nat → Word)
    (o n : Nat) (allowed : State → Place → Bool) (h : s.canonical) :
    (checkUnits s slot e k addr o n allowed).1.canonical := by
  grind [checkUnits, canonical_foldl_fst, canonical_settleLine, canonical_logMmx, canonical_logBad,
    canonical_unitPlace, canonical_eccMeta]

theorem canonical_readUnitsAt {s : State} (slot : Nat) (e : JEntry) (addr : Nat → Word) (o n : Nat)
    (h : s.canonical) : (readUnitsAt s slot e addr o n).1.canonical := by
  grind [readUnitsAt, canonical_foldl_fst, canonical_performRead, canonical_unitPlace]

theorem canonical_writeUnmarked {s : State} (p : Place) (v slot dom : Nat) (h : s.canonical) :
    (writeUnmarked s p v slot dom).canonical := by
  unfold writeUnmarked
  split <;> grind [canonical_writeRaw, canonical_notePort, canonical_rawWrite, canonical_unitStore]

theorem canonical_writeUnitsAt {s : State} (slot : Nat) (e : JEntry) (o : Nat) (l : List Nat)
    (h : s.canonical) : (writeUnitsAt s slot e o l).1.canonical := by
  grind [writeUnitsAt, canonical_foldl_fst_fst, canonical_destPlace, canonical_writeUnmarked]

theorem canonical_homesOf {s : State} (slot : Nat) (e : JEntry) (len : Nat) (h : s.canonical) :
    (homesOf s slot e len).1.canonical := by
  grind [homesOf, canonical_foldl_fst, canonical_unitPlace]

theorem canonical_markUnits {s : State} (l : List (Nat × Place)) (len : Nat) (h : s.canonical) :
    (markUnits s l len).canonical := by
  grind [markUnits, canonical_foldl, canonical_setPend]

theorem canonical_checkDestination {s : State} (slot : Nat) (e : JEntry) (len : Nat)
    (h : s.canonical) : (checkDestination s slot e len).1.canonical := by
  grind [checkDestination, canonical_logError, canonical_checkUnits]

theorem canonical_markDestination {s : State} (slot : Nat) (e : JEntry) (len : Nat)
    (h : s.canonical) : (markDestination s slot e len).1.canonical := by
  grind [markDestination, canonical_checkDestination, canonical_homesOf, canonical_modEntry,
    canonical_markUnits]

theorem canonical_unmark {s : State} (slot : Nat) (e : JEntry) (h : s.canonical) :
    (unmark s slot e).canonical := by
  grind [unmark, canonical_foldl, canonical_setMeta, canonical_setPend, canonical_destPlace,
    canonical_wakeWriters]

theorem canonical_cmdInc {s : State} (c : Nat) (h : s.canonical) : (cmdInc s c).canonical := by
  grind [cmdInc, canonical_scopeInc]

theorem canonical_cmdDec {s : State} (c : Nat) (h : s.canonical) : (cmdDec s c).canonical := by
  grind [cmdDec, canonical_scopeDec]

theorem canonical_barrierPlace {s : State} (slot : Nat) (e : JEntry) (h : s.canonical) :
    (barrierPlace s slot e).1.canonical := by
  grind [barrierPlace, canonical_unitPlace, canonical_logError]

theorem canonical_settleBarrier {s : State} (slot : Nat) (e : JEntry) (h : s.canonical) :
    (settleBarrier s slot e).1.canonical := by
  grind [settleBarrier, canonical_barRead, canonical_barWrite, canonical_barrierPlace,
    canonical_barTest]

theorem canonical_logCodes {s : State} (slot dom jidx : Nat) (codes : List Nat) (h : s.canonical) :
    (logCodes s slot dom jidx codes).canonical := by
  grind [logCodes, canonical_foldl, canonical_takeFree, canonical_logError]

theorem canonical_settleEffects {s : State} (slot : Nat) (e : JEntry) (jidx : Nat)
    (h : s.canonical) : (settleEffects s slot e jidx).canonical := by
  grind [settleEffects, canonical_logCodes, canonical_unmark, canonical_settleBarrier]

theorem canonical_settleCopy {s : State} (slot : Nat) (e : JEntry) (h : s.canonical) :
    (settleCopy s slot e).canonical := by
  grind [settleCopy, canonical_modSlot, canonical_settleEffects, canonical_commandSignal,
    canonical_cmdDec]

theorem canonical_settleDue (slot : Nat) {s : State} (e : JEntry) (h : s.canonical) :
    (settleDue slot s e).canonical := by
  grind [settleDue, canonical_noteStall, canonical_settleCopy]

theorem canonical_execCopySettle {s : State} (h : s.canonical) :
    CanonicalNext (execCopySettle s) := by
  grind [execCopySettle, canonical_foldl, CanonicalNext, canonical_settleDue]

theorem canonical_kvResolve {s : State} (slot dom gbn : Nat) (h : s.canonical) :
    (kvResolve s slot dom gbn).1.canonical := by
  grind [kvResolve, canonical_readUnits]

theorem canonical_kvRemote {s : State} (dom pkg : Nat) (h : s.canonical) :
    (kvRemote s dom pkg).1.canonical := by
  grind [kvRemote, canonical_takeFree]

theorem canonical_kvBlock {s : State} (slot dom : Nat) (w : Word) (h : s.canonical) :
    (kvBlock s slot dom w).1.canonical := by
  grind [kvBlock, canonical_kvResolve, canonical_kvRemote]

theorem canonical_kvLog {s : State} (slot dom c : Nat) (va : Word) (h : s.canonical) :
    (kvLog s slot dom c va).canonical := by
  grind [kvLog, canonical_logError]

theorem canonical_kvTable {s : State} (slot : Nat) (e : JEntry) (j : Nat) (k : AccKind)
    (h : s.canonical) : (kvTable s slot e j k).1.canonical := by
  grind [kvTable, canonical_unitPlace, canonical_kvLog, canonical_readUnit]

theorem canonical_kvEntry {s : State} (slot : Nat) (e : JEntry) (j : Nat) (h : s.canonical) :
    (kvEntry s slot e j).1.canonical := by
  grind [kvEntry, canonical_kvTable, canonical_kvLog, canonical_kvBlock]

theorem canonical_kvMovePosition {s : State} (slot : Nat) (e : JEntry) (b : KvBlock) (p q : Nat)
    (h : s.canonical) : (kvMovePosition s slot e b p q).1.canonical := by
  grind [kvMovePosition, canonical_foldl_fst, canonical_performRead, canonical_performWrite,
    canonical_writeUnitsAt, canonical_readUnitsAt, canonical_checkUnits]

theorem canonical_kvMoveBlock {s : State} (slot : Nat) (e : JEntry) (h : s.canonical) :
    (kvMoveBlock s slot e).1.canonical := by
  have he := canonical_kvEntry slot e (e.vb.toNat / 64 + e.chunks) h
  unfold kvMoveBlock
  extract_lets j
  split
  · grind
  · next s1 b hb =>
    rw [hb] at he
    extract_lets p s2
    have h2 : s2.canonical := canonical_modEntry _ _ _ he
    clear_value s2
    split
    · exact he
    · clear he
      grind [canonical_foldl_fst_fst, canonical_kvMovePosition, canonical_modEntry,
        canonical_markDestination]

theorem State.canonical.withKvTails {s : State} (l : Sp Nat) (h : s.canonical) :
    { s with kvTails := l }.canonical :=
  h.same

theorem canonical_kvFree {s : State} (pa slot dom gbn : Nat) (e : BitVec 128) (h : s.canonical) :
    (kvFree s pa slot dom gbn e).canonical := by
  have h1 := canonical_performWrites (.deep pa) 16 (kvClean (e &&& ~~~(1#128 <<< 119)))
    (stampOrdered 0) slot dom h
  unfold kvFree
  generalize performWrites s _ _ _ _ _ _ = s1 at h1 ⊢
  refine State.canonical.withKvTails _ (canonical_performWrite _ _ _ _ _ _ ?_)
  split
  · exact h1
  · exact canonical_performWrite _ _ _ _ _ _ h1

theorem canonical_kvCount1 {s : State} (slot dom gbn : Nat) (b : KvBlock) (up : Bool)
    (h : s.canonical) : (kvCount1 s slot dom gbn b up).1.canonical := by
  grind [kvCount1, canonical_performWrites, canonical_kvFree]

theorem canonical_kvCountEntry {s : State} (slot : Nat) (e : JEntry) (h : s.canonical) :
    (kvCountEntry s slot e).1.canonical := by
  grind [kvCountEntry, canonical_kvTable, canonical_performWrite, canonical_kvLog,
    canonical_kvCount1, canonical_kvBlock]

theorem canonical_kvAdvance {s : State} (slot id code : Nat) (h : s.canonical) :
    (kvAdvance s slot id code).canonical := by
  grind [kvAdvance, canonical_finishCopy, canonical_modEntry]

theorem canonical_kvPart {s : State} (core q : Nat) (h : s.canonical) :
    (kvPart s core q).canonical := by
  grind [kvPart, canonical_finishCopy, canonical_kvCountEntry, canonical_kvMoveBlock,
    canonical_kvAdvance]

theorem canonical_execKvOwnerLookup (src : KvSource) {s : State} (h : s.canonical) :
    CanonicalNext (execKvOwnerLookup src s) := by
  unfold execKvOwnerLookup
  split <;> grind [canonical_kvPart, canonical_kvResolve, canonical_kvLog, CanonicalNext,
    canonical_kvCount1]

theorem canonical_putPayload {s : State} (cl dom : Nat) (buf : Word) (l : List Nat)
    (h : s.canonical) : (putPayload s cl dom buf l).1.canonical := by
  grind [putPayload, canonical_foldl_fst, canonical_performWrite, canonical_translate,
    canonical_logError, canonical_unitStore]

theorem canonical_deliverMessage {s : State} (ref : RecRef) (handler : Word) (l : List Nat)
    (msg : Option (Nat × Nat)) (h : s.canonical) :
    (deliverMessage s ref handler l msg).1.canonical := by
  have hc := canonical_recCheck ref.pa noSlot ref.dom h
  unfold deliverMessage
  extract_lets +onlyGivenNames pa len
  split
  next s0 bad hb =>
    replace hc : s0.canonical := by rw [hb] at hc; exact hc
    split
    · exact hc
    split
    · exact hc
    split
    · exact hc
    extract_lets buf cl s1 s2 s3 s4 s5 s6 r
    have h2 : s2.canonical := canonical_putPayload _ _ _ _ (canonical_recStateHw _ _ hc)
    clear_value s2
    have h5 : s5.canonical := canonical_recPutHw pa 32 8 len (canonical_recPutHw pa 24 8 buf.toNat
      (canonical_recPutHw pa 4 4 (handler.toNat % 2 ^ 32) h2))
    clear_value s5
    have h6 : s6.canonical :=
      canonical_ite (canonical_countAccepted _ h5) (canonical_uncountDormant _ h5)
    have hr : r.1.canonical := canonical_admitKept _ _ _ h6
    generalize r = q at hr ⊢
    obtain ⟨a, b⟩ := q
    exact hr

theorem canonical_deliverRemote {s : State} (pkg pa : Nat) (handler : Word) (l : List Nat)
    (h : s.canonical) : (deliverRemote s pkg pa handler l).1.canonical := by
  grind [deliverRemote, canonical_foldl_fst, canonical_takeFree, canonical_rawWrite]

theorem canonical_sendMessage {s : State} (slot : Nat) (e : JEntry) (h : s.canonical) :
    (sendMessage s slot e).1.canonical := by
  grind [sendMessage, canonical_translate, canonical_deliverRemote, canonical_readUnitsAt,
    canonical_logError, canonical_deliverMessage, canonical_checkUnits]

theorem canonical_messagePart {s : State} (slot : Nat) (e : JEntry) (h : s.canonical) :
    (messagePart s slot e).canonical := by
  grind [messagePart, canonical_finishCopy, canonical_modEntry, canonical_sendMessage]

theorem canonical_execMessageDelivery (src : MsgSource) {s : State} (h : s.canonical) :
    CanonicalNext (execMessageDelivery src s) := by
  unfold execMessageDelivery
  split <;> grind [CanonicalNext, canonical_deliverMessage, canonical_messagePart]

theorem canonical_loadTable {s : State} (slot : Nat) (e : JEntry) (h : s.canonical) :
    (loadTable s slot e).1.canonical := by
  grind [loadTable, canonical_readUnitsAt, canonical_iff]

theorem canonical_beginCopy {s : State} (slot : Nat) (e : JEntry) (h : s.canonical) :
    (beginCopy s slot e).canonical := by
  grind [beginCopy, canonical_finishCopy, canonical_modEntry, canonical_markDestination]

theorem canonical_readJournal {s : State} (slot : Nat) (e : JEntry) (h : s.canonical) :
    (readJournal s slot e).1.canonical := by
  grind [readJournal, canonical_finishCopy, canonical_logFlips, canonical_modEntry]

theorem canonical_startCopy {s0 : State} (core q : Nat) (h : s0.canonical) :
    (startCopy s0 core q).canonical := by
  grind [startCopy, canonical_takeToken, canonical_modSlot, canonical_beginCopy,
    canonical_readJournal, canonical_modEntry]

theorem canonical_copyChunk {s : State} (slot : Nat) (e : JEntry) (h : s.canonical) :
    (copyChunk s slot e).canonical := by
  grind [copyChunk, canonical_finishCopy, canonical_writeUnitsAt, canonical_noteStall,
    canonical_readUnitsAt, canonical_modEntry, canonical_checkUnits]

theorem canonical_copyPart {s0 : State} (core q : Nat) (h : s0.canonical) :
    (copyPart s0 core q).canonical := by
  grind [copyPart, canonical_kvPart, canonical_finishCopy, canonical_copyChunk, canonical_loadTable,
    canonical_readJournal, canonical_iff]

/-! ### Tokens, barriers and the instructions that push copies -/

theorem canonical_execTksig (st : BitVec 3) (n : BitVec 4) {s : State} (h : s.canonical) :
    CanonicalNext (execTksig st n s) := by
  grind [execTksig, Did.canonical, canonical_gate, canonical_modSlot, CanonicalNext,
    canonical_release]

theorem canonical_execTkwait (st : BitVec 3) (n : BitVec 4) {s : State} (h : s.canonical) :
    CanonicalNext (execTkwait st n s) := by
  grind [execTkwait, Did.canonical, canonical_gate, canonical_modSlot, CanonicalNext]

theorem canonical_checkBarrier {s : State} (va : Word) (k : AccKind) {next : State → Place → Did}
    (h : s.canonical) (hnext : ∀ t p, t.canonical → (next t p).canonical) :
    (checkBarrier s va k next).canonical := by
  grind [checkBarrier, Did.canonical, canonical_translate, canonical_logXlate]

theorem canonical_updateBarrier {s : State} (va : Word) {next : State → Place → Bar → Did}
    (h : s.canonical) (hnext : ∀ t p b, t.canonical → (next t p b).canonical) :
    (updateBarrier s va next).canonical := by
  grind [updateBarrier, Did.canonical, canonical_barRead, canonical_checkBarrier,
    canonical_noteStall, canonical_release]

theorem canonical_execTbinit (st : BitVec 3) (a b : BitVec 5) {s : State} (h : s.canonical) :
    CanonicalNext (execTbinit st a b s) := by
  grind [execTbinit, Did.canonical, canonical_gate, canonical_operands, CanonicalNext,
    canonical_barWrite, canonical_checkBarrier, canonical_noteStall, canonical_release]

theorem canonical_postExpect {s : State} (va : Word) (p : Place) (b : Bar) (n : Nat)
    {next : State → Did} (h : s.canonical) (hnext : ∀ t, t.canonical → (next t).canonical) :
    (postExpect s va p b n next).canonical := by
  grind [postExpect, Did.canonical, canonical_barWrite]

theorem canonical_execTbexp (st : BitVec 3) (a b : BitVec 5) {s : State} (h : s.canonical) :
    CanonicalNext (execTbexp st a b s) := by
  grind [execTbexp, canonical_updateBarrier, canonical_gate, canonical_postExpect,
    canonical_operands, CanonicalNext, Did.canonical]

theorem canonical_execTbarv (st : BitVec 3) (d a b : BitVec 5) {s : State} (h : s.canonical) :
    CanonicalNext (execTbarv st d a b s) := by
  grind [execTbarv, Did.canonical, canonical_updateBarrier, canonical_gate, canonical_operands,
    CanonicalNext, canonical_barWrite, canonical_writeInterlocked, canonical_barTest]

theorem canonical_endWait {s : State} (h : s.canonical) : (endWait s).canonical := h.same

theorem canonical_finishWait {s : State} (d : BitVec 5) (va : Word) (p : Place) (h : s.canonical) :
    (finishWait s d va p).canonical := by
  grind [finishWait, canonical_endWait, Did.canonical, canonical_barRead,
    canonical_writeInterlocked]

theorem canonical_startWait {s : State} (d : BitVec 5) (va : Word) (phase : Nat) (h : s.canonical) :
    (startWait s d va phase).canonical := by
  grind [startWait, Did.canonical, canonical_barRead, canonical_finishWait, canonical_checkBarrier,
    canonical_modMe]

theorem canonical_execTbwait (st : BitVec 3) (d a b : BitVec 5) {s : State} (h : s.canonical) :
    CanonicalNext (execTbwait st d a b s) := by
  grind [execTbwait, Did.canonical, canonical_endWait, canonical_finishWait, canonical_gate,
    canonical_operands, canonical_trapFree, CanonicalNext, canonical_startWait]

theorem canonical_execTbwaitPoll {s : State} (h : s.canonical) :
    CanonicalNext (execTbwaitPoll s) := by
  grind [execTbwaitPoll, canonical_barRead, CanonicalNext, canonical_modMe]

theorem canonical_awaitReply {s : State} (lat : Nat) (h : s.canonical) :
    (awaitReply s lat).canonical := by
  grind [awaitReply, canonical_dueIn, canonical_modMe]

theorem canonical_enterCopy {s : State} (i : Instr) (v : List Word) (map : BitVec 512)
    (h : s.canonical) : (enterCopy s i v map).canonical := by
  grind [enterCopy, canonical_modSlot, canonical_cmdInc, canonical_takeSeq]

theorem canonical_checkOwnBarrier {s : State} (x : ExOps) (exp : Bool) (c : Word)
    {next : State → Option Place → Did} (h : s.canonical)
    (hnext : ∀ t p, t.canonical → (next t p).canonical) :
    (checkOwnBarrier s x exp c next).canonical := by
  grind [checkOwnBarrier, Did.canonical, canonical_checkBarrier]

theorem canonical_postOwn {s : State} (c : Word) (bar : Option Place) (len : Nat)
    {next : State → Did} (h : s.canonical) (hnext : ∀ t, t.canonical → (next t).canonical) :
    (postOwn s c bar len next).canonical := by
  unfold postOwn
  split <;> grind [Did.canonical, canonical_barRead, canonical_postExpect, canonical_awaitReply,
    canonical_noteStall, canonical_release]

theorem canonical_pushCopy (i : Instr) (x : ExOps) (copy sup : Bool)
    {own : State → List Word → (State → BitVec 512 → Nat → Did) → Did} {s : State}
    (hown : ∀ t v k, t.canonical → (∀ u w n, u.canonical → (k u w n).canonical) →
      (own t v k).canonical)
    (h : s.canonical) : (pushCopy i x copy sup own s).canonical := by
  fun_cases pushCopy i x copy sup own s
  grind [Did.canonical, canonical_gate, canonical_operands, canonical_checkOwnBarrier,
    canonical_postOwn, canonical_enterCopy]

theorem canonical_multipleOf (n : Nat) (w : Word) {s : State} {next : Did} (h : s.canonical)
    (hnext : next.canonical) : (multipleOf n w s next).canonical := by
  grind [multipleOf, Did.canonical]

theorem canonical_execCpy (st : BitVec 3) (x : ExOps) {s : State} (h : s.canonical) :
    CanonicalNext (execCpy st x s) := by
  grind [execCpy, Did.canonical, canonical_multipleOf, CanonicalNext, canonical_pushCopy]

theorem canonical_readMap {s : State} (va : Word) {next : State → BitVec 512 → Did}
    (h : s.canonical) (hnext : ∀ t w, t.canonical → (next t w).canonical) :
    (readMap s va next).canonical := by
  grind [readMap, Did.canonical, canonical_readUnits, canonical_performedLine, canonical_awaitReply,
    canonical_checkAddress]

theorem canonical_execCpyt (st : BitVec 3) (x : ExOps) {s : State} (h : s.canonical) :
    CanonicalNext (execCpyt st x s) := by
  grind [execCpyt, canonical_readMap, canonical_multipleOf, CanonicalNext, canonical_pushCopy]

theorem canonical_execKvget (st : BitVec 3) (x : ExOps) {s : State} (h : s.canonical) :
    CanonicalNext (execKvget st x s) := by
  grind [execKvget, CanonicalNext, canonical_pushCopy]

theorem canonical_execKvputStore (st : BitVec 3) (x : ExOps) {s : State} (h : s.canonical) :
    CanonicalNext (execKvputStore st x s) := by
  grind [execKvputStore, CanonicalNext, canonical_pushCopy]

theorem canonical_execKvputRetain (st : BitVec 3) (x : ExOps) {s : State} (h : s.canonical) :
    CanonicalNext (execKvputRetain st x s) := by
  grind [execKvputRetain, CanonicalNext, canonical_pushCopy]

theorem canonical_execKvputRelease (st : BitVec 3) (x : ExOps) {s : State} (h : s.canonical) :
    CanonicalNext (execKvputRelease st x s) := by
  grind [execKvputRelease, CanonicalNext, canonical_pushCopy]

theorem canonical_execMsg (st : BitVec 3) (x : ExOps) {s : State} (h : s.canonical) :
    CanonicalNext (execMsg st x s) := by
  grind [execMsg, Did.canonical, canonical_multipleOf, CanonicalNext, canonical_pushCopy]

theorem canonical_execDtld (st : BitVec 3) (x : ExOps) {s : State} (h : s.canonical) :
    CanonicalNext (execDtld st x s) := by
  grind [execDtld, Did.canonical, canonical_multipleOf, CanonicalNext, canonical_translate,
    canonical_pushCopy]

/-! ### Reads of a saved image -/

theorem canonical_checkRow {s : State} (slot n : Nat) (h : s.canonical) :
    (checkRow s slot n).canonical := by
  grind [checkRow, canonical_foldl, canonical_logWordErr, canonical_modSlot]

theorem canonical_checkTile {s : State} (slot n : Nat) (h : s.canonical) :
    (checkTile s slot n).canonical := by
  grind [checkTile, canonical_foldl, canonical_logWordErr, canonical_modSlot]

/-! ### Cancellation -/

theorem canonical_completeEmpty {s : State} (c : Nat) (h : s.canonical) :
    (completeEmpty s c).canonical := by
  grind [completeEmpty, canonical_scopeDec, canonical_setScope]

theorem canonical_imageRead {s : State} (base i slot dom : Nat) (h : s.canonical) :
    (imageRead s base i slot dom).1.canonical := by
  grind [imageRead, canonical_eccUnit]

theorem canonical_checkEntry {s : State} (base k slot dom : Nat) (h : s.canonical) :
    (checkEntry s base k slot dom).1.canonical := by
  grind [checkEntry, canonical_foldl_fst, canonical_imageRead]

theorem canonical_dropHeld {s : State} (base k slot : Nat) (sup : Bool) (pa : Nat)
    (h : s.canonical) : (dropHeld s base k slot sup pa).canonical := by
  unfold dropHeld
  split <;> grind [canonical_checkEntry, canonical_settleEffects, canonical_cmdDec]

theorem canonical_dropImage {s : State} (cl : Nat) (core : Option Nat) (sup : Bool) (pa : Nat)
    (h : s.canonical) : (dropImage s cl core sup pa).canonical := by
  fun_cases dropImage s cl core sup pa
  grind [canonical_foldl, canonical_modCluster, canonical_imageRead, canonical_dropHeld,
    canonical_listAppend, canonical_cmdDec, canonical_iff]

theorem canonical_removeRecord {s : State} (cl : Nat) (core : Option Nat) (ref : RecRef)
    (h : s.canonical) : (removeRecord s cl core ref).canonical := by
  grind [removeRecord, canonical_phDropAll, canonical_dropImage, canonical_scopeDec,
    canonical_launchExit, canonical_recSetState]

theorem canonical_dropRecords {s : State} (cl : Nat) (l : List RecRef) (h : s.canonical) :
    (dropRecords s cl l).canonical := by
  grind [dropRecords, canonical_foldl, canonical_refillResume, canonical_settleMsg,
    canonical_modCluster]

theorem canonical_cancelCluster {s : State} (dead : List Nat) (cl : Nat) (h : s.canonical) :
    (cancelCluster s dead cl).canonical := by
  grind [cancelCluster, canonical_foldl, canonical_dropRecords, canonical_removeRecord]

theorem canonical_cancelWaiting {s : State} (dead : List Nat) (h : s.canonical) :
    (cancelWaiting s dead).canonical := by
  grind [cancelWaiting, canonical_foldl, canonical_removeRecord, canonical_iff]

theorem canonical_discardCmd {s : State} (m : Cmd) (r : Role) (h : s.canonical) :
    (discardCmd s m r).canonical := by
  grind [discardCmd, canonical_cmdDec, canonical_laterSignal]

theorem canonical_cancelQueues {s : State} (dead : List Nat) (core : Nat) (h : s.canonical) :
    (cancelQueues s dead core).canonical := by
  grind [cancelQueues, canonical_foldl, canonical_modCore, canonical_discardCmd, canonical_modSlot]

theorem canonical_cancelCopies {s : State} (dead : List Nat) (slot : Nat) (h : s.canonical) :
    (cancelCopies s dead slot).canonical := by
  grind [cancelCopies, canonical_foldl, canonical_modEntry]

theorem canonical_cancelStrand {s : State} (dead : List Nat) (slot : Nat) (h : s.canonical) :
    (cancelStrand s dead slot).canonical := by
  grind [cancelStrand, canonical_modSlot]

theorem canonical_cancelScope {s : State} (c : Nat) (h : s.canonical) :
    (cancelScope s c).canonical := by
  grind [cancelScope, canonical_foldl, canonical_completeEmpty, canonical_cancelCopies,
    canonical_cancelQueues, canonical_cancelWaiting, canonical_setScope, canonical_cancelStrand,
    canonical_cancelCluster, canonical_iff]

theorem canonical_execKillPointStop {s : State} (h : s.canonical) :
    CanonicalNext (execKillPointStop s) := by
  grind [execKillPointStop, canonical_vacate, canonical_dropImage, CanonicalNext, canonical_recPut,
    canonical_dropSuspension, canonical_strandGone]

theorem canonical_execCancel (st : BitVec 3) (a : BitVec 5) {s : State} (h : s.canonical) :
    CanonicalNext (execCancel st a s) := by
  grind [execCancel, Did.canonical, canonical_cancelScope, canonical_gate, canonical_operands,
    CanonicalNext, canonical_release]

/-! ### Commands of the engines -/

theorem canonical_pushCmd {s : State} (m : Cmd) (h : s.canonical) : (pushCmd s m).canonical := by
  grind [pushCmd, canonical_modCore, canonical_cmdInc]

theorem canonical_checkOffset {s : State} (o : Word) (n : Nat) {next : State → Did}
    (h : s.canonical) (hnext : ∀ t, t.canonical → (next t).canonical) :
    (checkOffset s o n next).canonical := by
  grind [checkOffset, Did.canonical, canonical_logXlate]

theorem canonical_pushNullified (i : Instr) (engine : Nat) (uses : State → Cmd → Cmd) {s : State}
    (h : s.canonical) : (pushNullified i engine uses s).canonical := by
  grind [pushNullified, canonical_pushCmd, canonical_takeSeq]

theorem canonical_pushEngine (i : Instr) (engine : Nat) (ok : Bool) (srcs : List (BitVec 5))
    (uses : State → Cmd → Cmd) (needs : State → Cmd → List Need) (pre : Cmd → Option (Nat × Word))
    {post : State → Cmd → (State → Did) → Did} {s : State}
    (hpost : ∀ t m k, t.canonical → (∀ u, u.canonical → (k u).canonical) → (post t m k).canonical)
    (h : s.canonical) : (pushEngine i engine ok srcs uses needs pre post s).canonical := by
  grind [pushEngine, Did.canonical, canonical_pushNullified, canonical_gate, canonical_operands,
    canonical_pushCmd, canonical_takeSeq]

theorem canonical_mendLines {s : State} (m : Cmd) (off len : Nat) (touched : Nat → Bool)
    (h : s.canonical) : (mendLines s m off len touched).canonical := by
  grind [mendLines, canonical_foldl, canonical_eccMeta]

theorem canonical_performStore {s : State} (m : Cmd) (off len : Nat) (v : Tile) (bytes : Row)
    (h : s.canonical) : (performStore s m off len v bytes).canonical := by
  grind [performStore, canonical_foldl, canonical_performWrite]

theorem canonical_orFlags {s : State} (slot : Nat) (f : BitVec 6) (h : s.canonical) :
    (orFlags s slot f).canonical :=
  h.same

theorem canonical_logCommand {s : State} (m : Cmd) (code : Nat) (off : Option Word)
    (h : s.canonical) : (logCommand s m code off).canonical := by
  grind [logCommand, canonical_takeFree, canonical_logError]

theorem canonical_noteMoved {s : State} (slot : Nat) (h : s.canonical) :
    (s.noteMoved slot).canonical :=
  h.same

theorem canonical_finishCmd {s : State} (m : Cmd) (h : s.canonical) :
    (finishCmd s m).canonical := by
  grind [finishCmd, canonical_noteMoved, canonical_commandSignal, canonical_cmdDec]

theorem canonical_mixUnits {w : Nat} {s : State} (k : Nat) (old new : BitVec w) (h : s.canonical) :
    (mixUnits s k old new).1.canonical :=
  h.same

theorem canonical_mixAll {w : Nat} {s : State} (k : Nat) (old : BitVec w) (news : List (BitVec w))
    (h : s.canonical) : (mixAll s k old news).1.canonical := by
  grind [mixAll, canonical_foldl_fst, canonical_mixUnits]

theorem canonical_engineTrap {s : State} (m : Cmd) (cause : Nat) (tval : Word) (h : s.canonical) :
    (engineTrap s m cause tval).canonical :=
  h.same

theorem canonical_notePorts {s : State} (core off len : Nat) (h : s.canonical) :
    (notePorts s core off len).canonical := by
  grind [notePorts, canonical_foldl, canonical_notePort]

theorem canonical_readSpad {s : State} (m : Cmd) (off len : Nat) (h : s.canonical) :
    (readSpad s m off len).1.canonical := by
  grind [readSpad, canonical_logMmx, canonical_readUnits, canonical_notePorts, canonical_mendLines]

theorem canonical_readCmd {s : State} (m : Cmd) (h : s.canonical) : (readCmd s m).1.canonical := by
  grind [readCmd, canonical_logFlips]

theorem canonical_consumeToken {s : State} (m : Cmd) (h : s.canonical) :
    (consumeToken s m).canonical := by
  unfold consumeToken
  split
  · next t _ =>
    split_ifs
    · exact h
    · cases hu : takeToken s m.slot t with
      | none => exact h
      | some u => exact canonical_takeToken _ _ h hu
  · exact h

/-! ### Vector instructions -/

theorem canonical_pushVec (i : Instr) (ok : Bool) (srcs : List (BitVec 5))
    {post : State → Cmd → (State → Did) → Did} {s : State}
    (hpost : ∀ t m k, t.canonical → (∀ u, u.canonical → (k u).canonical) → (post t m k).canonical)
    (h : s.canonical) : CanonicalNext (pushVec i ok srcs post s) := by
  grind [pushVec, canonical_pushEngine, CanonicalNext]

theorem canonical_noCheck {s : State} (c : Cmd) {next : State → Did} (h : s.canonical)
    (hnext : ∀ t, t.canonical → (next t).canonical) :
    (noCheck s c next).canonical :=
  hnext s h

theorem canonical_pushPlain (i : Instr) {s : State} (h : s.canonical) :
    CanonicalNext (pushPlain i s) := by
  grind [pushPlain, canonical_pushVec, canonical_noCheck]

theorem canonical_pushOffset (i : Instr) (field : BitVec 8) (n : Nat) {s : State}
    (h : s.canonical) : CanonicalNext (pushOffset i field n s) := by
  grind [pushOffset, canonical_pushVec, canonical_checkOffset]

theorem canonical_checkPart (limit : Cmd → Nat) {s : State} (m : Cmd) {next : State → Did}
    (h : s.canonical) (hnext : ∀ t, t.canonical → (next t).canonical) :
    (checkPart limit s m next).canonical := by
  grind [checkPart, canonical_trapFree]

theorem canonical_execVcvt (st : BitVec 3) (v : VxOps) {s : State} (h : s.canonical) :
    CanonicalNext (execVcvt st v s) := by
  grind [execVcvt, canonical_pushVec, canonical_checkPart]

theorem canonical_execVqnt (st : BitVec 3) (v : VxOps) {s : State} (h : s.canonical) :
    CanonicalNext (execVqnt st v s) := by
  grind [execVqnt, canonical_pushVec, canonical_checkPart]

theorem canonical_deqCheck {s : State} (m : Cmd) {next : State → Did} (h : s.canonical)
    (hnext : ∀ t, t.canonical → (next t).canonical) : (deqCheck s m next).canonical := by
  grind [deqCheck, canonical_trapFree]

theorem canonical_execVdeq (st : BitVec 3) (v : VxOps) {s : State} (h : s.canonical) :
    CanonicalNext (execVdeq st v s) := by
  grind [execVdeq, canonical_pushVec, canonical_deqCheck]

/-! ### Matrix instructions and their runs -/

theorem canonical_pushMx (i : Instr) (ok : Bool) (srcs : List (BitVec 5))
    (pre : Cmd → Option (Nat × Word)) {post : State → Cmd → (State → Did) → Did} {s : State}
    (hpost : ∀ t m k, t.canonical → (∀ u, u.canonical → (k u).canonical) → (post t m k).canonical)
    (h : s.canonical) : CanonicalNext (pushMx i ok srcs pre post s) := by
  grind [pushMx, canonical_pushEngine, CanonicalNext]

theorem canonical_execMlds (st : BitVec 3) (m : MxOps) {s : State} (h : s.canonical) :
    CanonicalNext (execMlds st m s) := by
  grind [execMlds, canonical_checkOffset, canonical_pushMx]

theorem canonical_mstrCheck {s : State} (c : Cmd) {next : State → Did} (h : s.canonical)
    (hnext : ∀ t, t.canonical → (next t).canonical) : (mstrCheck s c next).canonical := by
  grind [mstrCheck, canonical_checkOffset, Did.canonical]

theorem canonical_execMstr (st : BitVec 3) (m : MxOps) {s : State} (h : s.canonical) :
    CanonicalNext (execMstr st m s) := by
  grind [execMstr, canonical_pushMx, canonical_mstrCheck]

theorem canonical_ocmpCheck {s : State} (c : Cmd) {next : State → Did} (h : s.canonical)
    (hnext : ∀ t, t.canonical → (next t).canonical) : (ocmpCheck s c next).canonical := by
  grind [ocmpCheck, Did.canonical, canonical_trapFree]

theorem canonical_execOcmp (st : BitVec 3) (m : MxOps) {s : State} (h : s.canonical) :
    CanonicalNext (execOcmp st m s) := by
  grind [execOcmp, canonical_pushMx, canonical_ocmpCheck]

theorem canonical_outerRow {s : State} (slot n : Nat) (h : s.canonical) :
    (outerRow s slot n).1.canonical := by
  grind [outerRow, canonical_mixUnits]

theorem canonical_checkPlane {s : State} (m : Cmd) (h : s.canonical) :
    (checkPlane s m).1.canonical := by
  grind [checkPlane, canonical_foldl, canonical_logWordErr, canonical_modCore]

theorem canonical_readPart {s : State} (r : Run) (h : s.canonical) :
    (readPart s r).1.canonical := by
  grind [readPart, canonical_readSpad, canonical_checkPlane]

theorem canonical_beginLoad {s : State} (m : Cmd) (r : Run) (h : s.canonical) :
    (beginLoad s m r).1.canonical := by
  grind [beginLoad, canonical_readPart]

theorem canonical_beginFlip {s : State} (m : Cmd) (r : Run) (h : s.canonical) :
    (beginFlip s m r).1.canonical := by
  grind [beginFlip, canonical_modCore]

theorem canonical_beginStream {s : State} (m : Cmd) (r0 : Run) (h : s.canonical) :
    (beginStream s m r0).1.canonical := by
  grind [beginStream, canonical_foldl, canonical_readPart, canonical_checkRow, canonical_checkPlane]

theorem canonical_beginKeys {s : State} (m : Cmd) (r : Run) (h : s.canonical) :
    (beginKeys s m r).1.canonical := by
  grind [beginKeys, canonical_checkRow, canonical_outerRow]

theorem canonical_beginCompare {s : State} (m : Cmd) (r : Run) (h : s.canonical) :
    (beginCompare s m r).1.canonical := by
  grind [beginCompare, canonical_checkRow, canonical_outerRow]

theorem canonical_beginPreds {s : State} (m : Cmd) (r : Run) (h : s.canonical) :
    (beginPreds s m r).1.canonical := by
  grind [beginPreds, canonical_mixAll]

theorem canonical_beginMx {s : State} (m : Cmd) (h : s.canonical) : (beginMx s m).1.canonical := by
  grind [beginMx, canonical_beginCompare, canonical_beginPreds, canonical_beginKeys,
    canonical_beginFlip, canonical_beginLoad, canonical_beginStream]

theorem canonical_poisonMx {s : State} (m : Cmd) (h : s.canonical) : (poisonMx s m).canonical := by
  grind [poisonMx, canonical_modCore, canonical_modSlot]

theorem canonical_failMx {s : State} (r : Run) (h : s.canonical) : (failMx s r).canonical := by
  grind [failMx, canonical_modSlot, canonical_logCommand, canonical_finishCmd, canonical_poisonMx,
    canonical_engineTrap]

theorem canonical_shareTiles {s : State} (r : Run) (h : s.canonical) :
    (shareTiles s r).canonical := by
  grind [shareTiles, canonical_modCore, canonical_takeFree]

theorem canonical_completeMx {s : State} (r : Run) (h : s.canonical) :
    (completeMx s r).canonical := by
  grind [completeMx, canonical_modCore, canonical_modSlot, canonical_shareTiles, canonical_failMx,
    canonical_finishCmd, canonical_orFlags]

theorem canonical_modRun {s : State} (core seq : Nat) (f : Run → Run) (h : s.canonical) :
    (modRun s core seq f).canonical := by
  grind [modRun, canonical_modCore]

theorem canonical_baseRow {s : State} (r : Run) (n : Nat) (h : s.canonical) :
    (baseRow s r n).1.canonical := by
  grind [baseRow, canonical_mixAll]

theorem canonical_keepRow {s : State} (r : Run) (n : Nat) (sectors : BitVec 16) (h : s.canonical) :
    (keepRow s r n sectors).canonical := by
  grind [keepRow, canonical_modCore]

theorem canonical_landOneRow {s : State} (core : Nat) (r : Run) (n : Nat) (acts : BitVec 6144)
    (h : s.canonical) : (landOneRow s core r n acts).canonical := by
  grind [landOneRow, canonical_baseRow, canonical_keepRow, canonical_modRun, canonical_modSlot]

theorem canonical_stepRun {s : State} (core seq : Nat) (h : s.canonical) :
    (stepRun s core seq).canonical := by
  grind [stepRun, canonical_foldl, canonical_completeMx, canonical_modRun, canonical_landOneRow]

theorem canonical_execMatrixCommandComplete {s : State} (h : s.canonical) :
    CanonicalNext (execMatrixCommandComplete s) := by
  grind [execMatrixCommandComplete, canonical_foldl, canonical_readPart, canonical_modRun,
    canonical_modCore, CanonicalNext, canonical_stepRun]

theorem canonical_startMx {s : State} (m : Cmd) (rest : List Cmd) (h : s.canonical) :
    (startMx s m rest).canonical := by
  grind [startMx, canonical_beginMx, canonical_blockWords, canonical_modCore, canonical_readCmd,
    canonical_stepRun, canonical_noteMoved, canonical_consumeToken, canonical_iff]

theorem canonical_execMatrixCommandStart {s : State} (h : s.canonical) :
    CanonicalNext (execMatrixCommandStart s) := by
  grind [execMatrixCommandStart, CanonicalNext, canonical_startMx]

/-! ### Vector commands -/

theorem canonical_mixRead {acc : State × Slot} (o : Obj) (hacc : acc.1.canonical) :
    (mixRead acc o).1.canonical := by
  unfold mixRead
  split
  grind [canonical_mixAll, canonical_mixUnits]

theorem canonical_checkRead (slot : Nat) {s : State} (o : Obj) (h : s.canonical) :
    (checkRead slot s o).canonical := by
  unfold checkRead
  split <;> grind [canonical_checkTile, canonical_checkRow]

theorem canonical_seenBy {s : State} (m : Cmd) (before : List Eff) (h : s.canonical) :
    (seenBy s m before).1.canonical := by
  grind [seenBy, canonical_foldl, canonical_foldl_fst, canonical_checkRead, canonical_mixRead,
    canonical_iff]

theorem canonical_beginRun {s : State} (x : Slot) (m : Cmd) (pipes lat : Nat) (h : s.canonical) :
    (beginRun s x m pipes lat).1.canonical := by
  grind [beginRun, canonical_readSpad]

theorem canonical_startVec {s : State} (m : Cmd) (before : List Eff) (pipes lat order : Nat)
    (h : s.canonical) : (startVec s m before pipes lat order).1.canonical := by
  grind [startVec, canonical_blockWords, canonical_modCore, canonical_readCmd, canonical_noteMoved,
    canonical_consumeToken, canonical_seenBy, canonical_beginRun]

theorem canonical_startAlone {s : State} (m : Cmd) (used : Nat) (free0 free1 : Bool)
    (h : s.canonical) : (startAlone s m used free0 free1).1.canonical := by
  grind [startAlone, canonical_startVec]

theorem canonical_startSlot {s : State} (k used : Nat) (h : s.canonical) :
    (startSlot s k used).1.canonical := by
  grind [startSlot, canonical_startAlone, canonical_startVec]

theorem canonical_execVectorCommandStart {s : State} (h : s.canonical) :
    CanonicalNext (execVectorCommandStart s) := by
  grind [execVectorCommandStart, canonical_foldl_fst, canonical_startSlot, CanonicalNext]

theorem canonical_poisonTarget {s : State} (m : Cmd) (h : s.canonical) :
    (poisonTarget s m).canonical :=
  h.same

theorem canonical_failVec {s : State} (m : Cmd) (fault : Nat) (tval : Word) (h : s.canonical) :
    (failVec s m fault tval).canonical := by
  grind [failVec, canonical_poisonTarget, canonical_modSlot, canonical_logCommand,
    canonical_finishCmd, canonical_engineTrap]

theorem canonical_storeEff {s : State} (m : Cmd) (off len : Nat) (v : Tile) (bytes : Row)
    (h : s.canonical) : (storeEff s m off len v bytes).1.canonical := by
  grind [storeEff, canonical_foldl, canonical_settleLine, canonical_logMmx, canonical_performStore,
    canonical_logBad, canonical_mendLines]

theorem canonical_noteOlds {s : State} (slot n : Nat) (new : Row) (h : s.canonical) :
    (noteOlds s slot n new).canonical := by
  grind [noteOlds, canonical_modCore]

theorem canonical_shareOuter {s : State} (slot n : Nat) (h : s.canonical) :
    (shareOuter s slot n).canonical := by
  grind [shareOuter, canonical_modCore, canonical_takeFree]

theorem canonical_beforeEff {s : State} (slot : Nat) (e : Eff) (h : s.canonical) :
    (beforeEff s slot e).canonical := by
  unfold beforeEff
  split <;> grind [canonical_noteOlds, canonical_shareOuter]

theorem canonical_landEffs {s : State} (m : Cmd) (l : List Eff) (h : s.canonical) :
    (landEffs s m l).1.canonical := by
  grind [landEffs, canonical_foldl_fst, canonical_beforeEff, canonical_modSlot, canonical_storeEff]

theorem canonical_landVec {s : State} (r : Run) (h : s.canonical) : (landVec s r).canonical := by
  grind [landVec, canonical_failVec, canonical_landEffs, canonical_finishCmd, canonical_orFlags]

theorem canonical_execVectorCommandLand {s : State} (h : s.canonical) :
    CanonicalNext (execVectorCommandLand s) := by
  grind [execVectorCommandLand, canonical_foldl, canonical_modCore, CanonicalNext,
    canonical_landVec]

/-! ### System registers, journal, replay, checkpoints and TLB invalidation -/

theorem canonical_execEret (st : BitVec 3) {s : State} (h : s.canonical) :
    CanonicalNext (execEret st s) := by
  grind [execEret, canonical_returnFromTrap, Did.canonical, canonical_gate, canonical_trapFree,
    CanonicalNext]

theorem canonical_execHalt (st : BitVec 3) {s : State} (h : s.canonical) :
    CanonicalNext (execHalt st s) := by
  grind [execHalt, canonical_haltSlot, canonical_gate, CanonicalNext, Did.canonical, canonical_bchk]

theorem canonical_execBrk (st : BitVec 3) {s : State} (h : s.canonical) :
    CanonicalNext (execBrk st s) := by
  grind [execBrk, Did.canonical, canonical_gate, CanonicalNext]

theorem canonical_execTrap (st : BitVec 3) (code : BitVec 17) {s : State} (h : s.canonical) :
    CanonicalNext (execTrap st code s) := by
  grind [execTrap, Did.canonical, canonical_blockWords, canonical_gate, CanonicalNext,
    canonical_modMe]

theorem canonical_sysStore {s : State} (n : Nat) (v : Word) (h : s.canonical) :
    (sysStore s n v).canonical := by
  unfold sysStore
  split <;> grind [canonical_modCore, canonical_modSlot, canonical_modMe, canonical_iff]

theorem canonical_logWrite {s : State} (v : Word) (h : s.canonical) : (logWrite s v).canonical := by
  grind [logWrite, canonical_modCluster]

theorem canonical_rawStore {s : State} (core bank row word : Nat) (v : Word) (h : s.canonical) :
    (rawStore s core bank row word v).canonical := by
  have h1 := canonical_rawPoke core bank row word v h
  unfold rawStore
  extract_lets s1
  split
  · exact canonical_wakeWriters _ (canonical_inject _ _ _ _ h1)
  · exact h1

theorem canonical_diagWrite {s : State} (v : Word) (h : s.canonical) :
    (diagWrite s v).canonical := by
  grind [diagWrite, canonical_modCore, canonical_modSlot, canonical_rawStore, canonical_logWrite]

theorem canonical_sysRead (i : Instr) (n : Nat) (d : BitVec 5) {s : State} (h : s.canonical) :
    (sysRead i n d s).canonical := by
  grind [sysRead, canonical_writeReg, Did.canonical, canonical_gate, canonical_operands,
    canonical_writeInterlocked]

theorem canonical_sysWrite (i : Instr) (n : Nat) (d : BitVec 5) {s : State} (h : s.canonical) :
    (sysWrite i n d s).canonical := by
  grind [sysWrite, canonical_sysStore, Did.canonical, canonical_diagWrite, canonical_gate,
    canonical_operands]

theorem canonical_readHeld {s : State} (h : s.canonical) : (readHeld s).1.canonical := by
  grind [readHeld, canonical_foldl, canonical_modSlot, canonical_logFlips]

theorem canonical_readContext {s : State} (classes : Nat) (h : s.canonical) :
    (readContext s classes).1.canonical := by
  grind [readContext, canonical_foldl, canonical_checkTile, canonical_checkRow, canonical_readHeld,
    canonical_mendQueue]

theorem canonical_jrnlSave {s : State} (at' : Nat → Nat) (own : Bool) (classes : Nat)
    (h : s.canonical) : (jrnlSave s at' own classes).canonical := by
  grind [jrnlSave, canonical_foldl, canonical_performWrite, canonical_modSlot, canonical_recPut]

theorem canonical_imageLoad {s : State} (at' : Nat → Nat) (words : List Nat) (h : s.canonical) :
    (imageLoad s at' words).1.canonical := by
  grind [imageLoad, canonical_foldl_fst, canonical_readUnit]

theorem canonical_loadJournal {s : State} (w : Nat → Word) (h : s.canonical) :
    (loadJournal s w).canonical := by
  grind [loadJournal, canonical_foldl, canonical_modSlot, canonical_takeSeq]

theorem canonical_jrnlRestore {s : State} (base : Nat) (own : Bool) (classes : Nat) (m : Sp Word)
    (h : s.canonical) : (jrnlRestore s base own classes m).canonical := by
  grind [jrnlRestore, canonical_modCluster, canonical_loadJournal, canonical_modSlot,
    canonical_listAppend, canonical_iff]

theorem canonical_jrnlDrop {s : State} (h : s.canonical) : (jrnlDrop s).canonical := by
  grind [jrnlDrop, canonical_foldl, canonical_discardCmd, canonical_modSlot, canonical_modEntry]

theorem canonical_imagePages {s : State} (va : Nat) (k : AccKind) (words : List Nat)
    (h : s.canonical) : (imagePages s va k words).1.canonical := by
  refine canonical_foldl_fst _ (fun x i hx => ?_) _ _ h
  grind [canonical_translate]

theorem canonical_jrnlBase {s : State} (op : Nat) (a : BitVec 5) (va : Word) (words : List Nat)
    {next : State → (Nat → Nat) → Did} (h : s.canonical)
    (hnext : ∀ t k, t.canonical → (next t k).canonical) :
    (jrnlBase s op a va words next).canonical := by
  fun_cases jrnlBase s op a va words next <;>
    grind [canonical_imagePages, Did.canonical, canonical_trapFree, canonical_logXlate]

theorem canonical_jrnl (i : Instr) (d a b : BitVec 5) {s : State} (h : s.canonical) :
    (jrnl i d a b s).canonical := by
  fun_cases jrnl i d a b s
  grind [canonical_imageLoad, canonical_jrnlDrop, Did.canonical, canonical_gate, canonical_operands,
    canonical_trapFree, canonical_writeInterlocked, canonical_jrnlRestore, canonical_jrnlBase,
    canonical_readContext, canonical_jrnlSave]

theorem canonical_reissueCmd {s : State} (m : Cmd) (h : s.canonical) :
    (reissueCmd s m).canonical := by
  grind [reissueCmd, canonical_modCore, canonical_takeSeq]

theorem canonical_replayLift {s : State} (fuel : Nat) (h : s.canonical) :
    (replayLift s fuel).canonical := by
  fun_induction replayLift s fuel <;> grind [canonical_modSlot, canonical_reissueCmd]

theorem canonical_replayCopies {s : State} (fuel : Nat) (h : s.canonical) :
    (replayCopies s fuel).canonical := by
  fun_induction replayCopies s fuel <;> grind [canonical_modSlot, canonical_modEntry]

theorem canonical_execReplay (st : BitVec 3) (d : BitVec 5) {s : State} (h : s.canonical) :
    CanonicalNext (execReplay st d s) := by
  grind [execReplay, Did.canonical, canonical_replayLift, canonical_replayCopies, canonical_gate,
    canonical_modSlot, canonical_operands, canonical_trapFree, CanonicalNext,
    canonical_writeInterlocked]

theorem canonical_execSnap (st : BitVec 3) (d : BitVec 5) {s : State} (h : s.canonical) :
    CanonicalNext (execSnap st d s) := by
  grind [execSnap, canonical_fireSnapshot, canonical_gate, canonical_operands, CanonicalNext,
    canonical_writeInterlocked, Did.canonical]

theorem canonical_execSnapExternalTrigger {s : State} (h : s.canonical) :
    CanonicalNext (execSnapExternalTrigger s) := by
  grind [execSnapExternalTrigger, canonical_fireSnapshot, CanonicalNext]

theorem canonical_latchSnapshot {s : State} (h : s.canonical) : (latchSnapshot s).canonical := by
  grind [latchSnapshot, canonical_iff]

theorem canonical_newInterval {s : State} (h : s.canonical) : (newInterval s).canonical := h.same

theorem canonical_performStalled {s : State} (h : s.canonical) : (performStalled s).canonical := by
  grind [performStalled, canonical_foldl, canonical_writeRaw, canonical_wakeWriters, canonical_iff]

theorem canonical_drainAll {s : State} (h : s.canonical) : (drainAll s).canonical := by
  grind [drainAll, canonical_foldl, canonical_drainSlot]

theorem canonical_ckpt (i : Instr) (d a : BitVec 5) {s : State} (h : s.canonical) :
    (ckpt i d a s).canonical := by
  grind [ckpt, canonical_performStalled, canonical_drainAll, Did.canonical, canonical_rollback,
    canonical_gate, canonical_operands, canonical_trapFree, canonical_newInterval,
    canonical_writeInterlocked, canonical_release]

theorem canonical_dropTranslations {s : State} (ext dom va : Nat) (h : s.canonical) :
    (dropTranslations s ext dom va).canonical :=
  (canonical_mapCores (fun c => { c with
    utlb := c.utlb.filter (fun t => !tlbHit ext dom va t)
    code := c.code.filter (fun l => !inExtent ext dom va l.dom (64 * l.line)) })
    (fun _ => rfl) h).same

theorem canonical_execTlbinv (st : BitVec 3) (a b : BitVec 5) {s : State} (h : s.canonical) :
    CanonicalNext (execTlbinv st a b s) := by
  grind [execTlbinv, Did.canonical, canonical_drainAll, canonical_gate, canonical_operands,
    canonical_trapFree, canonical_dropTranslations, CanonicalNext, canonical_release]

theorem canonical_execHangTimeout {s : State} (h : s.canonical) :
    CanonicalNext (execHangTimeout s) := by
  grind [execHangTimeout, canonical_modSlot, CanonicalNext, canonical_logSlot, canonical_addPending]

theorem canonical_countProgress {s : State} (h : s.canonical) : (countProgress s).canonical :=
  h.same

theorem canonical_execEccScrub {s : State} (h : s.canonical) : CanonicalNext (execEccScrub s) := by
  grind [execEccScrub, canonical_foldl, canonical_eccUnit, CanonicalNext, canonical_iff]

/-! ### Segments, decodes, frames and the timetable -/

theorem canonical_logRing {s : State} (base len k : Nat) (r : BitVec 128) (h : s.canonical) :
    (logRing s base len k r).canonical := by
  grind [logRing, canonical_performWrite, canonical_performWrites]

theorem canonical_slipRecord {s : State} (kind dom cycles slot entry : Nat) (frame : BitVec 48)
    (h : s.canonical) : (slipRecord s kind dom cycles slot entry frame).canonical := by
  grind [slipRecord, canonical_logRing, canonical_iff]

theorem canonical_skipRecord {s : State} (kind npark dom ttidx segidx scope frame : Nat)
    (h : s.canonical) : (skipRecord s kind npark dom ttidx segidx scope frame).canonical := by
  grind [skipRecord, canonical_logRing, canonical_iff]

theorem canonical_skipOf {s : State} (g : Seg) (kind npark scope : Nat) (h : s.canonical) :
    (skipOf s g kind npark scope).canonical := by
  grind [skipOf, canonical_skipRecord]

theorem canonical_hwFail {α : Type} {s : State} (dom va reason : Nat) (h : s.canonical) :
    (hwFail (α := α) s dom va reason).1.canonical := by
  grind [hwFail, canonical_logError]

theorem canonical_hwPlace {s : State} (dom va : Nat) (k : AccKind) (sup : Bool) (h : s.canonical) :
    (hwPlace s dom va k sup).1.canonical := by
  grind [hwPlace, canonical_hwFail, canonical_walk]

theorem canonical_hwDeep {s : State} (dom va : Nat) (k : AccKind) (sup : Bool) (h : s.canonical) :
    (hwDeep s dom va k sup).1.canonical := by
  grind [hwDeep, canonical_hwPlace, canonical_hwFail]

theorem canonical_seqRead {s : State} (dom va n : Nat) (h : s.canonical) :
    (seqRead s dom va n).1.canonical := by
  grind [seqRead, canonical_foldl_fst, canonical_performRead, canonical_hwPlace]

theorem canonical_templateOk {s : State} (dom : Nat) (tmpl : Word) (h : s.canonical) :
    (templateOk s dom tmpl).1.canonical := by
  unfold templateOk
  split <;> grind [canonical_seqRead]

theorem canonical_readEntries {s : State} (dom addr count : Nat) (h : s.canonical) :
    (readEntries s dom addr count).1.canonical := by
  grind [readEntries, canonical_foldl_fst, canonical_seqRead, canonical_templateOk]

theorem canonical_readTable {s : State} (dom tt : Nat) (h : s.canonical) :
    (readTable s dom tt).1.canonical := by
  grind [readTable, canonical_readEntries, canonical_seqRead, canonical_slipRecord]

theorem canonical_templateScope {s : State} (dom : Nat) (tmpl : Word) (h : s.canonical) :
    (templateScope s dom tmpl).1.canonical := by
  grind [templateScope, canonical_seqRead]

theorem canonical_parkOne {s : State} (g : Seg) (c n : Nat) (h : s.canonical) :
    (parkOne s g c n).1.canonical := by
  grind [parkOne, canonical_cancelScope, canonical_skipOf, canonical_iff]

theorem canonical_parkSegment {s : State} (g : Seg) (h : s.canonical) :
    (parkSegment s g).1.canonical := by
  grind [parkSegment, canonical_foldl_fst, canonical_templateScope, canonical_readTable,
    canonical_parkOne]

theorem canonical_skipSeg {s : State} (g : Seg) (kind : Nat) (h : s.canonical) :
    (skipSeg s g kind).canonical := by
  grind [skipSeg, canonical_parkSegment, canonical_skipRecord, canonical_skipOf, canonical_iff]

theorem canonical_skipFourth {s : State} (h : s.canonical) : (skipFourth s).canonical := by
  grind [skipFourth, canonical_freeBuf, canonical_skipSeg]

theorem canonical_writePart {s : State} (g : Seg) (n i : Nat) (h : s.canonical) :
    (writePart s g n i).canonical := by
  grind [writePart, canonical_foldl, canonical_foldl_fst, canonical_performWrite]

theorem canonical_modSeg {s : State} (frame : Nat) (f : Seg → Seg) (h : s.canonical) :
    (modSeg s frame f).canonical :=
  h.same

theorem canonical_claimBuf {s : State} (g : Seg) (n : Nat) (h : s.canonical) :
    (claimBuf s g n).canonical := by
  grind [claimBuf, canonical_setBuf, canonical_modSeg, canonical_writePart]

theorem canonical_execDecodeStart {s : State} (h : s.canonical) :
    CanonicalNext (execDecodeStart s) := by
  grind [execDecodeStart, canonical_claimBuf, CanonicalNext, canonical_modSeg, canonical_skipFourth,
    canonical_skipSeg]

theorem canonical_endDecode {s : State} (g : Seg) (h : s.canonical) :
    (endDecode s g).canonical := by
  grind [endDecode, canonical_freeBuf, canonical_setBuf, canonical_modSeg]

theorem canonical_execDecodeComplete {s : State} (h : s.canonical) :
    CanonicalNext (execDecodeComplete s) := by
  grind [execDecodeComplete, canonical_endDecode, CanonicalNext, canonical_writePart]

theorem canonical_holdVcc {s : State} (why : Nat) (h : s.canonical) : (holdVcc s why).canonical :=
  h.same

theorem canonical_freeVcc {s : State} (why : Nat) (h : s.canonical) : (freeVcc s why).canonical :=
  h.same

theorem canonical_retireBuffer {s : State} (h : s.canonical) : (retireBuffer s).canonical := by
  grind [retireBuffer, canonical_freeBuf, canonical_setBuf]

theorem canonical_wakeFrames {s : State} (h : s.canonical) : (wakeFrames s).canonical := by
  grind [wakeFrames, canonical_foldl, canonical_modCluster, canonical_wakeRec]

theorem canonical_bindGeneration {s : State} (hdr : BitVec 512) (h : s.canonical) :
    (bindGeneration s hdr).canonical := by
  grind [bindGeneration, canonical_setMreg, canonical_iff]

theorem canonical_rejoin {s : State} (g : Seg) (h : s.canonical) : (rejoin s g).canonical := by
  grind [rejoin, canonical_foldl, canonical_unpark, canonical_skipOf]

theorem canonical_openFrame {s : State} (g : Seg) (h : s.canonical) :
    (openFrame s g).canonical := by
  grind [openFrame, canonical_parkSegment, canonical_raiseEvent, canonical_rejoin,
    canonical_bindGeneration, canonical_readTable, canonical_skipOf, canonical_iff]

theorem canonical_execSegmentCurrent {s : State} (h : s.canonical) :
    CanonicalNext (execSegmentCurrent s) := by
  grind [execSegmentCurrent, canonical_openFrame, canonical_setBuf, CanonicalNext,
    canonical_bufOwner, canonical_retireBuffer, canonical_freeVcc, canonical_wakeFrames,
    canonical_iff]

theorem canonical_execComputeFrameEnd {s : State} (h : s.canonical) :
    CanonicalNext (execComputeFrameEnd s) := by
  grind [execComputeFrameEnd, canonical_holdVcc, CanonicalNext, canonical_iff]

theorem canonical_dropEntry {s : State} (h : s.canonical) : (dropEntry s).canonical := h.same

theorem canonical_templateRef {s : State} (dom : Nat) (tmpl : Word) (h : s.canonical) :
    (templateRef s dom tmpl).1.canonical := by
  grind [templateRef, canonical_hwDeep]

theorem canonical_releaseEntry {s : State} (e : TEntry) (h : s.canonical) :
    (releaseEntry s e).canonical := by
  grind [releaseEntry, canonical_scopeInc, canonical_templateRef, canonical_modSlot,
    canonical_raiseTrap, canonical_placeStrand]

theorem canonical_haltedRecord {s : State} (e : TEntry) (h : s.canonical) :
    (haltedRecord s e).canonical := by
  grind [haltedRecord, canonical_slipRecord]

theorem canonical_releaseDue {s : State} (fuel : Nat) (h : s.canonical) :
    (releaseDue s fuel).canonical := by
  fun_induction releaseDue s fuel <;>
    grind [canonical_releaseEntry, canonical_holdVcc, canonical_dropEntry, canonical_haltedRecord,
      canonical_iff]

theorem canonical_execTimetableRelease {s : State} (h : s.canonical) :
    CanonicalNext (execTimetableRelease s) := by
  grind [execTimetableRelease, CanonicalNext, canonical_releaseDue]

theorem canonical_execEntrySlip {s : State} (h : s.canonical) :
    CanonicalNext (execEntrySlip s) := by
  grind [execEntrySlip, canonical_releaseEntry, CanonicalNext, canonical_freeVcc,
    canonical_slipRecord, canonical_releaseDue, canonical_dropEntry, canonical_haltedRecord,
    canonical_iff]

theorem canonical_writeFrame {s : State} (v : Word) (h : s.canonical) :
    (writeFrame s v).canonical := by
  grind [writeFrame, canonical_slipRecord, canonical_iff]

theorem canonical_setFrameMode {s : State} (d : Nat) (on : Bool) (h : s.canonical) :
    (setFrameMode s d on).canonical := by
  grind [setFrameMode, canonical_setMreg, canonical_freeVcc, canonical_iff]

/-! ### The ring: links, slots, failures, grafts and swaps -/

theorem canonical_mendPlan {s : State} (l : List Nat) (h : s.canonical) :
    (mendPlan s l).canonical := by
  grind [mendPlan, canonical_foldl, canonical_eccUnit]

theorem canonical_modRing {s : State} (f : Ring → Ring) (h : s.canonical) :
    (s.modRing f).canonical :=
  h.same

theorem canonical_modLink {s : State} (p : Port) (f : Link → Link) (h : s.canonical) :
    (s.modLink p f).canonical :=
  h.same

theorem canonical_holdRing {s : State} (h : s.canonical) : (holdRing s).canonical := by
  grind [holdRing, canonical_modRing]

theorem canonical_retrain {s : State} (p : Port) (h : s.canonical) : (retrain s p).canonical :=
  h.same

theorem canonical_execLinkRetrain {s : State} (h : s.canonical) :
    CanonicalNext (execLinkRetrain s) := by
  grind [execLinkRetrain, CanonicalNext, canonical_modRing, canonical_retrain]

theorem canonical_ringWrite {s : State} (k i v : Nat) (h : s.canonical) :
    (ringWrite s k i v).canonical := by
  grind [ringWrite, canonical_performWrites]

theorem canonical_ringPut {s : State} (k : Nat) (hdr : BitVec 512) (payload : Mem)
    (h : s.canonical) : (ringPut s k hdr payload).canonical := by
  grind [ringPut, canonical_foldl, canonical_ringWrite]

theorem canonical_takeFlit {s : State} (flit : BitVec 512) (h : s.canonical) :
    ∀ t, takeFlit s flit = some t → t.canonical := by
  grind [takeFlit, canonical_ringWrite, canonical_modRing]

theorem canonical_execLinkFlitReceive (seq : BitVec 16) (crcOk : Bool) (flit : BitVec 512)
    {s : State} (h : s.canonical) : CanonicalNext (execLinkFlitReceive seq crcOk flit s) := by
  grind [execLinkFlitReceive, canonical_modLink, canonical_takeFlit, CanonicalNext,
    canonical_retrain]

theorem canonical_settleStore {s : State} (k : Nat) (h0 : BitVec 512) (landed : BitVec 512 × Mem)
    (kept : BitVec 512) (h : s.canonical) : (settleStore s k h0 landed kept).canonical := by
  grind [settleStore, canonical_ringWrite, canonical_ringPut]

theorem canonical_execSegmentArrival {s0 : State} (h : s0.canonical) :
    CanonicalNext (execSegmentArrival s0) := by
  unfold execSegmentArrival
  extract_lets +onlyGivenNames r
  split
  · exact h
  · have h1 := canonical_mendPlan [r.planIndex] h
    generalize mendPlan s0 [r.planIndex] = s1 at h1 ⊢
    exact State.canonical.same (canonical_settleStore _ _ _ _ h1)

theorem canonical_rewriteSlot {s : State} (x : RingSlot) (hdr : BitVec 512) (payload : Mem)
    (h : s.canonical) : (rewriteSlot s x hdr payload).canonical := by
  grind [rewriteSlot, canonical_ringPut, canonical_modRing]

theorem canonical_execRefillComplete {s : State} (h : s.canonical) :
    CanonicalNext (execRefillComplete s) := by
  grind [execRefillComplete, canonical_foldl, canonical_rewriteSlot, canonical_raiseEvent,
    CanonicalNext, canonical_modRing]

theorem canonical_execRingSlotForward {s : State} (h : s.canonical) :
    CanonicalNext (execRingSlotForward s) := by
  grind [execRingSlotForward, CanonicalNext, canonical_takeDelay, canonical_modRing]

theorem canonical_setGraft {s : State} (on : Bool) (h : s.canonical) : (setGraft s on).canonical :=
  h.same

theorem canonical_declareFailed {s : State} (pos : Nat) (h : s.canonical) :
    (declareFailed s pos).canonical := by
  grind [declareFailed, canonical_modLink, canonical_raiseEvent, canonical_setGraft,
    canonical_modRing, canonical_retrain]

theorem canonical_execPackagePowerLoss {s : State} (h : s.canonical) :
    CanonicalNext (execPackagePowerLoss s) := by
  grind [execPackagePowerLoss, canonical_declareFailed, CanonicalNext, canonical_iff]

theorem canonical_execHeartbeatSend {s : State} (h : s.canonical) :
    CanonicalNext (execHeartbeatSend s) := by
  grind [execHeartbeatSend, canonical_modLink, CanonicalNext, canonical_modRing]

theorem canonical_execHeartbeatTimeout {s : State} (h : s.canonical) :
    CanonicalNext (execHeartbeatTimeout s) := by
  fun_cases execHeartbeatTimeout s <;>
    grind [canonical_modLink, canonical_declareFailed, CanonicalNext]

theorem canonical_graftRelease {s : State} (pos : Nat) (h : s.canonical) :
    (graftRelease s pos).canonical := by
  grind [graftRelease, canonical_setMreg, canonical_setGraft, canonical_modRing]

theorem canonical_execGraftTrainTimeout {s : State} (h : s.canonical) :
    CanonicalNext (execGraftTrainTimeout s) := by
  fun_cases execGraftTrainTimeout s <;>
    grind [canonical_setMreg, canonical_raiseEvent, CanonicalNext, canonical_setGraft,
      canonical_modRing]

theorem canonical_joinRing {s : State} (pos : Nat) (h : s.canonical) :
    (joinRing s pos).canonical := by
  grind [joinRing, canonical_setMreg, canonical_raiseEvent, canonical_modRing]

theorem canonical_emitLost {s : State} (h : s.canonical) : (emitLost s).canonical := by
  grind [emitLost, canonical_mendPlan, canonical_takeDelay, canonical_modRing]

theorem canonical_takeOver {s : State} (h : s.canonical) : (takeOver s).canonical := by
  grind [takeOver, canonical_modRing]

theorem canonical_portTrained {s : State} (p : Port) (h : s.canonical) :
    (portTrained s p).canonical := by
  unfold portTrained
  split <;> grind [canonical_modLink, canonical_takeOver, canonical_emitLost, canonical_modRing]

theorem canonical_execRetrainComplete {s : State} (h : s.canonical) :
    CanonicalNext (execRetrainComplete s) := by
  grind [execRetrainComplete, canonical_joinRing, CanonicalNext, canonical_portTrained,
    canonical_modRing]

theorem canonical_remoteWrite {s : State} (p : Place) (n v : Nat) (h : s.canonical) :
    (remoteWrite s p n v).canonical := by
  grind [remoteWrite, canonical_writeRaw, canonical_wakeWriters]

theorem canonical_execTier1RemoteAccess (acc : RemoteAccess) {s : State} (h : s.canonical) :
    CanonicalNext (execTier1RemoteAccess acc s) := by
  grind [execTier1RemoteAccess, canonical_eccUnit, canonical_remoteWrite, CanonicalNext]

theorem canonical_showSwap {s : State} (h : s.canonical) : (showSwap s).canonical := h.same

theorem canonical_execSwapGo {s : State} (h : s.canonical) : CanonicalNext (execSwapGo s) := by
  grind [execSwapGo, CanonicalNext, canonical_showSwap, canonical_iff]

theorem canonical_swapSlots {s : State} (h : s.canonical) : (swapSlots s).canonical := by
  grind [swapSlots, canonical_foldl, canonical_rewriteSlot, canonical_raiseEvent]

theorem canonical_execSwapPause {s : State} (h : s.canonical) :
    CanonicalNext (execSwapPause s) := by
  grind [execSwapPause, canonical_swapSlots, canonical_raiseEvent, CanonicalNext,
    canonical_showSwap, canonical_iff]

theorem canonical_execSwapResume {s : State} (h : s.canonical) :
    CanonicalNext (execSwapResume s) := by
  grind [execSwapResume, canonical_setMreg, CanonicalNext, canonical_showSwap, canonical_iff]

/-! ### The host interface, launches and resets -/

theorem canonical_setPstat {s : State} (v : Nat) (h : s.canonical) : (setPstat s v).canonical :=
  h.same

theorem canonical_execPowerUpReset {s : State} (h : s.canonical) :
    CanonicalNext (execPowerUpReset s) := by
  obtain ⟨-, hhost, hfar, -⟩ := h
  obtain ⟨hdeep, -, -, hspad⟩ := canonical_reset
  unfold execPowerUpReset
  split
  · exact canonical_setMreg _ _ ⟨hdeep, hhost, hfar, hspad⟩
  · exact ⟨hdeep, hhost, hfar, hspad⟩

theorem canonical_copyImage {s : State} (h : s.canonical) : (copyImage s).canonical := by
  grind [copyImage, canonical_foldl, canonical_performWrite]

theorem canonical_mapImage {s : State} (h : s.canonical) : (mapImage s).canonical := by
  grind [mapImage, canonical_setMreg, canonical_hwWrite]

theorem canonical_liveRoots {s : State} (h : s.canonical) : (liveRoots s).canonical := by
  grind [liveRoots, canonical_foldl, canonical_setScope]

theorem canonical_enterFirmware {s : State} (h : s.canonical) : (enterFirmware s).canonical := by
  grind [enterFirmware, canonical_modRole]

theorem canonical_showFwgo {s : State} (b : Bool) (h : s.canonical) : (showFwgo s b).canonical :=
  h.same

theorem canonical_fwDownload {s : State} (h : s.canonical) : (fwDownload s).canonical := by
  grind [fwDownload, canonical_enterFirmware, canonical_setPstat, canonical_copyImage,
    canonical_mapImage, canonical_showFwgo, canonical_liveRoots, canonical_iff]

theorem canonical_attest {s : State} (a : Nat) (h : s.canonical) : (attest s a).canonical := by
  grind [attest, canonical_foldl, canonical_setMreg, canonical_performWrite]

theorem canonical_elect {s : State} (h : s.canonical) : (elect s).canonical := h.same

theorem canonical_execDispatcherElection {s : State} (h : s.canonical) :
    CanonicalNext (execDispatcherElection s) := by
  grind [execDispatcherElection, canonical_elect, CanonicalNext]

theorem canonical_modLaunch {s : State} (id : Nat) (f : Launch → Launch) (h : s.canonical) :
    (modLaunch s id f).canonical :=
  h.same

theorem canonical_execIndexGrant {s : State} (h : s.canonical) :
    CanonicalNext (execIndexGrant s) := by
  grind [execIndexGrant, canonical_modLaunch, CanonicalNext, canonical_iff]

theorem canonical_emptyDie {s : State} (d : Nat) (h : s.canonical) : (emptyDie s d).canonical := by
  grind [emptyDie, canonical_foldl, canonical_modCluster, canonical_setSlot]

theorem canonical_loseIndices {s : State} (d : Nat) (h : s.canonical) :
    (loseIndices s d).canonical :=
  h.same

theorem canonical_regrant {s : State} (d : Nat) (h : s.canonical) : (regrant s d).canonical :=
  h.same

theorem canonical_dieFails {s : State} (d : Nat) (h : s.canonical) : (dieFails s d).canonical := by
  grind [dieFails, canonical_elect, canonical_regrant, canonical_loseIndices, canonical_emptyDie,
    canonical_iff]

theorem canonical_execLeaderFailover {s : State} (h : s.canonical) :
    CanonicalNext (execLeaderFailover s) := by
  grind [execLeaderFailover, canonical_dieFails, CanonicalNext]

theorem canonical_execMirrorDieFailure {s : State} (h : s.canonical) :
    CanonicalNext (execMirrorDieFailure s) := by
  grind [execMirrorDieFailure, canonical_dieFails, CanonicalNext]

theorem canonical_devicePlace {s : State} (dom va : Nat) (k : AccKind) (sup : Bool)
    (h : s.canonical) : (devicePlace s dom va k sup).1.canonical := by
  grind [devicePlace, canonical_hwPlace, canonical_hwFail]

theorem canonical_copyIn {s : State} (dom : Nat) (sup : Bool) (src dst n : Nat) (h : s.canonical) :
    (copyIn s dom sup src dst n).1.canonical := by
  grind [copyIn, canonical_foldl_fst, canonical_performWrite, canonical_devicePlace]

theorem canonical_copyBlock {s : State} (dom : Nat) (sup : Bool) (ccb fuel : Nat)
    (h : s.canonical) : (copyBlock s dom sup ccb fuel).1.canonical := by
  induction fuel generalizing s ccb with
  | zero => exact h
  | succ k ih =>
    unfold copyBlock
    grind [canonical_copyIn]

theorem canonical_readTemplate {s : State} (dom tmpl : Nat) (sup : Bool) (h : s.canonical) :
    (readTemplate s dom tmpl sup).1.canonical := by
  grind [readTemplate, canonical_readUnits, canonical_hwFail, canonical_devicePlace]

theorem canonical_advanceHead {s : State} (h : s.canonical) : (advanceHead s).canonical := h.same

theorem canonical_launchCopies {s : State} (r : LaunchRec) (dom : Nat) (sup : Bool)
    (h : s.canonical) : (launchCopies s r dom sup).1.canonical := by
  grind [launchCopies, canonical_copyBlock, canonical_copyIn]

theorem canonical_readLaunch {s : State} (h : s.canonical) : (readLaunch s).canonical := by
  grind [readLaunch, canonical_advanceHead, canonical_launchCopies, canonical_takeSeq,
    canonical_readTemplate, canonical_iff]

theorem canonical_execLaunchRecordRead {s : State} (h : s.canonical) :
    CanonicalNext (execLaunchRecordRead s) := by
  grind [execLaunchRecordRead, CanonicalNext, canonical_readLaunch]

theorem canonical_launchIndex {s : State} (l : Launch) (g : Grant) (ref : RecRef)
    (h : s.canonical) : (launchIndex s l g ref).canonical := by
  grind [launchIndex, canonical_modLaunch, canonical_recPutHw, canonical_scopeInc,
    canonical_admitKept]

theorem State.canonical.withCursors {s : State} (l : Sp Nat) (h : s.canonical) :
    { s with cursors := l }.canonical :=
  h.same

theorem canonical_placeIndex {s : State} (l : Launch) (g : Grant) (h : s.canonical) :
    (placeIndex s l g).1.canonical := by
  have hd := canonical_hwDeep l.dom (poolEntry s l) .write true h
  unfold placeIndex
  extract_lets +onlyGivenNames va
  split
  · exact h
  · generalize hwDeep s l.dom va .write true = x at hd ⊢
    rcases x with ⟨s1, _ | ⟨pa, t⟩⟩
    · exact hd
    · have hc := canonical_recCheck pa noSlot l.dom hd
      dsimp only at hc ⊢
      generalize recCheck s1 pa noSlot l.dom = y at hc ⊢
      obtain ⟨s2, bad⟩ := y
      have hw := canonical_performWrites (.deep pa) 64 (l.template &&& recordFields).toNat
        (stampOrdered 0) noSlot 0 hc
      dsimp only at hc hw ⊢
      generalize performWrites s2 _ _ _ _ _ _ = s3 at hw ⊢
      split
      · exact hc
      · exact canonical_launchIndex _ _ _
          (State.canonical.withCursors _ (canonical_recPutHw _ _ _ _ hw))

theorem canonical_modGrant {s : State} (g : Grant) (f : Grant → Grant) (h : s.canonical) :
    (modGrant s g f).canonical :=
  h.same

theorem canonical_placeBatch {s : State} (g : Grant) (fuel : Nat) (h : s.canonical) :
    (placeBatch s g fuel).canonical := by
  fun_induction placeBatch s g fuel <;>
    grind [canonical_placeIndex, canonical_modGrant, canonical_iff]

theorem canonical_execLaunchPoolRetry {s : State} (h : s.canonical) :
    CanonicalNext (execLaunchPoolRetry s) := by
  grind [execLaunchPoolRetry, CanonicalNext, canonical_placeBatch, canonical_modGrant]

theorem canonical_execLaunchCompletion {s : State} (h : s.canonical) :
    CanonicalNext (execLaunchCompletion s) := by
  obtain ⟨hdeep, hhost, hfar, hspad⟩ := h
  unfold execLaunchCompletion
  split
  · exact ⟨hdeep, hhost, hfar, hspad⟩
  · exact canonical_raiseEvent 4 ⟨hdeep, Mem.wf_writeNat _ _ _ _ hhost, hfar, hspad⟩

theorem canonical_restartCore {s : State} (k : Nat) (h : s.canonical) :
    (restartCore s k).canonical := by
  grind [restartCore, canonical_foldl, canonical_setSlot]

theorem canonical_clearEvents {s : State} (mask : Word) (h : s.canonical) :
    (clearEvents s mask).canonical :=
  h.same

theorem canonical_writePstat {s : State} (v : Word) (h : s.canonical) :
    (writePstat s v).canonical := by
  grind [writePstat, canonical_setPstat, canonical_elect]

theorem canonical_writeGraft {s : State} (v : Word) (h : s.canonical) :
    (writeGraft s v).canonical := by
  grind [writeGraft, canonical_setMreg, canonical_declareFailed, canonical_graftRelease]

theorem canonical_writeSwap {s : State} (v : Word) (h : s.canonical) :
    (writeSwap s v).canonical := by
  grind [writeSwap, canonical_state, canonical_execSwapGo, canonical_execSwapResume,
    canonical_showSwap, canonical_iff]

theorem canonical_writeDom {s : State} (d w : Nat) (v : Word) (h : s.canonical) :
    (writeDom s d w v).canonical := by
  grind [writeDom, canonical_setMreg, canonical_setFrameMode, canonical_iff]

theorem canonical_writeCore {s : State} (k w : Nat) (v : Word) (h : s.canonical) :
    (writeCore s k w v).canonical := by
  grind [writeCore, canonical_restartCore, canonical_modCore]

theorem canonical_writeCluster {s : State} (c w : Nat) (v : Word) (h : s.canonical) :
    (writeCluster s c w v).canonical := by
  grind [writeCluster, canonical_setMreg, canonical_modCluster]

theorem canonical_writeRegion {s : State} (off : Nat) (v : Word) (h : s.canonical) :
    (writeRegion s off v).canonical := by
  grind [writeRegion, canonical_setMreg, canonical_iff]

theorem canonical_writeRing {s : State} (v : Word) (h : s.canonical) : (writeRing s v).canonical :=
  h.same

theorem canonical_writePackage {s : State} (off : Nat) (v : Word) (h : s.canonical) :
    (writePackage s off v).canonical := by
  unfold writePackage
  split <;> grind [canonical_writeFrame, canonical_setMreg, canonical_attest, canonical_writeRing,
    canonical_clearEvents, canonical_writePstat, canonical_writeGraft, canonical_fwDownload,
    canonical_writeSwap]

theorem canonical_mgmtWrite {s : State} (off : Nat) (v : Word) (h : s.canonical) :
    (mgmtWrite s off v).canonical := by
  grind [mgmtWrite, canonical_setMreg, canonical_writeCore, canonical_writeRegion,
    canonical_writeCluster, canonical_writeDom, canonical_writePackage]

theorem canonical_arriveNow {s : State} (core dom va : Nat) (h : s.canonical) :
    (arriveNow s core dom va).canonical := by
  grind [arriveNow, canonical_foldl, canonical_fillTlbs, canonical_iff]

theorem canonical_execTranslationWalk (va : BitVec 56) {s : State} (h : s.canonical) :
    CanonicalNext (execTranslationWalk va s) := by
  grind [execTranslationWalk, canonical_arriveNow, canonical_lookup, CanonicalNext,
    canonical_logXlate]

/-! ### Strikes -/

theorem canonical_strikeSpad (k : Strike) {s : State} (h : s.canonical) :
    (strikeSpad k s).canonical :=
  h.core (Mem.wf_writeNat _ _ _ _ (h.spad k.unit))

theorem canonical_strikeCode (k : Strike) {s : State} (h : s.canonical) :
    (strikeCode k s).canonical := by
  grind [strikeCode, canonical_modCore]

theorem canonical_strikeDeep (k : Strike) {s : State} (h : s.canonical) :
    (strikeDeep k s).canonical := by
  grind [strikeDeep, canonical_setErr, canonical_rawWrite]

theorem canonical_strikeTlb (k : Strike) {s : State} (h : s.canonical) :
    (strikeTlb k s).canonical := by
  grind [strikeTlb, canonical_modCluster, canonical_modCore]

theorem canonical_strikeQueues (k : Strike) {s : State} (h : s.canonical) :
    (strikeQueues k s).canonical := by
  grind [strikeQueues, canonical_setQueue, canonical_modCore, canonical_modSlot]

theorem canonical_strikePlane (k : Strike) {s : State} (h : s.canonical) :
    (strikePlane k s).canonical := by
  grind [strikePlane, canonical_modCore]

theorem canonical_strikeMeta (p : Place) (b : Flips) {s : State} (h : s.canonical) :
    (strikeMeta p b s).canonical := by
  grind [strikeMeta, canonical_setMeta, canonical_setMetaErr]

theorem canonical_strike {s : State} (k : Strike) (h : s.canonical) : (strike s k).canonical := by
  grind [strike, canonical_strikePlane, canonical_strikeMeta, canonical_modSlot,
    canonical_strikeTlb, canonical_strikeCode, canonical_strikeSpad, canonical_strikeQueues,
    canonical_strikeDeep]

theorem canonical_applyStrikes {s : State} (h : s.canonical) : (applyStrikes s).canonical := by
  grind [applyStrikes, canonical_foldl, canonical_strike, canonical_iff]

/-! ### Late accesses -/

theorem canonical_newWalks {s : State} (l : List (Nat × Nat × Nat × Word)) (h : s.canonical) :
    (newWalks s l).canonical := by
  grind [newWalks, canonical_foldl, canonical_lookup, canonical_iff]

theorem canonical_execLateAccessPause {s : State} (h : s.canonical) :
    CanonicalNext (execLateAccessPause s) := by
  grind [execLateAccessPause, canonical_holdVcc, CanonicalNext]

theorem canonical_execLateAccessResume {s : State} (h : s.canonical) :
    CanonicalNext (execLateAccessResume s) := by
  grind [execLateAccessResume, CanonicalNext, canonical_freeVcc]

/-! ### Fetching, and the beginning of a cycle -/

theorem canonical_illegalWord {s : State} (v : Word) (h : s.canonical) :
    (illegalWord s v).canonical := by
  grind [illegalWord, canonical_mark, canonical_trapNow]

theorem canonical_decodeAt {s : State} (d : BitVec 512) (h : s.canonical) :
    (decodeAt s d).1.canonical := by
  grind [decodeAt, canonical_illegalWord, canonical_takeFree, canonical_modMe]

theorem canonical_lineMissing {s : State} (line : Nat) (h : s.canonical) :
    (lineMissing s line).canonical := by
  grind [lineMissing, canonical_fetchTrap, canonical_mark, canonical_codeFill, canonical_blocked]

theorem canonical_fetchInstr {s : State} (h : s.canonical) : (fetchInstr s).1.canonical := by
  grind [fetchInstr, canonical_codeCheck, canonical_illegalWord, canonical_decodeAt,
    canonical_lineMissing, canonical_blocked]

theorem canonical_servedBy {s : State} (core pos slot : Nat) (h : s.canonical) :
    (servedBy s core pos slot).canonical := by
  grind [servedBy, canonical_modCore]

theorem canonical_openSlot {s : State} (k : Nat) (h : s.canonical) : (openSlot s k).canonical :=
  h.same

theorem canonical_openCluster {s : State} (c : Nat) (h : s.canonical) :
    (openCluster s c).canonical := by
  grind [openCluster, canonical_evalWaitTable, canonical_applyEventChanges]

theorem canonical_dueInputs {s : State} (h : s.canonical) : (dueInputs s).1.canonical := h.same

theorem canonical_beginCycle {s : State} (h : s.canonical) : (beginCycle s).canonical := by
  grind [beginCycle, canonical_foldl, canonical_dueInputs, canonical_openSlot, canonical_holdRing,
    canonical_countProgress, canonical_applyStrikes, canonical_openCluster, canonical_latchSnapshot,
    canonical_iff]

/-! ### Every instruction -/

/-- Every instruction keeps the form. Those of one shape share the lemma of their shape. -/
theorem canonical_exec (i : Instr) {s : State} (h : s.canonical) : CanonicalNext (exec i s) := by
  cases i with
  | add | sub | and | or | xor | andn | orn | shl | shr | sar | rotl | min | max | minu | maxu |
  slt | sltu | seq | sne | mul | mulh | mulhu | lea | wrap =>
    exact canonical_next (canonical_alu2 _ _ _ _ _ _ h)
  | div | divu | rem | remu => exact canonical_next (canonical_divide _ _ _ _ _ h)
  | clz | ctz | popc | brev | bswap | addImm | andImm | orImm | xorImm | shlImm | shrImm | sarImm |
  rotlImm | sltImm | sltuImm | seqImm | sneImm | minImm | maxImm | mulImm | exts | extz | alignup =>
    exact canonical_next (canonical_alu1 _ _ _ _ _ h)
  | sel => exact canonical_execSel _ _ _ _ _ h
  | ins | lhi => exact canonical_next (canonical_readModify _ _ _ _ h)
  | movi | self | tick | movl => exact canonical_next (canonical_alu0 _ _ _ h)
  | fcmp => exact canonical_execFcmp _ _ _ _ _ h
  | flog => exact canonical_execFlog _ _ _ _ _ h
  | nul => exact canonical_execNul _ _ _ h
  | beq | bne | blt | bge | bltu | bgeu => exact canonical_next (canonical_branch2 _ _ _ _ _ _ h)
  | bf | bfN => exact canonical_next (canonical_branchFlag _ _ _ _ _ h)
  | loop => exact canonical_execLoop _ _ _ _ h
  | j => exact canonical_execJ _ _ _ h
  | jl => exact canonical_execJl _ _ _ h
  | ji => exact canonical_execJi _ _ _ h
  | ldB | ldBu | ldH | ldHu | ldW | ldWu | ldD =>
    exact canonical_next (canonical_load _ _ _ _ _ _ _ h)
  | stB | stH | stW | stD => exact canonical_next (canonical_store _ _ _ _ _ _ h)
  | ldq => exact canonical_execLdq _ _ _ _ _ h
  | stq => exact canonical_execStq _ _ _ _ _ h
  | ldo => exact canonical_execLdo _ _ _ _ _ _ h
  | sto => exact canonical_execSto _ _ _ _ _ h
  | fence => exact canonical_execFence _ _ _ h
  | xfence => exact canonical_execXfence _ _ h
  | aaddW | aandW | aorW | axorW | aminSW | amaxSW | aminUW | amaxUW | afaddW | aexchW | aincwW |
  adecwW | aaddD | aandD | aorD | axorD | aminSD | amaxSD | aminUD | amaxUD | aexchD | aincwD |
  adecwD =>
    exact canonical_next (canonical_atomic _ _ _ _ _ _ _ h)
  | waitaW | waitaD => exact canonical_next (canonical_waitAddress _ _ _ _ _ h)
  | phnew => exact canonical_execPhnew _ _ _ h
  | phregS | phregW | phregSw => exact canonical_next (canonical_register _ _ _ _ _ h)
  | phdrop => exact canonical_execPhdrop _ _ h
  | phsig => exact canonical_execPhsig _ _ h
  | phwait => exact canonical_execPhwait _ _ h
  | phnext => exact canonical_execPhnext _ _ h
  | phlink => exact canonical_execPhlink _ _ _ _ h
  | phqry => exact canonical_execPhqry _ _ _ h
  | spawn | spawnj => exact canonical_next (canonical_spawnBody _ _ _ _ _ h)
  | join => exact canonical_execJoin _ _ h
  | exit => exact canonical_execExit _ h
  | yield => exact canonical_execYield _ h
  | susp => exact canonical_execSusp _ h
  | prio => exact canonical_execPrio _ _ _ h
  | evset | evclr => exact canonical_next (canonical_eventChange _ _ _ _ h)
  | evwait => exact canonical_execEvwait _ _ _ h
  | evtest => exact canonical_execEvtest _ _ _ h
  | twait => exact canonical_execTwait _ _ h
  | frameq => exact canonical_execFrameq _ _ _ h
  | bend => exact canonical_execBend _ h
  | scope => exact canonical_execScope _ _ _ _ h
  | cancel => exact canonical_execCancel _ _ h
  | scqry => exact canonical_execScqry _ _ _ h
  | scack => exact canonical_execScack _ _ _ _ h
  | tbinit => exact canonical_execTbinit _ _ _ h
  | tbexp => exact canonical_execTbexp _ _ _ h
  | tbarv => exact canonical_execTbarv _ _ _ _ h
  | tbwait => exact canonical_execTbwait _ _ _ _ h
  | tksig => exact canonical_execTksig _ _ h
  | tkwait => exact canonical_execTkwait _ _ h
  | seghdr => exact canonical_execSeghdr _ _ _ h
  | stgq => exact canonical_execStgq _ _ h
  | stgrel => exact canonical_execStgrel _ h
  | parkSet | parkClear | parkRead => exact canonical_next (canonical_park _ _ _ _ h)
  | nop => exact canonical_execNop _ h
  | eret => exact canonical_execEret _ h
  | halt => exact canonical_execHalt _ h
  | brk => exact canonical_execBrk _ h
  | sysr | diagdRead => exact canonical_next (canonical_sysRead _ _ _ h)
  | sysw | diagdWrite | snapArm | einjArm | errorLogClear =>
    exact canonical_next (canonical_sysWrite _ _ _ h)
  | trap => exact canonical_execTrap _ _ h
  | jrnlStore | jrnlLoad | jrnlAbandon => exact canonical_next (canonical_jrnl _ _ _ _ h)
  | replay => exact canonical_execReplay _ _ h
  | snap => exact canonical_execSnap _ _ h
  | ckptClose | ckptRollback | ckptQuery => exact canonical_next (canonical_ckpt _ _ _ h)
  | tlbinv => exact canonical_execTlbinv _ _ _ h
  | vld | vst | bld | bst => exact canonical_pushOffset _ _ _ h
  | vmov | viota | vadd | vsub | vmul | vfma | vfms | vmin | vmax | vabs | vneg | vdiv | vsqrt |
  vrsq | vrcp | vexp2 | vlog2 | vand | vor | vxor | vshl | vshr | vsar | vcmp | vsel | vpop |
  vmlog | vshuf | vrot | vext | vins | vred | vscan | vtag | vhad | vcon | vopld | brow | bfill |
  bpopr | bpopc | btrn | bcomp | bclos | blog =>
    exact canonical_pushPlain _ h
  | vbcst | vselb => exact canonical_pushVec _ _ _ (fun _ _ _ ht hk => canonical_noCheck _ ht hk) h
  | vcvt => exact canonical_execVcvt _ _ h
  | vqnt => exact canonical_execVqnt _ _ h
  | vdeq => exact canonical_execVdeq _ _ h
  | mlds => exact canonical_execMlds _ _ h
  | mflip | mzero | mpset | mpget | mdrain | ocld =>
    exact canonical_pushMx _ _ _ _ (fun _ _ _ ht hk => canonical_noCheck _ ht hk) h
  | mstr => exact canonical_execMstr _ _ h
  | ocmp => exact canonical_execOcmp _ _ h
  | cpy => exact canonical_execCpy _ _ h
  | cpyt => exact canonical_execCpyt _ _ h
  | kvget => exact canonical_execKvget _ _ h
  | kvputStore => exact canonical_execKvputStore _ _ h
  | kvputRetain => exact canonical_execKvputRetain _ _ h
  | kvputRelease => exact canonical_execKvputRelease _ _ h
  | msg => exact canonical_execMsg _ _ h
  | dtld => exact canonical_execDtld _ _ h
  | acas | aaddb => exact canonical_next (canonical_casLike _ _ _ _ h)
  | mgmtRegWrite => exact canonical_next (canonical_mgmtWrite _ _ h)
  | messageDelivery => exact canonical_execMessageDelivery _ h
  | kvOwnerLookup => exact canonical_execKvOwnerLookup _ h
  | eventsClear => exact canonical_next (canonical_clearEvents _ h)
  | attestRequest => exact canonical_next (canonical_attest _ h)
  | frameset => exact canonical_next (canonical_writeFrame _ h)
  | translationWalk => exact canonical_execTranslationWalk _ h
  | tier1RemoteAccess => exact canonical_execTier1RemoteAccess _ h
  | linkFlitReceive => exact canonical_execLinkFlitReceive _ _ _ h
  | snapExternalTrigger => exact canonical_execSnapExternalTrigger h
  | powerUpReset => exact canonical_execPowerUpReset h
  | fwDownload => exact canonical_next (canonical_fwDownload h)
  | dispatcherElection => exact canonical_execDispatcherElection h
  | leaderFailover => exact canonical_execLeaderFailover h
  | launchRecordRead => exact canonical_execLaunchRecordRead h
  | indexGrant => exact canonical_execIndexGrant h
  | launchPoolRetry => exact canonical_execLaunchPoolRetry h
  | launchCompletion => exact canonical_execLaunchCompletion h
  | coreRestart => exact canonical_next (canonical_restartCore _ h)
  | frameModeEnable | frameModeDisable => exact canonical_next (canonical_setFrameMode _ _ h)
  | graftDeclare => exact canonical_next (canonical_declareFailed _ h)
  | graftRelease => exact canonical_next (canonical_graftRelease _ h)
  | graftTrainTimeout => exact canonical_execGraftTrainTimeout h
  | swapGo => exact canonical_execSwapGo h
  | swapPause => exact canonical_execSwapPause h
  | swapResume => exact canonical_execSwapResume h
  | heartbeatSend => exact canonical_execHeartbeatSend h
  | heartbeatTimeout => exact canonical_execHeartbeatTimeout h
  | packagePowerLoss => exact canonical_execPackagePowerLoss h
  | linkRetrain => exact canonical_execLinkRetrain h
  | retrainComplete => exact canonical_execRetrainComplete h
  | segmentArrival => exact canonical_execSegmentArrival h
  | refillComplete => exact canonical_execRefillComplete h
  | ringSlotForward => exact canonical_execRingSlotForward h
  | decodeStart => exact canonical_execDecodeStart h
  | decodeComplete => exact canonical_execDecodeComplete h
  | segmentCurrent => exact canonical_execSegmentCurrent h
  | computeFrameEnd => exact canonical_execComputeFrameEnd h
  | timetableRelease => exact canonical_execTimetableRelease h
  | entrySlip => exact canonical_execEntrySlip h
  | lateAccessPause => exact canonical_execLateAccessPause h
  | lateAccessResume => exact canonical_execLateAccessResume h
  | blockCheck => exact canonical_execBlockCheck h
  | holdDrop => exact canonical_next (canonical_settleDrops _ h)
  | strandPickup => exact canonical_execStrandPickup h
  | suspensionComplete => exact canonical_execSuspensionComplete h
  | eventOverflowScan => exact canonical_execEventOverflowScan h
  | spillRefill => exact canonical_execSpillRefill h
  | placementRetry => exact canonical_execPlacementRetry h
  | preemptTrigger => exact canonical_execPreemptTrigger h
  | preemptDrainEnd => exact canonical_execPreemptDrainEnd h
  | pollWake => exact canonical_execPollWake h
  | killPointStop => exact canonical_execKillPointStop h
  | trapEntry => exact canonical_execTrapEntry h
  | hangTimeout => exact canonical_execHangTimeout h
  | codeLineFill => exact canonical_execCodeLineFill h
  | variableResultLand => exact canonical_next (canonical_landSlot _ h)
  | routerMergeDepart => exact canonical_execRouterMergeDepart h
  | eccScrub => exact canonical_execEccScrub h
  | vectorCommandStart => exact canonical_execVectorCommandStart h
  | vectorCommandLand => exact canonical_execVectorCommandLand h
  | matrixCommandStart => exact canonical_execMatrixCommandStart h
  | matrixCommandComplete => exact canonical_execMatrixCommandComplete h
  | copyCommandStart => exact canonical_next (canonical_startCopy _ _ h)
  | copySettle => exact canonical_execCopySettle h
  | tbwaitPoll => exact canonical_execTbwaitPoll h
  | accessPerformed => exact canonical_next (canonical_drain _ _ _ h)
  | mirrorDieFailure => exact canonical_execMirrorDieFailure h

/-! ### The acts of a cycle -/

theorem canonical_runContext (c : Context) {s : State} (h : s.canonical) :
    CanonicalNext (runContext c s) := by
  grind [runContext, canonical_exec, CanonicalNext, canonical_fetchInstr, canonical_iff]

theorem canonical_runTaken (core : Nat) {o : Result} (t : Try) (ho : CanonicalNext o) :
    CanonicalNext (runTaken core o t) := by
  unfold runTaken
  split <;> grind [canonical_runContext, CanonicalNext, canonical_servedBy]

theorem canonical_runBlocked {o : Result} (t : Try) (ho : CanonicalNext o) :
    CanonicalNext (runBlocked o t) := by
  unfold runBlocked
  split <;> grind [canonical_runContext, CanonicalNext]

theorem canonical_runIdle {o : Result} (t : Try) (ho : CanonicalNext o) :
    CanonicalNext (runIdle o t) := by
  unfold runIdle
  split <;> grind [canonical_runContext, CanonicalNext, canonical_modRole]

theorem canonical_runAccesses {o : Host.Outcome State Fault Refusal} (k : Nat)
    (ho : CanonicalNext o) : CanonicalNext (runAccesses o k) := by
  refine canonical_foldl_next _ (fun x r hx => ?_) _ _ ho
  cases x with
  | next s => exact canonical_exec .accessPerformed (State.canonical.same hx)
  | fault => trivial
  | refused => trivial

theorem canonical_runSlot (core : Nat) (l : List Try) {o : Result} (j : Nat)
    (ho : CanonicalNext o) : CanonicalNext (runSlot core l o j) := by
  grind [runSlot, canonical_foldl_next, canonical_runAccesses, canonical_runTaken]

theorem canonical_runCore (core : Nat) {s : State} (h : s.canonical) :
    CanonicalNext (runCore core s) := by
  grind [runCore, canonical_foldl_next, canonical_runSlot, CanonicalNext, canonical_runBlocked,
    canonical_runIdle]

theorem canonical_runAct (a : Act) {s : State} (h : s.canonical) : CanonicalNext (runAct a s) := by
  unfold runAct
  split <;> grind [canonical_runContext, canonical_runCore, canonical_exec, CanonicalNext,
    canonical_copyPart, canonical_iff]

theorem canonical_lookAhead {s : State} (h : s.canonical) : (lookAhead s).canonical := by
  grind [lookAhead, canonical_newWalks, canonical_finishWalks, canonical_iff]

/-! ### One step -/

theorem canonical_powerUp {s : State} (l : List (Nat × Context × Instr)) (h : s.canonical) :
    CanonicalNext (powerUp s l) := by
  fun_induction powerUp s l with
  | case1 => trivial
  | case2 => exact canonical_exec .powerUpReset h.same
  | case3 => assumption

/-- What a step goes on with is in the form where the step began in it. -/
theorem canonical_step {s : State} (h : s.canonical) : CanonicalNext (step s) := by
  grind [step, canonical_lookAhead, canonical_beginCycle, canonical_powerUp, CanonicalNext,
    canonical_runAct, canonical_iff]

/-! ### The obligation -/

/-- Settles O53: `canonical_step`, said of the state a step goes on with. -/
theorem memoriesStayCanonical : Obligations.MemoriesStayCanonical := by
  unfold Obligations.MemoriesStayCanonical
  intro s t h hstep
  have hnext := canonical_step h
  rw [hstep] at hnext
  exact hnext

end Sys2Proof.Machine
end

section
/-! SUPPORT. What a write of hardware leaves alone, whether or not it wakes monitors, and what it leaves of the deep store where
nothing disturbs it: the laws that the statements on the ring store rest on. -/

namespace Sys2Proof.Machine

open Sys2Proof.Said

/-! ### What a write leaves alone

A write into the ring store may wake monitors, and a wake may reach any slot. `RingKept` is what every operation of a write
keeps, wakes and all; `WriteKept` adds what it keeps while no monitor waits. -/

/-- No monitor waits (15 R321). -/
def Unmonitored (s : State) : Prop := ∀ e ∈ s.clusters, e.2.monitors = []

theorem foldl_add_eq_zero_iff {α : Type} (f : α → Nat) (l : List α) :
    ∀ n, l.foldl (fun n e => n + f e) n = 0 ↔ n = 0 ∧ ∀ e ∈ l, f e = 0 := by
  induction l with
  | nil => simp
  | cons x l ih =>
    intro n
    rw [List.foldl_cons, ih, List.forall_mem_cons, Nat.add_eq_zero_iff, and_assoc]

theorem monitorCount_eq_zero_iff (s : State) : monitorCount s = 0 ↔ Unmonitored s := by
  simp [monitorCount, foldl_add_eq_zero_iff, Unmonitored]

/-- The ring and the swap stand as in `s`. -/
structure RingKept (s t : State) : Prop where
  ring : t.ring = s.ring
  swap : t.swap = s.swap

/-- The ring and the swap stand as in `s`, and where no monitor waits, so do the slots, and none waits after. -/
structure WriteKept (s t : State) : Prop extends RingKept s t where
  slots : Unmonitored s → t.slots = s.slots
  monitors : Unmonitored s → Unmonitored t

theorem RingKept.refl (s : State) : RingKept s s := ⟨rfl, rfl⟩

theorem RingKept.comp {s t u : State} (g : RingKept t u) (h : RingKept s t) : RingKept s u :=
  ⟨g.ring.trans h.ring, g.swap.trans h.swap⟩

/-- A step before that touches neither the ring nor the swap. -/
theorem RingKept.after {s t u : State} (g : RingKept t u) (hring : t.ring = s.ring := by rfl)
    (hswap : t.swap = s.swap := by rfl) : RingKept s u :=
  g.comp ⟨hring, hswap⟩

theorem WriteKept.refl (s : State) : WriteKept s s := ⟨.refl s, fun _ => rfl, id⟩

theorem WriteKept.comp {s t u : State} (g : WriteKept t u) (h : WriteKept s t) : WriteKept s u :=
  ⟨g.toRingKept.comp h.toRingKept, fun hs => (g.slots (h.monitors hs)).trans (h.slots hs),
    fun hs => g.monitors (h.monitors hs)⟩

/-- A change of other fields than the slots, the clusters, the ring and the swap. -/
theorem WriteKept.of_fields {s t : State} (hring : t.ring = s.ring := by rfl) (hswap : t.swap = s.swap := by rfl)
    (hslots : t.slots = s.slots := by rfl) (hclusters : t.clusters = s.clusters := by rfl) : WriteKept s t :=
  ⟨⟨hring, hswap⟩, fun _ => hslots, fun h => by unfold Unmonitored; rw [hclusters]; exact h⟩

theorem WriteKept.foldl {α : Type} {f : State → α → State} (hf : ∀ s a, WriteKept s (f s a)) (l : List α)
    (s : State) : WriteKept s (l.foldl f s) :=
  List.foldlRecOn (motive := WriteKept s) l f (.refl s) fun _ h a _ => (hf _ a).comp h

theorem writeKept_modCluster {s : State} {k : Nat} {f : Cluster → Cluster}
    (hf : (f (s.cluster k)).monitors = (s.cluster k).monitors) : WriteKept s (s.modCluster k f) := by
  refine ⟨⟨rfl, rfl⟩, fun _ => rfl, fun h e he => ?_⟩
  have hk : (s.cluster k).monitors = [] := Sp.get_of (fun c : Cluster => c.monitors = []) k rfl h
  rcases Sp.mem_set he with rfl | he
  · exact hf.trans hk
  · exact h e he

section Writes

variable (s : State) (p : Place)

theorem writeKept_rawWrite (n v : Nat) : WriteKept s (rawWrite s p n v) := by
  cases p <;> exact .of_fields

theorem writeKept_setMeta (m : BitVec 36) : WriteKept s (setMeta s p m) := by
  cases p <;> exact .of_fields

theorem writeKept_setPend (b : Bool) : WriteKept s (setPend s p b) :=
  writeKept_setMeta s p _

theorem writeKept_setErr (e : Flips) : WriteKept s (setErr s p e) := by
  cases p <;> exact .of_fields

theorem writeKept_setMetaErr (e : Flips) : WriteKept s (setMetaErr s p e) := by
  cases p <;> exact .of_fields

theorem writeKept_slotField (slot : Nat) : WriteKept s (slotField s slot).2 := by
  unfold slotField
  split
  · exact .refl s
  · exact .of_fields

theorem writeKept_logError (cluster kind slot dom array code synd jidx : Nat) (addr md : Word) :
    WriteKept s (logError s cluster kind slot dom array code synd jidx addr md) := by
  unfold logError
  exact WriteKept.comp (writeKept_modCluster rfl) (writeKept_slotField s slot)

theorem writeKept_logBad (slot dom : Nat) : WriteKept s (logBad s p slot dom) :=
  writeKept_logError ..

theorem writeKept_eccMeta (slot dom : Nat) : WriteKept s (eccMeta s p slot dom) := by
  unfold eccMeta
  dsimp only
  split
  · exact .refl s
  · exact (writeKept_logError ..).comp ((writeKept_setMetaErr ..).comp (writeKept_setMeta ..))

theorem writeKept_eccUnit (slot dom : Nat) : WriteKept s (eccUnit s p slot dom).1 := by
  have hmeta := writeKept_eccMeta s p slot dom
  unfold eccUnit
  split
  · exact writeKept_logBad ..
  · dsimp only
    split_ifs
    · exact hmeta
    · exact (writeKept_logError ..).comp ((writeKept_setErr ..).comp ((writeKept_rawWrite ..).comp hmeta))
    · exact (writeKept_logBad ..).comp hmeta

theorem writeKept_checkedLine (l : Nat) : WriteKept s (checkedLine s l) := by
  unfold checkedLine
  split
  · exact writeKept_logBad ..
  · exact .foldl (fun _ _ => writeKept_eccUnit ..) _ s

theorem writeKept_undoErrs (l at' : Nat) : WriteKept s (undoErrs s l at') :=
  .foldl (fun _ _ => writeKept_setErr ..) _ s

theorem writeKept_undoLog (pa : Nat) : WriteKept s (undoLog s pa) := by
  unfold undoLog
  split
  · have hline := writeKept_checkedLine s (pa / 64 * 64)
    dsimp only
    generalize checkedLine s (pa / 64 * 64) = s1 at hline ⊢
    split
    · exact WriteKept.comp (writeKept_modCluster rfl) ((writeKept_undoErrs ..).comp (.comp .of_fields hline))
    · exact (writeKept_undoErrs ..).comp (.comp .of_fields hline)
  · exact .refl s

theorem writeKept_noteStall (slot : Nat) : WriteKept s (noteStall s slot p) := by
  unfold noteStall
  split
  · dsimp only
    split
    · exact .refl s
    · exact (writeKept_logError ..).comp .of_fields
  · exact .refl s

theorem writeKept_inject (c slot dom : Nat) : WriteKept s (inject s c p slot dom) := by
  unfold inject
  split
  · exact (writeKept_logError ..).comp
      (.comp .of_fields ((writeKept_setErr ..).comp (writeKept_rawWrite s p.line 8 _)))
  · exact .refl s

theorem writeKept_writeNow (n v : Nat) (stamp : BitVec 36) (slot dom : Nat) :
    WriteKept s (writeNow s p n v stamp slot dom) := by
  unfold writeNow
  extract_lets s0 s1 s2 s3 pend s4
  have hundo : WriteKept s s0 := by
    cases p with
    | deep a => exact writeKept_undoLog s a
    | _ => exact .refl s
  have hdata : WriteKept s0 s2 := by
    refine (writeKept_rawWrite ..).comp ?_
    unfold s1
    split
    · exact .refl s0
    · exact writeKept_eccUnit ..
  have hbits : WriteKept s2 s3 := by
    unfold s3
    split
    · exact writeKept_setErr ..
    · exact .refl s2
  exact (writeKept_inject ..).comp ((writeKept_setPend ..).comp ((writeKept_setMetaErr ..).comp
    ((writeKept_setMeta ..).comp (hbits.comp (hdata.comp hundo)))))

theorem writeKept_writeRaw (n v : Nat) (stamp : BitVec 36) (slot dom : Nat) :
    WriteKept s (writeRaw s p n v stamp slot dom) := by
  unfold writeRaw
  split
  · exact WriteKept.comp .of_fields (writeKept_noteStall s p slot)
  · exact writeKept_writeNow ..

/-! ### What the wakes leave alone -/

theorem ringKept_listAppendRaw (cluster w : Nat) (va : Word) : RingKept s (listAppendRaw s cluster w va) := by
  unfold listAppendRaw
  dsimp only
  split
  · exact ⟨rfl, rfl⟩
  · exact (writeKept_writeRaw ..).toRingKept.after

theorem ringKept_placeResumeRaw (cluster : Nat) (e : Ready) : RingKept s (placeResumeRaw s cluster e) := by
  unfold placeResumeRaw
  split
  · exact ⟨rfl, rfl⟩
  · exact (ringKept_listAppendRaw ..).after

theorem ringKept_wakeRaw (cluster : Nat) (ref : RecRef) : RingKept s (wakeRaw s cluster ref) := by
  unfold wakeRaw
  split
  · exact ⟨rfl, rfl⟩
  · exact (ringKept_placeResumeRaw ..).comp (writeKept_writeRaw ..).toRingKept

end Writes

theorem ringKept_wakeLine (fuel : Nat) : ∀ (s : State) (p : Place), RingKept s (wakeLine s p fuel) := by
  induction fuel with
  | zero => exact fun s _ => .refl s
  | succ n ih =>
    intro s p
    unfold wakeLine
    dsimp only
    split
    · exact .refl s
    · split
      · exact .refl s
      · exact ((ih _ _).comp ((ih _ _).comp ((ih _ _).comp (ringKept_wakeRaw ..)))).after

theorem ringKept_wakeUndo (fuel : Nat) : ∀ s : State, RingKept s (wakeUndo s fuel) := by
  induction fuel with
  | zero => exact fun s => .refl s
  | succ n ih =>
    intro s
    unfold wakeUndo
    dsimp only
    split
    · exact .refl s
    · exact ((ih _).comp (ringKept_wakeLine ..)).after

theorem wakeWriters_unmonitored {s : State} (h : Unmonitored s) (p : Place) : wakeWriters s p = s :=
  if_pos ((monitorCount_eq_zero_iff s).2 h)

theorem writeKept_wakeWriters (s : State) (p : Place) : WriteKept s (wakeWriters s p) := by
  refine ⟨?_, fun h => by rw [wakeWriters_unmonitored h], fun h => by rwa [wakeWriters_unmonitored h]⟩
  unfold wakeWriters
  dsimp only
  split
  · exact .refl s
  · exact (ringKept_wakeUndo ..).comp (ringKept_wakeLine ..)

/-! ### Writes into the ring store (01 R13, 13 R272) -/

theorem writeKept_performWrite (s : State) (p : Place) (n v : Nat) (stamp : BitVec 36) (slot dom : Nat) :
    WriteKept s (performWrite s p n v stamp slot dom) := by
  unfold performWrite
  split
  · refine (writeKept_wakeWriters ..).comp ((writeKept_writeRaw ..).comp ?_)
    cases p <;> exact .of_fields
  · exact writeKept_rawWrite ..

theorem writeKept_ringWrite (s : State) (k i v : Nat) : WriteKept s (ringWrite s k i v) :=
  .foldl (fun _ _ => writeKept_performWrite ..) _ s

theorem writeKept_ringPut (s : State) (k : Nat) (h : BitVec 512) (payload : Mem) : WriteKept s (ringPut s k h payload) :=
  .foldl (fun _ _ => writeKept_ringWrite ..) _ s

end Sys2Proof.Machine

namespace Sys2Proof.Mem

theorem writeNat_mod (m : Mem) (a n v : Nat) : m.writeNat a n (v % 256 ^ n) = m.writeNat a n v := by
  induction n generalizing m a v with
  | zero => rfl
  | succ k ih =>
    have hbyte : BitVec.ofNat 8 (v % 256 ^ (k + 1)) = BitVec.ofNat 8 v :=
      BitVec.eq_of_toNat_eq (Nat.mod_mod_of_dvd v ⟨256 ^ k, Nat.pow_succ'⟩)
    have hrest : v % 256 ^ (k + 1) / 256 = v / 256 % 256 ^ k := by
      rw [Nat.pow_succ', Nat.mod_mul_right_div_self]
    simp only [writeNat]
    rw [hbyte, hrest, ih]

/-- A store is its first bytes, then the others. -/
theorem writeNat_add (m : Mem) (a j k v : Nat) :
    m.writeNat a (j + k) v = (m.writeNat a j v).writeNat (a + j) k (v / 256 ^ j) := by
  induction j generalizing m a v with
  | zero => simp [writeNat]
  | succ j ih =>
    rw [Nat.add_right_comm]
    simp only [writeNat]
    rw [ih, Nat.div_div_eq_div_mul, ← Nat.pow_succ', Nat.add_right_comm, Nat.add_assoc]

/-- Stores unit by unit come to one store. -/
theorem writeNat_units_succ (m : Mem) (a n v : Nat) :
    (m.writeNat a (8 * n) v).writeNat (a + 8 * n) 8 (v / 2 ^ (64 * n) % 2 ^ 64) = m.writeNat a (8 * (n + 1)) v := by
  have hunit : v / 2 ^ (64 * n) % 2 ^ 64 = v / 256 ^ (8 * n) % 256 ^ 8 := by
    rw [show (256 : Nat) = 2 ^ 8 from rfl, ← Nat.pow_mul, ← Nat.pow_mul, ← Nat.mul_assoc]
  rw [hunit, writeNat_mod, Nat.mul_succ, writeNat_add]

end Sys2Proof.Mem

namespace Sys2Proof.Machine

open Sys2Proof.Said

/-! ### A write that nothing disturbs -/

/-- Where the deep store holds no error, fresh check bits change nothing. -/
theorem setErr_deep_zero {s : State} (h : s.deepErr = []) (a : Nat) : setErr s (.deep a) 0 = s := by
  have hput : s.deepErr.put (a / 8) 0 0 = s.deepErr := by rw [h]; rfl
  simp only [setErr, hput]

theorem setMetaErr_deep_zero {s : State} (h : s.deepMetaErr = []) (a : Nat) : setMetaErr s (.deep a) 0 = s := by
  have hput : s.deepMetaErr.put (a / 64) 0 0 = s.deepMetaErr := by rw [h]; rfl
  simp only [setMetaErr, hput]

theorem inject_unarmed {s : State} {c : Nat} (h : (s.core c).einj.getLsbD 0 = false) (p : Place) (slot dom : Nat) :
    inject s c p slot dom = s := by
  have hmatch : einjMatches s c p = false := by simp only [einjMatches, h, Bool.false_and]
  unfold inject
  rw [hmatch, if_neg Bool.false_ne_true]

theorem undoLog_logged {s : State} {a : Nat} (h : undoFirst s a = false) : undoLog s a = s := by
  unfold undoLog
  rw [h, Bool.false_and, if_neg Bool.false_ne_true]

theorem undoStalls_logged {s : State} {a : Nat} (h : undoFirst s a = false) : undoStalls s (.deep a) = false := by
  simp only [undoStalls, h, Bool.false_and]

/-- Only bytes of the deep store and metadata of its lines are not as in `s`: the bytes are `m`. -/
def DeepWritten (s t : State) (m : Mem) : Prop := ∃ lines, t = { s with deep := m, deepMeta := lines }

/-- A whole unit of a line that is logged is written, and nothing else but its line's metadata. -/
theorem performWrite_quiet {s : State} (hq : AllQuiet s) {a : Nat} (hlogged : undoFirst s a = false) (v : Nat)
    (stamp : BitVec 36) :
    DeepWritten s (performWrite s (.deep a) 8 v stamp noSlot 0) (Mem.writeNat s.deep a 8 v) := by
  obtain ⟨hmon, herr, hmeta, heinj, -⟩ := hq
  have hraw : writeRaw s (.deep a) 8 v stamp noSlot 0 =
      let s1 := setMeta (rawWrite s (.deep a) 8 v) (.deep a) stamp
      setPend s1 (.deep a) (pendAt (rawWrite s (.deep a) 8 v) (.deep a)) := by
    unfold writeRaw
    rw [undoStalls_logged hlogged, if_neg Bool.false_ne_true]
    unfold writeNow
    simp only [undoLog_logged hlogged, if_true]
    rw [setErr_deep_zero (by exact herr), setMetaErr_deep_zero (by exact hmeta), inject_unarmed (by exact heinj _)]
  unfold performWrite
  rw [if_pos (by rfl), wakeWriters, if_pos]
  · exact hraw ▸ ⟨_, rfl⟩
  · exact hraw ▸ hmon

theorem ringAddrIn_mod (s : State) (dies : List Nat) (o : Nat) (h : o % 64 = 0) : ringAddrIn s dies o % 64 = 0 := by
  induction dies generalizing o with
  | nil => rfl
  | cons d rest ih =>
    simp only [ringAddrIn]
    unfold mib
    split_ifs
    · omega
    · exact ih _ (by omega)

/-- A flit stands in one line. -/
theorem ringAddr_mod (s : State) (k i : Nat) : ringAddr s k i % 64 = 0 := by
  have := ringAddrIn_mod s [0, 1, 2, 3] (slotBytes * k + 64 * i) (by unfold slotBytes; omega)
  unfold ringAddr
  omega

/-- The units of a line are logged together (20 R432). -/
theorem undoFirst_unit {s : State} {a i : Nat} (ha : a % 64 = 0) (hi : i < 8) : undoFirst s (a + 8 * i) = undoFirst s a := by
  have hline : (a + 8 * i) / 64 = a / 64 := by omega
  have hdie : (a + 8 * i) / 2 ^ 32 = a / 2 ^ 32 := by omega
  have hat : ∀ n, n * 2 ^ 20 ≤ (a + 8 * i) % 2 ^ 32 ↔ n * 2 ^ 20 ≤ a % 2 ^ 32 := by intro n; omega
  have hregion : s.regionOf (a + 8 * i) = s.regionOf a := by
    simp only [State.regionOf, hdie, hat, ← Nat.sub_mul]
  simp only [undoFirst, hregion, hline, hdie]

/-- A further unit is written. -/
theorem DeepWritten.write {s t : State} {m : Mem} (h : DeepWritten s t m) (hq : AllQuiet s) {a : Nat}
    (hlogged : undoFirst s a = false) (v : Nat) (stamp : BitVec 36) :
    DeepWritten s (performWrite t (.deep a) 8 v stamp noSlot 0) (Mem.writeNat m a 8 v) := by
  obtain ⟨lines, rfl⟩ := h
  obtain ⟨lines', h'⟩ := performWrite_quiet (s := { s with deep := m, deepMeta := lines }) hq hlogged v stamp
  exact ⟨lines', h'⟩

/-- The flit of a place whose line is logged is written whole, and nothing else but its line's metadata. -/
theorem ringWrite_quiet {s : State} (hq : AllQuiet s) {k i : Nat} (hlogged : undoFirst s (ringAddr s k i) = false) (v : Nat) :
    DeepWritten s (ringWrite s k i v) (Mem.writeNat s.deep (ringAddr s k i) 64 v) := by
  have hline := ringAddr_mod s k i
  unfold ringWrite performWrites
  generalize ringAddr s k i = a at hlogged hline ⊢
  have hunits : ∀ n, n ≤ 8 → DeepWritten s ((List.range n).foldl (fun acc j => performWrite acc
      ((Place.deep a).plus (8 * j)) 8 (v / 2 ^ (64 * j) % 2 ^ 64) (stampOrdered 0) noSlot 0) s)
      (Mem.writeNat s.deep a (8 * n) v) := by
    intro n hn
    induction n with
    | zero => exact ⟨s.deepMeta, rfl⟩
    | succ n ih =>
      rw [List.range_succ, List.foldl_append, List.foldl_cons, List.foldl_nil, ← Mem.writeNat_units_succ]
      exact (ih (by omega)).write hq ((undoFirst_unit hline (by omega)).trans hlogged) _ _
  exact hunits 8 le_rfl

end Sys2Proof.Machine
end

section
/-! PROOFS. The ring's events (22 R450 to R457, 18 R394, 23 R463, 01 R13): flits, links, failures, grafts, forwarding, refills
and swaps. -/

namespace Sys2Proof.Machine

open Sys2Proof.Said

/-! ### The events of the ring as steps -/

theorem exec_linkFlitReceive (seq : BitVec 16) (ok : Bool) (flit : BitVec 512) (s : State) :
    exec (.linkFlitReceive seq ok flit) s = execLinkFlitReceive seq ok flit s := rfl
theorem exec_segmentArrival (s : State) : exec .segmentArrival s = execSegmentArrival s := rfl
theorem exec_ringSlotForward (s : State) : exec .ringSlotForward s = execRingSlotForward s := rfl
theorem exec_linkRetrain (s : State) : exec .linkRetrain s = execLinkRetrain s := rfl
theorem exec_retrainComplete (s : State) : exec .retrainComplete s = execRetrainComplete s := rfl
theorem exec_graftDeclare (s : State) : exec .graftDeclare s = execGraftDeclare s := rfl
theorem exec_packagePowerLoss (s : State) : exec .packagePowerLoss s = execPackagePowerLoss s := rfl
theorem exec_graftRelease (s : State) : exec .graftRelease s = execGraftRelease s := rfl
theorem exec_graftTrainTimeout (s : State) : exec .graftTrainTimeout s = execGraftTrainTimeout s := rfl
theorem exec_heartbeatSend (s : State) : exec .heartbeatSend s = execHeartbeatSend s := rfl
theorem exec_heartbeatTimeout (s : State) : exec .heartbeatTimeout s = execHeartbeatTimeout s := rfl
theorem exec_refillComplete (s : State) : exec .refillComplete s = execRefillComplete s := rfl
theorem exec_swapGo (s : State) : exec .swapGo s = execSwapGo s := rfl
theorem exec_swapPause (s : State) : exec .swapPause s = execSwapPause s := rfl
theorem exec_swapResume (s : State) : exec .swapResume s = execSwapResume s := rfl

/-! ### The ring and its links under an update -/

@[simp] theorem State.modRing_ring (s : State) (f : Ring → Ring) : (s.modRing f).ring = f s.ring := rfl
@[simp] theorem State.modLink_ring (s : State) (p : Port) (f : Link → Link) :
    (s.modLink p f).ring = s.ring.setLink p (f (s.ring.link p)) := rfl

@[simp] theorem Ring.link_up (r : Ring) : r.link .up = r.up := rfl
@[simp] theorem Ring.link_down (r : Ring) : r.link .down = r.down := rfl
@[simp] theorem Ring.setLink_up (r : Ring) (l : Link) : r.setLink .up l = { r with up := l } := rfl
@[simp] theorem Ring.setLink_down (r : Ring) (l : Link) : r.setLink .down l = { r with down := l } := rfl

@[simp] theorem Ring.link_setLink (r : Ring) (p : Port) (l : Link) : (r.setLink p l).link p = l := by
  cases p <;> rfl

theorem Ring.link_setLink_ne (r : Ring) {p q : Port} (h : q ≠ p) (l : Link) : (r.setLink p l).link q = r.link q := by
  cases p <;> cases q <;> trivial

@[simp] theorem Ring.setLink_failed (r : Ring) (p : Port) (l : Link) : (r.setLink p l).failed = r.failed := by
  cases p <;> rfl

@[simp] theorem Ring.setLink_heartbeat (r : Ring) (p : Port) (l : Link) : (r.setLink p l).heartbeat = r.heartbeat := by
  cases p <;> rfl

theorem State.mreg_raiseEvent_ne (s : State) (n : Nat) {o : Nat} (h : o ≠ 0x20) : (s.raiseEvent n).mreg o = s.mreg o :=
  s.mreg_setMreg_ne h _

theorem mreg_setGraft_ne (s : State) (b : Bool) {o : Nat} (h : o ≠ 0x88) : (setGraft s b).mreg o = s.mreg o :=
  s.mreg_setMreg_ne h _

theorem raised_raiseEvent {s t : State} (h : t.mreg 0x20 = s.mreg 0x20) (n : Nat) : Raised n s (t.raiseEvent n) := by
  simp only [Raised, State.raiseEvent, State.mreg_setMreg_self, h]

theorem graftShown_setGraft (s : State) (b : Bool) : GraftShown (setGraft s b) b := by
  cases b <;> simp [GraftShown, setGraft]

/-! ### What stays within the ring, the swap and the management registers -/

end Sys2Proof.Machine

namespace Sys2Proof.Said

open Sys2Proof.Machine

theorem RingOnly.refl (s : State) : RingOnly s s := rfl

theorem RingOnly.modRing {s t : State} (h : RingOnly s t) (f : Ring → Ring) : RingOnly s (t.modRing f) := h
theorem RingOnly.modLink {s t : State} (h : RingOnly s t) (p : Port) (f : Link → Link) : RingOnly s (t.modLink p f) := h
theorem RingOnly.setMreg {s t : State} (h : RingOnly s t) (o : Nat) (v : Word) : RingOnly s (t.setMreg o v) := h
theorem RingOnly.setGraft {s t : State} (h : RingOnly s t) (b : Bool) : RingOnly s (setGraft t b) := h
theorem RingOnly.raiseEvent {s t : State} (h : RingOnly s t) (n : Nat) : RingOnly s (t.raiseEvent n) := h

theorem ringOnly_iff {s t : State} : RingOnly s t ↔ ∃ r w m, t = { s with ring := r, swap := w, mgmt := m } := by
  constructor
  · intro h
    refine ⟨t.ring, t.swap, t.mgmt, ?_⟩
    rw [← h]
  · rintro ⟨r, w, m, rfl⟩
    rfl

theorem RingOnly.trans {s t u : State} (h : RingOnly s t) (g : RingOnly t u) : RingOnly s u := by
  obtain ⟨r, w, m, rfl⟩ := ringOnly_iff.1 g
  exact h

theorem RingOnly.slots {s t : State} (h : RingOnly s t) : t.slots = s.slots := by
  obtain ⟨r, w, m, rfl⟩ := ringOnly_iff.1 h
  rfl

theorem RingOnly.powered {s t : State} (h : RingOnly s t) : t.powered = s.powered := by
  obtain ⟨r, w, m, rfl⟩ := ringOnly_iff.1 h
  rfl

/-- The stores read as before; the management window shows the management registers. -/
theorem RingOnly.storesKept {s t : State} (h : RingOnly s t) : StoresKept s t := by
  obtain ⟨r, w, m, rfl⟩ := ringOnly_iff.1 h
  intro p hp
  cases p with
  | window o => exact absurd rfl (hp o)
  | _ => rfl

end Sys2Proof.Said

namespace Sys2Proof.Machine

open Sys2Proof.Said

/-! ### Flits (22 R451) -/

theorem takeFlit_none {s : State} (hplace : crossing s = none) (flit : BitVec 512) : takeFlit s flit = none := by
  unfold crossing at hplace
  simp [takeFlit, hplace]

theorem takeFlit_some {s : State} {k : Nat} (hflits : s.ring.flits < slotFlits) (hplace : crossing s = some k)
    (flit : BitVec 512) :
    takeFlit s flit = some ((ringWrite s k s.ring.flits flit.toNat).modRing (fun r =>
      { r with incoming := Mem.writeNat r.incoming (64 * r.flits) 64 flit.toNat, flits := r.flits + 1, into := some k })) := by
  unfold crossing at hplace
  simp [takeFlit, hplace, hflits]

/-- Bytes stored as a bit vector read back as it. -/
theorem readNat_writeNat_toNat (m : Mem) (a n : Nat) (v : BitVec (8 * n)) :
    Mem.readNat (Mem.writeNat m a n v.toNat) a n = v.toNat := by
  rw [Mem.readNat_writeNat, show (256 : Nat) = 2 ^ 8 from rfl, ← Nat.pow_mul]
  exact Nat.mod_eq_of_lt v.isLt

/-- A deep write reads back, and leaves every byte outside it. -/
theorem DeepWritten.rawRead_outside {s t : State} {a n v : Nat} (h : DeepWritten s t (Mem.writeNat s.deep a n v)) {q : Place}
    (hq : Outside q (.deep a) n) : rawRead t q 1 = rawRead s q 1 := by
  obtain ⟨lines, rfl⟩ := h
  cases q with
  | deep b =>
    refine Mem.readNat_writeNat_outside _ _ _ _ _ _ ?_
    by_contra hin
    exact hq (b - a) (by omega) (congrArg Place.deep (by omega))
  | _ => rfl

/-- The flit of `s` that comes in order at port `p` is taken, with `t` what taking it leaves. -/
def acknowledged (s t : State) (p : Port) : State :=
  t.modLink p (fun x => { x with nextRecv := x.nextRecv + 1, discarding := false, replayFails := 0, silentSince := s.cycle })

section Flits

variable {s : State} (hrun : ringStopped s = false) (htrained : (s.ring.link s.cur.port).trained = true)

include hrun htrained

theorem execLinkFlitReceive_down (hport : s.cur.port = .down) (flit : BitVec 512) :
    execLinkFlitReceive (s.ring.link .down).nextRecv true flit s = .next (acknowledged s s .down) := by
  have hdown : s.ring.down.trained = true := by rw [hport] at htrained; exact htrained
  simp [execLinkFlitReceive, hrun, hdown, hport, acknowledged]

theorem execLinkFlitReceive_up (hport : s.cur.port = .up) (flit : BitVec 512) :
    execLinkFlitReceive (s.ring.link .up).nextRecv true flit s =
      ((takeFlit s flit).map (fun t => Host.Outcome.next (acknowledged s t .up))).getD (.next s) := by
  have hup : s.ring.up.trained = true := by rw [hport] at htrained; exact htrained
  simp only [execLinkFlitReceive, hrun, hport, Ring.link_up, hup]
  cases takeFlit s flit <;> simp [acknowledged]

theorem execLinkFlitReceive_bad (hfirst : (s.ring.link s.cur.port).discarding = false) (seq : BitVec 16) (flit : BitVec 512) :
    execLinkFlitReceive seq false flit s = .next (s.modLink s.cur.port (fun x => { x with discarding := true })) := by
  simp [execLinkFlitReceive, hrun, htrained, hfirst]

/-- A flit in order at U is taken into the ring store (22 R451, 01 R13). -/
theorem flit_taken_up (hport : s.cur.port = .up) (hflits : s.ring.flits < slotFlits) {k : Nat}
    (hplace : crossing s = some k) (hq : AllQuiet s) (hlogged : undoFirst s (ringAddr s k s.ring.flits) = false)
    (flit : BitVec 512) :
    let a := ringAddr s k s.ring.flits
    ∃ t, exec (.linkFlitReceive (s.ring.link .up).nextRecv true flit) s = .next t ∧ t.ring.flits = s.ring.flits + 1 ∧
      t.ring.into = some k ∧ Mem.readNat t.ring.incoming (64 * s.ring.flits) 64 = flit.toNat ∧
      rawRead t (.deep a) 64 = flit.toNat ∧ (∀ q, Outside q (.deep a) 64 → rawRead t q 1 = rawRead s q 1) ∧
      (t.ring.link .up).nextRecv = (s.ring.link .up).nextRecv + 1 ∧ (t.ring.link .up).discarding = false ∧
      SlotsKept (fun _ => False) s t := by
  have hwrite := ringWrite_quiet hq hlogged flit.toNat
  rw [exec_linkFlitReceive, execLinkFlitReceive_up hrun htrained hport, takeFlit_some hflits hplace]
  have houtside := fun q => hwrite.rawRead_outside (q := q)
  generalize ringWrite s k s.ring.flits flit.toNat = s1 at hwrite houtside ⊢
  obtain ⟨lines, rfl⟩ := hwrite
  refine ⟨_, rfl, rfl, rfl, readNat_writeNat_toNat _ _ 64 flit, readNat_writeNat_toNat _ _ 64 flit, fun q hq => ?_, rfl, rfl,
    fun _ _ => rfl⟩
  rw [← houtside q hq]
  cases q <;> rfl

theorem flit_taken_down (hport : s.cur.port = .down) (flit : BitVec 512) :
    ∃ t, exec (.linkFlitReceive (s.ring.link .down).nextRecv true flit) s = .next t ∧
      (t.ring.link .down).nextRecv = (s.ring.link .down).nextRecv + 1 ∧ (t.ring.link .down).discarding = false ∧
      (t.ring.link .down).silentSince = s.cycle ∧ RingOnly s t :=
  ⟨_, execLinkFlitReceive_down hrun htrained hport flit, rfl, rfl, rfl, rfl⟩

theorem flit_without_place (hport : s.cur.port = .up) (hplace : crossing s = none) (flit : BitVec 512) :
    exec (.linkFlitReceive (s.ring.link .up).nextRecv true flit) s = .next s := by
  rw [exec_linkFlitReceive, execLinkFlitReceive_up hrun htrained hport, takeFlit_none hplace]
  rfl

theorem flit_discarded (hfirst : (s.ring.link s.cur.port).discarding = false) (seq : BitVec 16) (flit : BitVec 512) :
    ∃ t, exec (.linkFlitReceive seq false flit) s = .next t ∧ (t.ring.link s.cur.port).discarding = true ∧
      (t.ring.link s.cur.port).nextRecv = (s.ring.link s.cur.port).nextRecv ∧ t.ring.incoming = s.ring.incoming ∧
      t.ring.flits = s.ring.flits ∧ RingOnly s t := by
  refine ⟨_, execLinkFlitReceive_bad hrun htrained hfirst seq flit, ?_⟩
  cases s.cur.port <;> exact ⟨rfl, rfl, rfl, rfl, rfl⟩

end Flits

/-- While the ring stands still, no flit is taken, no slot arrives and none is forwarded (22 R452). -/
theorem stopped_ring_stands {s : State} (hstop : ringStopped s = true) :
    (∀ seq ok flit, exec (.linkFlitReceive seq ok flit) s = .next s) ∧ exec .segmentArrival s = .next s ∧
      exec .ringSlotForward s = .next s := by
  refine ⟨fun seq ok flit => ?_, ?_, ?_⟩
  · simp [exec_linkFlitReceive, execLinkFlitReceive, hstop]
  · simp [exec_segmentArrival, execSegmentArrival, hstop]
  · rw [exec_ringSlotForward]
    unfold execRingSlotForward
    split
    · rfl
    · simp [hstop]

/-! ### Links that lose lock and train again (22 R452, R454, R456) -/

theorem mem_withPosition (l : List Nat) (pos : Nat) : pos ∈ (if l.contains pos then l else l ++ [pos]) := by
  split_ifs with h
  · simpa using h
  · simp

theorem ringStopped_of_paused {s : State} (h : s.ring.paused = true) : ringStopped s = true := by
  simp [ringStopped, h]

theorem ringStopped_of_away {s : State} {pos : Nat} (h : pos ∈ s.ring.away) : ringStopped s = true := by
  cases hl : s.ring.away <;> simp_all [ringStopped]

/-- What losing lock leaves: a link that trains, and a ring that pauses. -/
theorem retrain_spec (s : State) (p : Port) :
    ((retrain s p).ring.link p).trained = false ∧ (retrain s p).ring.paused = true ∧
      (retrain s p).ring.store = s.ring.store ∧ RingOnly s (retrain s p) := by
  cases p <;> exact ⟨rfl, rfl, rfl, rfl⟩

theorem link_lost (s : State) :
    ∃ t, exec .linkRetrain s = .next t ∧ t.ring.store = s.ring.store ∧ RingOnly s t ∧
      (s.cur.pos.toNat = s.ringPos → (t.ring.link s.cur.port).trained = false ∧ t.ring.paused = true) ∧
      (s.cur.pos.toNat ≠ s.ringPos → s.cur.pos.toNat ∈ t.ring.away ∧ ringStopped t = true) := by
  rw [exec_linkRetrain]
  unfold execLinkRetrain
  by_cases hpos : s.cur.pos.toNat = s.ringPos
  · obtain ⟨htrained, hpaused, hstore, honly⟩ := retrain_spec s s.cur.port
    exact ⟨_, if_pos hpos, hstore, honly, fun _ => ⟨htrained, hpaused⟩, fun h => absurd hpos h⟩
  · have haway := mem_withPosition s.ring.away s.cur.pos.toNat
    exact ⟨_, if_neg hpos, rfl, rfl, fun h => absurd h hpos, fun _ => ⟨haway, ringStopped_of_away haway⟩⟩

/-! #### Sound entries of the plan -/

theorem eccUnit_sound {s : State} {p : Place} (h : Sound s p) (slot dom : Nat) : eccUnit s p slot dom = (s, true) := by
  obtain ⟨herr, hmeta, hbad⟩ := h
  have hline : lineBad s p = false := by
    simp only [lineBad, hmeta, popcount, if_true]
    simpa using hbad
  have hs : eccMeta s p slot dom = s := by simp [eccMeta, hmeta]
  unfold eccUnit
  rw [hline, if_neg Bool.false_ne_true, hs]
  simp [herr]

theorem mendPlan_sound {s : State} {l : List Nat} (h : PlanSound s l) : mendPlan s l = s := by
  unfold mendPlan
  have hfix : ∀ os : List Nat, (∀ o ∈ os, Sound s (.deep (planBase s + o))) →
      os.foldl (fun acc o => (eccUnit acc (.deep (planBase s + o)) noSlot 0).1) s = s := by
    intro os hos
    induction os with
    | nil => rfl
    | cons o os ih =>
      rw [List.foldl_cons, eccUnit_sound (hos o (by simp))]
      exact ih fun o ho => hos o (by simp [ho])
  exact hfix _ h

/-! #### A port that has trained -/

/-- A trained link as the replay finds it (22 R451, R452). -/
def Link.resumed (l : Link) (now : Nat) : Link :=
  { l.replayed with trained := true, discarding := false, replayFails := 0, silentSince := now }

/-- What taking over across a failed package leaves; elsewhere it changes nothing (22 R454). -/
theorem takeOver_spec (t : State) :
    let u := takeOver t
    u.ring.up.trained = t.ring.up.trained ∧ u.ring.down = t.ring.down ∧ u.ring.failed = t.ring.failed ∧
      u.ring.releasing = t.ring.releasing ∧ u.ring.latched = t.ring.latched ∧ u.mgmt = t.mgmt ∧ RingOnly t u ∧
      (t.ring.up.retrainedOver = true → t.anyHeader = true →
        u.ring.report = some (planBefore t t.ring.planIndex) ∧ u.ring.incoming = [] ∧ u.ring.flits = 0) := by
  unfold takeOver
  by_cases hover : t.ring.up.retrainedOver = true
  · rw [if_pos hover]
    exact ⟨rfl, rfl, rfl, rfl, rfl, rfl, rfl, fun _ hany => ⟨if_pos hany, rfl, rfl⟩⟩
  · rw [if_neg hover]
    exact ⟨rfl, rfl, rfl, rfl, rfl, rfl, rfl, fun h => absurd h hover⟩

/-- What U's training leaves (22 R454). -/
theorem portTrained_up (s : State) :
    let t := portTrained s .up
    t.ring.up.trained = true ∧ t.ring.down = s.ring.down ∧
      t.ring.paused = (!s.ring.down.trained || s.ring.latched || s.ring.releasing.isSome) ∧
      t.ring.failed = s.ring.failed ∧ t.ring.releasing = s.ring.releasing ∧ t.ring.latched = s.ring.latched ∧
      t.mgmt = s.mgmt ∧ RingOnly s t ∧
      (s.ring.up.retrainedOver = true → s.anyHeader = true →
        t.ring.report = some (planBefore s s.ring.planIndex) ∧ t.ring.incoming = [] ∧ t.ring.flits = 0) := by
  have hspec := takeOver_spec (s.modLink .up (fun l => l.resumed s.cycle))
  have ht : portTrained s .up = (takeOver (s.modLink .up (fun l => l.resumed s.cycle))).modRing
      (fun r => { r with paused := !(r.up.trained && r.down.trained) || r.latched || r.releasing.isSome }) := rfl
  rw [ht]
  generalize takeOver (s.modLink .up (fun l => l.resumed s.cycle)) = u at hspec
  obtain ⟨hup, hdown, hfailed, hreleasing, hlatched, hmgmt, honly, hreport⟩ := hspec
  refine ⟨hup, hdown, ?_, hfailed, hreleasing, hlatched, hmgmt, ?_, hreport⟩
  · simp only [State.modRing_ring, hup, hdown, hlatched, hreleasing]
    simp [Link.resumed]
  · exact (((RingOnly.refl s).modLink _ _).trans honly).modRing _

/-- What D's training leaves where it does not reach across a failed package. -/
theorem portTrained_down {s : State} (hover : s.ring.down.retrainedOver = false) :
    (portTrained s .down).ring = { s.ring with
        down := s.ring.down.resumed s.cycle
        paused := !s.ring.up.trained || s.ring.latched || s.ring.releasing.isSome } ∧
      (portTrained s .down).mgmt = s.mgmt ∧ RingOnly s (portTrained s .down) := by
  have hnone : emitLost (s.modLink .down (fun l => l.resumed s.cycle)) = s.modLink .down (fun l => l.resumed s.cycle) := by
    unfold emitLost
    exact if_neg (Bool.eq_false_iff.1 hover)
  have ht : portTrained s .down = (emitLost (s.modLink .down (fun l => l.resumed s.cycle))).modRing
      (fun r => { r with paused := !(r.up.trained && r.down.trained) || r.latched || r.releasing.isSome }) := rfl
  rw [ht, hnone]
  refine ⟨?_, rfl, rfl⟩
  simp [Link.resumed]

theorem takeDelay_cons {t : State} {n : Nat} {rest : List Nat} (h : t.delays = n :: rest) :
    takeDelay t = (n, { t with delays := rest }) := by
  unfold takeDelay
  rw [h]

/-- Across a failed package D emits one LOST slot for every plan index that is missing (22 R454). -/
theorem emitLost_over {t : State} (hover : t.ring.down.retrainedOver = true) {n : Nat} {rest : List Nat}
    (hdelays : t.delays = n :: rest) (hsound : PlanSound t (lastPlans t t.ring.sentPlan n)) :
    let u := emitLost t
    u.ring.down.trained = t.ring.down.trained ∧ u.ring.down.retrainedOver = false ∧
      u.ring.lost = (lastPlans t t.ring.sentPlan n).map (lostOfPlan t) ∧ u.ring.store = t.ring.store ∧ u.slots = t.slots := by
  have hmend : mendPlan { t with delays := rest } (lastPlans t t.ring.sentPlan n) = { t with delays := rest } :=
    mendPlan_sound hsound
  have hplans : lastPlans { t with delays := rest } t.ring.sentPlan n = lastPlans t t.ring.sentPlan n := rfl
  unfold emitLost
  rw [if_pos hover, takeDelay_cons hdelays]
  dsimp only
  rw [hplans, hmend]
  exact ⟨rfl, rfl, rfl, rfl, rfl⟩

/-- What D's training leaves across a failed package. -/
theorem portTrained_down_over {s : State} (hover : s.ring.down.retrainedOver = true) {n : Nat} {rest : List Nat}
    (hdelays : s.delays = n :: rest) (hsound : PlanSound s (lastPlans s s.ring.sentPlan n)) :
    let t := portTrained s .down
    t.ring.down.trained = true ∧ t.ring.down.retrainedOver = false ∧
      t.ring.lost = (lastPlans s s.ring.sentPlan n).map (lostOfPlan s) ∧ t.ring.store = s.ring.store ∧ t.slots = s.slots :=
  emitLost_over (t := s.modLink .down (fun l => l.resumed s.cycle)) hover hdelays hsound

/-! #### RETRAIN_COMPLETE -/

theorem execRetrainComplete_alone {s : State} (hnone : s.ring.releasing = none) :
    execRetrainComplete s = .next (if s.cur.pos.toNat = s.ringPos then portTrained s s.cur.port
      else s.modRing (fun r => { r with away := stillAway s s.cur.pos.toNat })) := by
  unfold execRetrainComplete
  rw [hnone]
  dsimp only
  split_ifs <;> rfl

theorem execRetrainComplete_releasing {s : State} {k c0 : Nat} (hsome : s.ring.releasing = some (k, c0)) :
    execRetrainComplete s = .next (
      if s.cur.pos.toNat = s.ringPos then
        let s1 := portTrained s s.cur.port
        if k = s.cur.pos.toNat && decide (s.cycle < c0 + trainLimit) && s1.ring.up.trained && s1.ring.down.trained then
          joinRing s1 k
        else s1
      else
        let s1 := s.modRing (fun r => { r with away := stillAway s s.cur.pos.toNat })
        if k = s.cur.pos.toNat && decide (s.cycle < c0 + trainLimit) then joinRing s1 k else s1) := by
  unfold execRetrainComplete
  rw [hsome]
  dsimp only
  split_ifs <;> rfl

theorem not_mem_stillAway (s : State) (pos : Nat) : pos ∉ stillAway s pos := by
  simp [stillAway]

/-- U trains again (22 R452, R454). -/
theorem up_trained {s : State} (hnone : s.ring.releasing = none) (hpos : s.cur.pos.toNat = s.ringPos)
    (hport : s.cur.port = .up) :
    ∃ t, exec .retrainComplete s = .next t ∧ t.ring.up.trained = true ∧ t.ring.down = s.ring.down ∧
      t.ring.paused = (!s.ring.down.trained || s.ring.latched) ∧ RingOnly s t ∧
      (s.ring.up.retrainedOver = true → s.anyHeader = true →
        t.ring.report = some (planBefore s s.ring.planIndex) ∧ t.ring.incoming = [] ∧ t.ring.flits = 0) := by
  obtain ⟨hup, hdown, hpaused, -, -, -, -, honly, hreport⟩ := portTrained_up s
  rw [exec_retrainComplete, execRetrainComplete_alone hnone, if_pos hpos, hport]
  refine ⟨_, rfl, hup, hdown, ?_, honly, hreport⟩
  rw [hpaused, hnone]
  simp

/-- D trains again and resends from the first unacknowledged flit (22 R451, R452). -/
theorem down_trained {s : State} (hnone : s.ring.releasing = none) (hpos : s.cur.pos.toNat = s.ringPos)
    (hport : s.cur.port = .down) (hover : s.ring.down.retrainedOver = false) :
    ∃ t, exec .retrainComplete s = .next t ∧ t.ring.down.trained = true ∧ t.ring.up = s.ring.up ∧
      t.ring.down.nextSend = s.ring.down.nextSend - BitVec.ofNat 16 (s.ring.down.sent - s.ring.down.acked) ∧
      t.ring.down.sent = s.ring.down.acked ∧ t.ring.paused = (!s.ring.up.trained || s.ring.latched) ∧ RingOnly s t := by
  obtain ⟨hring, -, honly⟩ := portTrained_down hover
  rw [exec_retrainComplete, execRetrainComplete_alone hnone, if_pos hpos, hport]
  refine ⟨_, rfl, ?_⟩
  rw [hring, hnone]
  exact ⟨rfl, rfl, rfl, rfl, Bool.or_false _, honly⟩

theorem down_trained_over {s : State} (hnone : s.ring.releasing = none) (hpos : s.cur.pos.toNat = s.ringPos)
    (hport : s.cur.port = .down) (hover : s.ring.down.retrainedOver = true) {n : Nat} {rest : List Nat}
    (hdelays : s.delays = n :: rest) (hsound : PlanSound s (lastPlans s s.ring.sentPlan n)) :
    ∃ t, exec .retrainComplete s = .next t ∧ t.ring.down.trained = true ∧ t.ring.down.retrainedOver = false ∧
      t.ring.lost = (lastPlans s s.ring.sentPlan n).map (lostOfPlan s) ∧ t.ring.store = s.ring.store ∧ t.slots = s.slots := by
  rw [exec_retrainComplete, execRetrainComplete_alone hnone, if_pos hpos, hport]
  exact ⟨_, rfl, portTrained_down_over hover hdelays hsound⟩

theorem pause_elsewhere_ends {s : State} (hnone : s.ring.releasing = none) (hpos : s.cur.pos.toNat ≠ s.ringPos) :
    ∃ t, exec .retrainComplete s = .next t ∧ s.cur.pos.toNat ∉ t.ring.away ∧ RingOnly s t := by
  rw [exec_retrainComplete, execRetrainComplete_alone hnone, if_neg hpos]
  exact ⟨_, rfl, not_mem_stillAway _ _, rfl⟩

/-! #### A release that ends (22 R456) -/

/-- What a package that joins the ring again leaves: the links trained, the position failed no more (22 R456). -/
theorem joinRing_spec (s : State) (pos : Nat) :
    let t := joinRing s pos
    t.ring.releasing = none ∧ t.ring.paused = false ∧ pos ∉ t.ring.failed ∧ t.ring.up.trained = true ∧
      t.ring.down.trained = true ∧ t.ring.latched = s.ring.latched ∧ Raised 0 s t ∧ RingOnly s t := by
  have hfailed : pos ∉ s.ring.failed.filter (fun p => p != pos) := by simp
  unfold joinRing
  dsimp only
  split
  · exact ⟨rfl, rfl, hfailed, rfl, rfl, rfl, raised_raiseEvent (State.mreg_setMreg_ne _ (by decide) _) 0,
      ((((RingOnly.refl s).modRing _).modRing _).setMreg _ _).raiseEvent _⟩
  · exact ⟨rfl, rfl, hfailed, rfl, rfl, rfl, raised_raiseEvent rfl 0, ((RingOnly.refl s).modRing _).raiseEvent _⟩

/-- At this package the ring store fills only from now on, and GRAFT[0] and GRAFT[2] read 0. -/
theorem joinRing_here {s : State} {pos : Nat} (hpos : pos = s.ringPos) :
    (joinRing s pos).ring.store = [] ∧ ((joinRing s pos).mreg 0x88).getLsbD 0 = false ∧
      ((joinRing s pos).mreg 0x88).getLsbD 2 = false := by
  unfold joinRing
  dsimp only
  rw [if_pos hpos, State.mreg_raiseEvent_ne _ _ (by decide), State.mreg_setMreg_self]
  refine ⟨rfl, ?_, ?_⟩ <;> simp

theorem joinRing_elsewhere {s : State} {pos : Nat} (hpos : pos ≠ s.ringPos) : (joinRing s pos).ring.store = s.ring.store := by
  unfold joinRing
  dsimp only
  rw [if_neg hpos]
  rfl

/-- While a release is under way, a port that trains leaves the ring paused; both links stand trained where the other one
does. -/
theorem portTrained_releasing {s : State} {r : Nat × Nat} (hsome : s.ring.releasing = some r)
    (hover : s.cur.port = .down → s.ring.down.retrainedOver = false) :
    let t := portTrained s s.cur.port
    let other := if s.cur.port = .up then s.ring.down else s.ring.up
    (t.ring.up.trained && t.ring.down.trained) = other.trained ∧ (t.ring.link s.cur.port).trained = true ∧
      t.ring.paused = true ∧ t.ring.failed = s.ring.failed ∧ t.ring.releasing = s.ring.releasing ∧
      t.ring.latched = s.ring.latched ∧ t.mgmt = s.mgmt ∧ RingOnly s t := by
  cases hport : s.cur.port with
  | up =>
    obtain ⟨hup, hdown, hpaused, hfailed, hreleasing, hlatched, hmgmt, honly, -⟩ := portTrained_up s
    refine ⟨?_, hup, ?_, hfailed, hreleasing, hlatched, hmgmt, honly⟩
    · rw [hup, hdown, Bool.true_and]
      rfl
    · rw [hpaused, hsome]
      exact Bool.or_true _
  | down =>
    obtain ⟨hring, hmgmt, honly⟩ := portTrained_down (hover hport)
    dsimp only
    rw [hring]
    refine ⟨Bool.and_true _, rfl, ?_, rfl, rfl, rfl, hmgmt, honly⟩
    rw [hsome]
    exact Bool.or_true _

section ReleaseHere

variable {s : State} {c0 : Nat} (hsome : s.ring.releasing = some (s.ringPos, c0)) (hpos : s.cur.pos.toNat = s.ringPos)
  (hover : s.cur.port = .down → s.ring.down.retrainedOver = false)

include hsome hpos hover

/-- This package's release ends where its second link trains in time (22 R456, step 4). -/
theorem release_ends_here (htime : s.cycle < c0 + 220000000)
    (hother : (if s.cur.port = .up then s.ring.down else s.ring.up).trained = true) :
    ∃ t, exec .retrainComplete s = .next t ∧ t.ring.releasing = none ∧ t.ring.latched = s.ring.latched ∧
      t.ring.paused = false ∧ s.ringPos ∉ t.ring.failed ∧ t.ring.store = [] ∧ t.ring.up.trained = true ∧
      t.ring.down.trained = true ∧ (t.mreg 0x88).getLsbD 0 = false ∧ (t.mreg 0x88).getLsbD 2 = false ∧ Raised 0 s t ∧
      RingOnly s t := by
  obtain ⟨hboth, -, -, -, -, hlatched, hmgmt, honly⟩ := portTrained_releasing hsome hover
  have hlimit : s.cycle < c0 + trainLimit := htime
  rw [exec_retrainComplete, execRetrainComplete_releasing hsome, if_pos hpos]
  dsimp only
  rw [if_pos (by rw [Bool.and_assoc, hboth, hother]; simp [hpos, hlimit])]
  generalize portTrained s s.cur.port = s1 at hlatched hmgmt honly
  have hpos1 : s.ringPos = s1.ringPos := by unfold State.ringPos State.mreg; rw [hmgmt]
  obtain ⟨hnone, hpaused, hfailed, hup, hdown, hlatched1, hraised, honly1⟩ := joinRing_spec s1 s.ringPos
  obtain ⟨hstore, hbit0, hbit2⟩ := joinRing_here hpos1
  refine ⟨_, rfl, hnone, hlatched1.trans hlatched, hpaused, hfailed, hstore, hup, hdown, hbit0, hbit2, ?_,
    honly.trans honly1⟩
  unfold Raised State.mreg at hraised ⊢
  rw [hraised, hmgmt]

/-- Until then, and once its time is over, the release stays under way, and the ring paused. -/
theorem release_goes_on_here
    (hlate : c0 + 220000000 ≤ s.cycle ∨ (if s.cur.port = .up then s.ring.down else s.ring.up).trained = false) :
    ∃ t, exec .retrainComplete s = .next t ∧ t.ring.releasing = s.ring.releasing ∧ t.ring.paused = true ∧
      t.ring.failed = s.ring.failed ∧ (t.ring.link s.cur.port).trained = true ∧ RingOnly s t := by
  obtain ⟨hboth, htrained, hpaused, hfailed, hreleasing, -, -, honly⟩ := portTrained_releasing hsome hover
  rw [exec_retrainComplete, execRetrainComplete_releasing hsome, if_pos hpos]
  refine ⟨_, congrArg Host.Outcome.next (if_neg ?_), hreleasing, hpaused, hfailed, htrained, honly⟩
  rw [Bool.and_assoc, hboth]
  rcases hlate with hlate | hlate
  · simp [Nat.not_lt.2 (show c0 + trainLimit ≤ s.cycle from hlate)]
  · simp [hlate]

end ReleaseHere

section ReleaseElsewhere

variable {s : State} {k c0 : Nat} (hsome : s.ring.releasing = some (k, c0)) (hk : k ≠ s.ringPos) (hpos : s.cur.pos.toNat = k)

include hsome hk hpos

theorem release_ends_elsewhere (htime : s.cycle < c0 + 220000000) :
    ∃ t, exec .retrainComplete s = .next t ∧ t.ring.releasing = none ∧ t.ring.paused = false ∧ k ∉ t.ring.failed ∧
      t.ring.store = s.ring.store ∧ t.ring.up.trained = true ∧ t.ring.down.trained = true ∧ Raised 0 s t ∧ RingOnly s t := by
  subst hpos
  rw [exec_retrainComplete, execRetrainComplete_releasing hsome, if_neg hk]
  dsimp only
  rw [if_pos (by simpa using (show s.cycle < c0 + trainLimit from htime))]
  obtain ⟨hnone, hpaused, hfailed, hup, hdown, -, hraised, honly⟩ :=
    joinRing_spec (s.modRing (fun r => { r with away := stillAway s s.cur.pos.toNat })) s.cur.pos.toNat
  exact ⟨_, rfl, hnone, hpaused, hfailed, joinRing_elsewhere hk, hup, hdown, hraised,
    ((RingOnly.refl s).modRing _).trans honly⟩

theorem release_goes_on_elsewhere (hlate : c0 + 220000000 ≤ s.cycle) :
    ∃ t, exec .retrainComplete s = .next t ∧ t.ring.releasing = s.ring.releasing ∧ t.ring.failed = s.ring.failed ∧
      RingOnly s t := by
  subst hpos
  rw [exec_retrainComplete, execRetrainComplete_releasing hsome, if_neg hk]
  dsimp only
  rw [if_neg (by simpa using (show c0 + trainLimit ≤ s.cycle from hlate))]
  exact ⟨_, rfl, rfl, rfl, rfl⟩

end ReleaseElsewhere

/-! ### Declared failures and grafts (22 R452 to R456) -/

/-- The declaration alone: the position has failed, and EVENTS[3] is raised. -/
def declared (s : State) (pos : Nat) : State :=
  (s.modRing (fun r => { r with failed := if r.failed.contains pos then r.failed else r.failed ++ [pos] })).raiseEvent 3

/-- Port `p` retrains across the failed neighbour, in cycle `now`. -/
def acrossFailed (now : Nat) (t : State) (p : Port) : State :=
  setGraft ((retrain t p).modLink p (fun l => { l with retrainedOver := true, untrainedSince := now })) true

theorem declared_spec (s : State) (pos : Nat) :
    pos ∈ (declared s pos).ring.failed ∧ Raised 3 s (declared s pos) ∧ RingOnly s (declared s pos) :=
  ⟨mem_withPosition .., raised_raiseEvent rfl 3, ((RingOnly.refl s).modRing _).raiseEvent 3⟩

theorem acrossFailed_ring (now : Nat) (t : State) (p : Port) :
    (acrossFailed now t p).ring =
      { t.ring.setLink p { t.ring.link p with
          trained := false, discarding := false, replayFails := 0, retrainedOver := true, untrainedSince := now } with
        paused := true } := by
  cases p <;> rfl

theorem acrossFailed_spec (now : Nat) (t : State) (p : Port) :
    let u := acrossFailed now t p
    (u.ring.link p).trained = false ∧ (u.ring.link p).retrainedOver = true ∧ (∀ q, q ≠ p → u.ring.link q = t.ring.link q) ∧
      u.ring.failed = t.ring.failed ∧ u.ring.paused = true ∧ GraftShown u true ∧ u.mreg 0x20 = t.mreg 0x20 ∧ RingOnly t u := by
  have honly : RingOnly t (acrossFailed now t p) :=
    ((((RingOnly.refl t).modLink _ _).modRing _).modLink _ _).setGraft _
  have hevents : (acrossFailed now t p).mreg 0x20 = t.mreg 0x20 := mreg_setGraft_ne _ _ (by decide)
  have hgraft : GraftShown (acrossFailed now t p) true := graftShown_setGraft ..
  dsimp only
  refine ⟨?_, ?_, fun q hq => ?_, ?_, ?_, hgraft, hevents, honly⟩
  · rw [acrossFailed_ring]
    cases p <;> rfl
  · rw [acrossFailed_ring]
    cases p <;> rfl
  · rw [acrossFailed_ring]
    cases q <;> exact Ring.link_setLink_ne t.ring hq _
  · rw [acrossFailed_ring]
    exact Ring.setLink_failed ..
  · rw [acrossFailed_ring]

theorem declareFailed_here {s : State} {pos : Nat} (hpos : pos = s.ringPos) :
    declareFailed s pos =
      setGraft ((declared s pos).modRing (fun r => { r with latched := true, former := s.mreg 0x80, paused := true })) true := by
  unfold declareFailed
  dsimp only
  rw [if_pos hpos]
  rfl

theorem declareFailed_elsewhere {s : State} {pos : Nat} (hpos : pos ≠ s.ringPos) :
    declareFailed s pos =
      let s1 := declared s pos
      let s2 := if neighbour s .up = pos then acrossFailed s.cycle s1 .up else s1
      let s3 := if neighbour s .down = pos then acrossFailed s.cycle s2 .down else s2
      if neighbour s .up = pos || neighbour s .down = pos then s3
      else s3.modRing (fun r => { r with away := if r.away.contains pos then r.away else r.away ++ [pos] }) := by
  unfold declareFailed
  dsimp only
  rw [if_neg hpos]
  rfl

/-- What a declaration leaves everywhere, at the failed package, beside it and farther away (22 R453). -/
structure Declared (s t : State) (pos : Nat) : Prop where
  failed : pos ∈ t.ring.failed
  stopped : ringStopped t = true
  raised : Raised 3 s t
  only : RingOnly s t
  away : pos ≠ s.ringPos → (∀ p, neighbour s p ≠ pos) → pos ∈ t.ring.away ∧ t.ring.paused = s.ring.paused
  here : pos = s.ringPos → t.ring.latched = true ∧ t.ring.former = s.mreg 0x80 ∧ GraftShown t true
  beside : pos ≠ s.ringPos → ∀ p, neighbour s p = pos →
    (t.ring.link p).trained = false ∧ (t.ring.link p).retrainedOver = true ∧ GraftShown t true

/-- One link more retrains across the failed package. -/
theorem declared_across {s t : State} {pos : Nat} {p : Port} (hpos : pos ≠ s.ringPos) (hp : neighbour s p = pos)
    (hfailed : pos ∈ t.ring.failed) (hraised : Raised 3 s t) (honly : RingOnly s t)
    (hother : ∀ q, q ≠ p → neighbour s q = pos → (t.ring.link q).trained = false ∧ (t.ring.link q).retrainedOver = true) :
    Declared s (acrossFailed s.cycle t p) pos := by
  obtain ⟨htrained, hover, hrest, hfailed1, hpaused, hgraft, hevents, honly1⟩ := acrossFailed_spec s.cycle t p
  refine ⟨hfailed1 ▸ hfailed, ringStopped_of_paused hpaused, hevents.trans hraised, honly.trans honly1,
    fun _ h => absurd hp (h p), fun h => absurd h hpos, fun _ q hq => ?_⟩
  by_cases hqp : q = p
  · subst hqp
    exact ⟨htrained, hover, hgraft⟩
  · rw [hrest q hqp]
    exact ⟨(hother q hqp hq).1, (hother q hqp hq).2, hgraft⟩

theorem declareFailed_declares (s : State) (pos : Nat) : Declared s (declareFailed s pos) pos := by
  obtain ⟨hfailed, hraised, honly⟩ := declared_spec s pos
  by_cases hpos : pos = s.ringPos
  · rw [declareFailed_here hpos]
    exact ⟨hfailed, rfl, (mreg_setGraft_ne _ _ (by decide)).trans hraised, (honly.modRing _).setGraft _,
      fun h => absurd hpos h, fun _ => ⟨rfl, rfl, graftShown_setGraft ..⟩, fun h => absurd hpos h⟩
  · rw [declareFailed_elsewhere hpos]
    dsimp only
    by_cases hup : neighbour s .up = pos <;> by_cases hdown : neighbour s .down = pos
    · obtain ⟨htrained, hover, -, hfailed1, -, -, hevents, honly1⟩ := acrossFailed_spec s.cycle (declared s pos) .up
      simp only [hup, hdown, decide_true, Bool.true_or, if_true]
      refine declared_across hpos hdown (hfailed1 ▸ hfailed) (hevents.trans hraised) (honly.trans honly1) fun q hq _ => ?_
      cases q with
      | up => exact ⟨htrained, hover⟩
      | down => exact absurd rfl hq
    · simp only [hup, hdown, decide_true, decide_false, Bool.true_or, if_true, if_false]
      refine declared_across hpos hup hfailed hraised honly fun q hq hqpos => ?_
      cases q with
      | up => exact absurd rfl hq
      | down => exact absurd hqpos hdown
    · simp only [hup, hdown, decide_true, decide_false, Bool.or_true, if_true, if_false]
      refine declared_across hpos hdown hfailed hraised honly fun q hq hqpos => ?_
      cases q with
      | up => exact absurd hqpos hup
      | down => exact absurd rfl hq
    · simp only [hup, hdown, decide_false, Bool.or_false, if_false, Bool.false_eq_true]
      have haway := mem_withPosition (declared s pos).ring.away pos
      refine ⟨hfailed, ringStopped_of_away haway, hraised, honly.modRing _, fun _ _ => ⟨haway, rfl⟩,
        fun h => absurd h hpos, fun _ p hp => ?_⟩
      cases p with
      | up => exact absurd hp hup
      | down => exact absurd hp hdown

/-- Power off, with nothing more to do. -/
def unpowered (s : State) : State := { s with powered := false, agenda := [] }

theorem execPackagePowerLoss_eq (s : State) :
    execPackagePowerLoss s = .next (if s.cur.pos.toNat = s.ringPos then unpowered (declareFailed s s.cur.pos.toNat)
      else declareFailed s s.cur.pos.toNat) := by
  unfold execPackagePowerLoss
  dsimp only
  split <;> rfl

/-- A declaration, by software or by a loss of power (22 R453). -/
theorem failure_declared (s : State) (i : Instr) (hi : i ∈ [Instr.graftDeclare, Instr.packagePowerLoss]) :
    ∃ t, exec i s = .next t ∧ s.cur.pos.toNat ∈ t.ring.failed ∧ ringStopped t = true ∧ Raised 3 s t ∧
      (s.cur.pos.toNat ≠ s.ringPos → (∀ p, neighbour s p ≠ s.cur.pos.toNat) →
        s.cur.pos.toNat ∈ t.ring.away ∧ t.ring.paused = s.ring.paused) ∧
      (s.cur.pos.toNat = s.ringPos → t.ring.latched = true ∧ t.ring.former = s.mreg 0x80 ∧ GraftShown t true) ∧
      (s.cur.pos.toNat ≠ s.ringPos → ∀ p, neighbour s p = s.cur.pos.toNat →
        (t.ring.link p).trained = false ∧ (t.ring.link p).retrainedOver = true ∧ GraftShown t true) ∧
      t.powered = (s.powered && !(decide (i = .packagePowerLoss) && decide (s.cur.pos.toNat = s.ringPos))) ∧
      t.slots = s.slots ∧ StoresKept s t := by
  have hdeclared := declareFailed_declares s s.cur.pos.toNat
  have hslots := hdeclared.only.slots
  have hstores := hdeclared.only.storesKept
  have hpowered := hdeclared.only.powered
  rcases List.mem_pair.1 hi with rfl | rfl
  · refine ⟨_, exec_graftDeclare s, hdeclared.failed, hdeclared.stopped, hdeclared.raised, hdeclared.away, hdeclared.here,
      hdeclared.beside, ?_, hslots, hstores⟩
    simpa using hpowered
  · rw [exec_packagePowerLoss, execPackagePowerLoss_eq]
    by_cases hpos : s.cur.pos.toNat = s.ringPos
    · rw [if_pos hpos]
      refine ⟨_, rfl, hdeclared.failed, hdeclared.stopped, hdeclared.raised, hdeclared.away, hdeclared.here,
        hdeclared.beside, ?_, hslots, fun p hp => ?_⟩
      · simp [hpos, unpowered]
      · rw [← hstores p hp]
        cases p <;> rfl
    · rw [if_neg hpos]
      refine ⟨_, rfl, hdeclared.failed, hdeclared.stopped, hdeclared.raised, hdeclared.away, hdeclared.here,
        hdeclared.beside, ?_, hslots, hstores⟩
      simpa [hpos] using hpowered

/-! #### The release of a graft (22 R456) -/

theorem releaseLinks_here (s : State) (r : Ring) :
    releaseLinks s s.ringPos r = { r with up := trains s r.up, down := trains s r.down } := by
  simp [releaseLinks, trains]

theorem releaseLinks_elsewhere {s : State} {pos : Nat} (hpos : pos ≠ s.ringPos) (r : Ring) :
    releaseLinks s pos r = { r with
      up := if (pos + 1) % Nat.max 1 s.ringLen = s.ringPos then trains s r.up else r.up
      down := if (s.ringPos + 1) % Nat.max 1 s.ringLen = pos then trains s r.down else r.down } := by
  simp [releaseLinks, trains, hpos]

/-- This package's release begins at PSTAT 4, with RING as it was and frame mode off in every domain. -/
theorem release_begins_here {s : State} (hpos : s.cur.pos.toNat = s.ringPos) (hboot : field (s.mreg 0) 0 4 = 4)
    (hlatched : s.ring.latched = true) (hring : s.mreg 0x80 = s.ring.former) (hmode : ∀ d, s.frameMode d = false)
    (hnone : s.ring.releasing = none) :
    ∃ t, exec .graftRelease s = .next t ∧ RingOnly s t ∧
      t.ring = { s.ring with
        releasing := some (s.ringPos, s.cycle), paused := true, latched := false, up := trains s s.ring.up,
        down := trains s s.ring.down } ∧ GraftShown t false ∧
      (t.mreg 0x88).getLsbD 2 = true := by
  have hboot' : bitsOf (s.mreg 0) 0 4 = 4 := hboot
  have hok : releaseOk s s.ringPos = true := by simp [releaseOk, hnone, hboot', hlatched, hring, hmode]
  rw [exec_graftRelease, execGraftRelease, hpos]
  unfold graftRelease
  simp only [hok, Bool.not_true, Bool.false_eq_true, if_false, if_true]
  refine ⟨_, rfl, ((((RingOnly.refl s).modRing _).modRing _).setGraft _).setMreg _ _, ?_, ?_, ?_⟩
  · simp only [releaseLinks_here]
    rfl
  · simp [GraftShown]
  · simp

theorem release_begins_elsewhere {s : State} (hpos : s.cur.pos.toNat ≠ s.ringPos) (hfailed : s.cur.pos.toNat ∈ s.ring.failed)
    (hnone : s.ring.releasing = none) :
    ∃ t, exec .graftRelease s = .next t ∧ RingOnly s t ∧
      (let n := Nat.max 1 s.ringLen
       t.ring = { s.ring with
        releasing := some (s.cur.pos.toNat, s.cycle), paused := true,
        up := if (s.cur.pos.toNat + 1) % n = s.ringPos then trains s s.ring.up else s.ring.up,
        down := if (s.ringPos + 1) % n = s.cur.pos.toNat then trains s s.ring.down else s.ring.down }) ∧
      (nextTo s s.cur.pos.toNat = true → GraftShown t false) := by
  have hok : releaseOk s s.cur.pos.toNat = true := by simp [releaseOk, hnone, hpos, hfailed]
  rw [exec_graftRelease, execGraftRelease]
  unfold graftRelease
  simp only [hok, hpos, Bool.not_true, Bool.false_eq_true, if_false]
  by_cases hnext : nextTo s s.cur.pos.toNat = true
  · rw [if_pos hnext]
    exact ⟨_, rfl, rfl, releaseLinks_elsewhere hpos _, fun _ => graftShown_setGraft ..⟩
  · rw [if_neg hnext]
    exact ⟨_, rfl, rfl, releaseLinks_elsewhere hpos _, fun h => absurd h hnext⟩

/-- The links of a release have not trained in time: rotation resumes as it stood. -/
def resumedAs (s : State) (mine : Bool) : Ring :=
  let back (l : Link) : Link := if mine then l else { l with trained := true, silentSince := s.cycle }
  { s.ring with
    releasing := none, paused := mine, latched := s.ring.latched || mine, up := back s.ring.up, down := back s.ring.down }

theorem resumedAs_true (s : State) :
    resumedAs s true = { s.ring with releasing := none, paused := true, latched := true } := by
  simp [resumedAs]

theorem resumedAs_false (s : State) :
    resumedAs s false = { s.ring with
      releasing := none, paused := false, up := { s.ring.up with trained := true, silentSince := s.cycle },
      down := { s.ring.down with trained := true, silentSince := s.cycle } } := by
  simp [resumedAs]

/-- That the release is over, GRAFT[2], leaves GRAFT[1] as it was. -/
theorem graftShown_timedOut {s : State} (h : GraftShown s true) :
    GraftShown ((s.setMreg 0x88 (s.mreg 0x88 &&& ~~~4#64)).raiseEvent 3) true := by
  unfold GraftShown at h ⊢
  rw [State.mreg_raiseEvent_ne _ _ (by decide), State.mreg_setMreg_self]
  simp [h]

theorem execGraftTrainTimeout_late {s : State} {p c0 : Nat} (hsome : s.ring.releasing = some (p, c0))
    (hlate : c0 + 220000000 ≤ s.cycle) :
    execGraftTrainTimeout s =
      let s1 := s.modRing (fun _ => resumedAs s (decide (p = s.ringPos)))
      let s2 := if decide (p = s.ringPos) || nextTo s p then setGraft s1 true else s1
      .next ((s2.setMreg 0x88 (s2.mreg 0x88 &&& ~~~4#64)).raiseEvent 3) := by
  unfold execGraftTrainTimeout
  rw [hsome]
  dsimp only
  rw [if_neg (show ¬ s.cycle < c0 + trainLimit from Nat.not_lt.2 hlate)]
  simp [resumedAs, State.modRing]

theorem release_times_out {s : State} {p c0 : Nat} (hsome : s.ring.releasing = some (p, c0))
    (hlate : c0 + 220000000 ≤ s.cycle) :
    ∃ t, exec .graftTrainTimeout s = .next t ∧ Raised 3 s t ∧ RingOnly s t ∧ (t.mreg 0x88).getLsbD 2 = false ∧
      (p = s.ringPos → t.ring = { s.ring with releasing := none, paused := true, latched := true } ∧ GraftShown t true) ∧
      (p ≠ s.ringPos →
        t.ring = { s.ring with
          releasing := none, paused := false, up := { s.ring.up with trained := true, silentSince := s.cycle },
          down := { s.ring.down with trained := true, silentSince := s.cycle } } ∧
        (nextTo s p = true → GraftShown t true)) := by
  rw [exec_graftTrainTimeout, execGraftTrainTimeout_late hsome hlate]
  extract_lets +onlyGivenNames s1 s2
  have honly : RingOnly s s2 := by
    unfold s2
    split
    · exact ((RingOnly.refl s).modRing _).setGraft _
    · exact (RingOnly.refl s).modRing _
  have hring : s2.ring = resumedAs s (decide (p = s.ringPos)) := by
    unfold s2
    split <;> rfl
  have hevents : s2.mreg 0x20 = s.mreg 0x20 := by
    unfold s2
    split
    · exact mreg_setGraft_ne _ _ (by decide)
    · rfl
  have hgraft : (decide (p = s.ringPos) || nextTo s p) = true → GraftShown s2 true := by
    intro h
    unfold s2
    rw [if_pos h]
    exact graftShown_setGraft ..
  refine ⟨_, rfl, raised_raiseEvent ((State.mreg_setMreg_ne _ (by decide) _).trans hevents) 3,
    (honly.setMreg _ _).raiseEvent _, ?_, fun hp => ?_, fun hp => ?_⟩
  · rw [State.mreg_raiseEvent_ne _ _ (by decide), State.mreg_setMreg_self]
    simp
  · rw [decide_eq_true hp] at hring hgraft
    exact ⟨hring.trans (resumedAs_true s), graftShown_timedOut (hgraft rfl)⟩
  · rw [decide_eq_false hp] at hring hgraft
    exact ⟨hring.trans (resumedAs_false s), fun hnext => graftShown_timedOut (hgraft hnext)⟩

/-! ### Heartbeats (22 R453) -/

theorem heartbeat_sent {s : State} (hpos : s.cur.pos.toNat = s.ringPos) (hdue : s.ring.heartbeat + 1100000 ≤ s.cycle) :
    exec .heartbeatSend s = .next { s with ring := { s.ring with heartbeat := s.cycle } } := by
  rw [exec_heartbeatSend]
  unfold execHeartbeatSend
  dsimp only
  rw [if_pos hpos, if_neg (show ¬ s.cycle < s.ring.heartbeat + cyclesPerMs from Nat.not_lt.2 hdue)]
  rfl

/-- A heartbeat that has come is heard at a port. -/
def heard (s : State) (t : State) (p : Port) : State :=
  if neighbour s p = s.cur.pos.toNat then t.modLink p (fun l => { l with silentSince := s.cycle }) else t

theorem execHeartbeatSend_elsewhere {s : State} (hpos : s.cur.pos.toNat ≠ s.ringPos) :
    execHeartbeatSend s = .next (heard s (heard s s .up) .down) := by
  unfold execHeartbeatSend
  dsimp only
  rw [if_neg hpos]
  rfl

theorem heard_spec (s t : State) (p : Port) :
    let u := heard s t p
    (neighbour s p = s.cur.pos.toNat → (u.ring.link p).silentSince = s.cycle) ∧
      (∀ q, q ≠ p → u.ring.link q = t.ring.link q) ∧ u.ring.heartbeat = t.ring.heartbeat ∧ RingOnly t u := by
  unfold heard
  by_cases hp : neighbour s p = s.cur.pos.toNat
  · rw [if_pos hp]
    exact ⟨fun _ => congrArg Link.silentSince (Ring.link_setLink ..), fun q hq => Ring.link_setLink_ne _ hq _,
      Ring.setLink_heartbeat .., (RingOnly.refl t).modLink _ _⟩
  · rw [if_neg hp]
    exact ⟨fun h => absurd h hp, fun _ _ => rfl, rfl, .refl t⟩

theorem heartbeat_heard {s : State} (p : Port) (hpos : s.cur.pos.toNat ≠ s.ringPos) (hp : neighbour s p = s.cur.pos.toNat) :
    ∃ t, exec .heartbeatSend s = .next t ∧ (t.ring.link p).silentSince = s.cycle ∧ t.ring.heartbeat = s.ring.heartbeat ∧
      RingOnly s t := by
  obtain ⟨hsilent, -, hbeat, honly⟩ := heard_spec s s .up
  obtain ⟨hsilent1, hrest1, hbeat1, honly1⟩ := heard_spec s (heard s s .up) .down
  rw [exec_heartbeatSend, execHeartbeatSend_elsewhere hpos]
  refine ⟨_, rfl, ?_, hbeat1.trans hbeat, honly.trans honly1⟩
  cases p with
  | up => rw [hrest1 .up nofun]; exact hsilent hp
  | down => exact hsilent1 hp

/-- A link is dead once it has been silent, or untrained, for 1 s. -/
theorem dead_iff (l : Link) (now : Nat) :
    l.dead now = true ↔ l.silentSince + 1100000000 ≤ now ∨ (l.trained = false ∧ l.untrainedSince + 1100000000 ≤ now) := by
  have hsecond : cyclesPerSecond = 1100000000 := rfl
  simp [Link.dead, hsecond]

theorem silent_declared {s : State} (hdead : (s.ring.link s.cur.port).dead s.cycle = true)
    (hneighbour : neighbour s s.cur.port ≠ s.ringPos) (hlatched : s.ring.latched = false) (hnone : s.ring.releasing = none) :
    ∃ t, exec .heartbeatTimeout s = .next t ∧ neighbour s s.cur.port ∈ t.ring.failed ∧ Raised 3 s t ∧
      (t.ring.link s.cur.port).silentSince = s.cycle ∧ RingOnly s t := by
  have hsilent : silentNeighbour s s.cur.port = true := by simp [silentNeighbour, hdead, hneighbour, hlatched, hnone]
  have hdeclared := declareFailed_declares s (neighbour s s.cur.port)
  rw [exec_heartbeatTimeout]
  unfold execHeartbeatTimeout
  simp only [hsilent, Bool.not_true, Bool.false_eq_true, if_false]
  refine ⟨_, rfl, ?_, hdeclared.raised, congrArg Link.silentSince (Ring.link_setLink ..),
    hdeclared.only.modLink _ _⟩
  rw [State.modLink_ring, Ring.setLink_failed]
  exact hdeclared.failed

theorem live_neighbour_stays {s : State} (hlive : (s.ring.link s.cur.port).dead s.cycle ≠ true) :
    exec .heartbeatTimeout s = .next s := by
  have hsilent : silentNeighbour s s.cur.port = false := by simp [silentNeighbour, hlive]
  rw [exec_heartbeatTimeout]
  unfold execHeartbeatTimeout
  simp [hsilent]

/-! ### Forwarding (18 R394, 22 R451) -/

theorem takeDelay_nil {s : State} (h : s.delays = []) : takeDelay s = (0, s) := by
  unfold takeDelay
  rw [h]

section Forwarding

variable {s : State} {x : RingSlot} {rest : List RingSlot} (hstore : s.ring.store = x :: rest) (hrun : ringStopped s = false)
  (htrained : s.ring.down.trained = true)

include hstore hrun htrained

theorem execRingSlotForward_runs :
    execRingSlotForward s =
      let r := takeDelay s
      let l := r.2.ring.down.sendOn (Nat.max r.2.ring.down.acked (slotFlits - r.1))
      .next (r.2.modRing (fun r =>
        if l.acked = slotFlits then
          { r with store := rest, sent := x.header, sentPlan := x.plan, down := { l with sent := 0, acked := 0 } }
        else { r with down := l })) := by
  unfold execRingSlotForward
  rw [hstore]
  simp [hrun, htrained]

/-- The oldest slot's last flit is acknowledged: it leaves the ring store. -/
theorem slot_forwarded (hdelays : s.delays = []) (hacked : s.ring.down.acked ≤ slotFlits) (hsent : s.ring.down.sent ≤ slotFlits) :
    ∃ t, exec .ringSlotForward s = .next t ∧ t.ring.store = rest ∧ t.ring.sent = x.header ∧ t.ring.sentPlan = x.plan ∧
      t.ring.down.nextSend = s.ring.down.nextSend + BitVec.ofNat 16 (slotFlits - s.ring.down.sent) ∧
      t.ring.down.sent = 0 ∧ t.ring.down.acked = 0 ∧ RingOnly s t := by
  have hgot : Nat.max s.ring.down.acked (slotFlits - 0) = slotFlits := Nat.max_eq_right hacked
  have hupTo : Nat.max s.ring.down.sent (Nat.min slotFlits (slotFlits + replayFlits)) = slotFlits := by
    rw [show Nat.min slotFlits (slotFlits + replayFlits) = slotFlits from Nat.min_eq_left (Nat.le_add_right ..)]
    exact Nat.max_eq_right hsent
  rw [exec_ringSlotForward, execRingSlotForward_runs hstore hrun htrained, takeDelay_nil hdelays]
  dsimp only
  rw [hgot]
  refine ⟨_, rfl, ?_⟩
  simp only [State.modRing_ring, Link.sendOn, if_true, hupTo]
  exact ⟨trivial, trivial, trivial, trivial, trivial, trivial, rfl⟩

/-- Short of it, the port sends on while at most 64 KiB are unacknowledged. -/
theorem slot_sent_on {n : Nat} {ds : List Nat}
    (hdelays : s.delays = n :: ds) (hn : 0 < n) (hacked : s.ring.down.acked ≤ slotFlits - n)
    (hsent : s.ring.down.sent ≤ s.ring.down.acked + 1024) :
    ∃ t, exec .ringSlotForward s = .next t ∧ t.ring.store = s.ring.store ∧ t.ring.down.acked = slotFlits - n ∧
      t.ring.down.sent ≤ t.ring.down.acked + 1024 ∧ t.slots = s.slots := by
  have hgot : Nat.max s.ring.down.acked (slotFlits - n) = slotFlits - n := Nat.max_eq_right hacked
  have hshort : slotFlits - n ≠ slotFlits := by unfold slotFlits; omega
  rw [exec_ringSlotForward, execRingSlotForward_runs hstore hrun htrained, takeDelay_cons hdelays]
  dsimp only
  rw [hgot]
  refine ⟨_, rfl, ?_⟩
  simp only [State.modRing_ring, Link.sendOn, hshort, if_false]
  refine ⟨trivial, trivial, ?_, rfl⟩
  exact Nat.max_le.2 ⟨by omega, Nat.min_le_right ..⟩

end Forwarding

/-! ### Slots replaced: refills (22 R455, 23 R463) and swaps (22 R457) -/

theorem slotsKept_of_slots {s t : State} (h : t.slots = s.slots) (p : Nat → Prop) : SlotsKept p s t := by
  intro j _
  unfold State.slot
  rw [h]

theorem rewriteSlot_eq (s : State) (x : RingSlot) (h : BitVec 512) (payload : Mem) :
    rewriteSlot s x h payload =
      (ringPut s x.place h payload).modRing (fun r => { r with store := replaced r.store x h payload }) := rfl

/-- A slot is replaced after the writes of it, which may have woken monitors. -/
theorem replaced_after_writes {s u : State} (h : WriteKept s u) (f : List RingSlot → List RingSlot) :
    (u.modRing (fun r => { r with store := f r.store })).ring.store = f s.ring.store ∧
      (u.modRing (fun r => { r with store := f r.store })).swap = s.swap ∧
      (monitorCount s = 0 → (u.modRing (fun r => { r with store := f r.store })).slots = s.slots) := by
  obtain ⟨⟨hring, hswap⟩, hslots, -⟩ := h
  refine ⟨?_, hswap, fun hs => hslots ((monitorCount_eq_zero_iff s).1 hs)⟩
  rw [State.modRing_ring, hring]

/-- A slot is replaced in place; the writes that this takes wake no one where no monitor waits. -/
theorem rewriteSlot_spec (s : State) (x : RingSlot) (h : BitVec 512) (payload : Mem) :
    (rewriteSlot s x h payload).ring.store = replaced s.ring.store x h payload ∧ (rewriteSlot s x h payload).swap = s.swap ∧
      (monitorCount s = 0 → (rewriteSlot s x h payload).slots = s.slots) := by
  rw [rewriteSlot_eq]
  exact replaced_after_writes (writeKept_ringPut s x.place h payload) (fun l => replaced l x h payload)

section Refills

variable {s : State} {lost : BitVec 512} {rest : List (BitVec 512)} (hrefills : s.ring.refills = lost :: rest)

/-- The slot of the image in host memory that a refill under way reads. -/
def refillImage (s : State) (lost : BitVec 512) : BitVec 512 × Mem := imageSlot s (s.domWord (hDomain lost) 8) (hSegidx lost)

include hrefills

theorem refill_lands (hok : imageOk (refillImage s lost).1 lost (hGen lost) = true) :
    ∃ t, exec .refillComplete s = .next t ∧ t.ring.refills = rest ∧ refillImage s lost ∈ t.ring.refilled ∧
      (lostSlots s (refillImage s lost).1 = [] → t.ring.store = s.ring.store ∧ RingOnly s t) ∧
      (∀ x, lostSlots s (refillImage s lost).1 = [x] →
        t.ring.store = replaced s.ring.store x (refillImage s lost).1 (refillImage s lost).2) := by
  unfold refillImage at hok ⊢
  rw [exec_refillComplete]
  unfold execRefillComplete
  rw [hrefills]
  dsimp only
  rw [if_pos hok]
  generalize imageSlot s (s.domWord (hDomain lost) 8) (hSegidx lost) = img
  have hnone : lostSlots s img.1 = [] → (lostSlots s img.1).foldl (fun acc x => rewriteSlot acc x img.1 img.2) s = s := by
    intro h
    rw [h, List.foldl_nil]
  have hone : ∀ x, lostSlots s img.1 = [x] →
      ((lostSlots s img.1).foldl (fun acc x => rewriteSlot acc x img.1 img.2) s).ring.store =
        replaced s.ring.store x img.1 img.2 := by
    intro x h
    rw [h, List.foldl_cons, List.foldl_nil]
    exact (rewriteSlot_spec s x _ _).1
  generalize (lostSlots s img.1).foldl (fun acc x => rewriteSlot acc x img.1 img.2) s = u at hnone hone
  refine ⟨_, rfl, rfl, List.mem_append_right _ (List.mem_singleton_self _), fun h => ?_, hone⟩
  rw [hnone h]
  exact ⟨rfl, rfl⟩

theorem refill_fails (hbad : imageOk (refillImage s lost).1 lost (hGen lost) = false) :
    ∃ t, exec .refillComplete s = .next t ∧ t.ring.refills = rest ∧ t.ring.store = s.ring.store ∧ Raised 1 s t ∧
      RingOnly s t := by
  unfold refillImage at hbad
  rw [exec_refillComplete]
  unfold execRefillComplete
  rw [hrefills]
  dsimp only
  rw [hbad, if_neg Bool.false_ne_true]
  exact ⟨_, rfl, rfl, rfl, raised_raiseEvent rfl 1, ((RingOnly.refl s).modRing _).raiseEvent 1⟩

end Refills

/-! ### What SWAP shows -/

theorem ringOnly_showSwap {s t : State} (h : RingOnly s t) : RingOnly s (showSwap t) := RingOnly.setMreg h _ _

theorem mreg_showSwap_ne (s : State) {o : Nat} (h : o ≠ 0xC0) : (showSwap s).mreg o = s.mreg o := s.mreg_setMreg_ne h _

/-- The low bits of SWAP are RESUME, PAUSED, and PEND with GO. -/
theorem showSwap_bit (s : State) {i : Nat} (hi : i < 8) :
    ((showSwap s).mreg 0xC0).getLsbD i =
      ((if s.swap.resume then 8 else 0) + (if s.swap.paused then 4 else 0) + (if s.swap.pend then 3 else 0)).testBit i := by
  have hlow : ∀ d n : Nat, n < 2 ^ 8 → (BitVec.ofNat 64 (d * 256 + n)).getLsbD i = n.testBit i := by
    intro d n hn
    rw [BitVec.getLsbD_ofNat, decide_eq_true (by omega), Bool.true_and, Nat.mul_comm, show 256 = 2 ^ 8 from rfl,
      Nat.testBit_two_pow_mul_add _ hn, if_pos hi]
  unfold showSwap
  rw [State.mreg_setMreg_self, Nat.add_assoc, Nat.add_assoc, hlow, Nat.add_assoc]
  split_ifs <;> decide

theorem showSwap_go (s : State) :
    ((showSwap s).mreg 0xC0).getLsbD 0 = s.swap.pend ∧ ((showSwap s).mreg 0xC0).getLsbD 1 = s.swap.pend ∧
      ((showSwap s).mreg 0xC0).getLsbD 2 = s.swap.paused ∧ ((showSwap s).mreg 0xC0).getLsbD 3 = s.swap.resume := by
  simp only [showSwap_bit s (show (0 : Nat) < 8 by decide), showSwap_bit s (show (1 : Nat) < 8 by decide),
    showSwap_bit s (show (2 : Nat) < 8 by decide), showSwap_bit s (show (3 : Nat) < 8 by decide)]
  cases s.swap.pend <;> cases s.swap.paused <;> cases s.swap.resume <;> decide

/-! ### A swap begins, pauses, replaces and resumes (22 R457) -/

theorem swap_begins {s : State} (hpend : s.swap.pend = false) :
    ∃ t, exec .swapGo s = .next t ∧ t.swap.pend = true ∧ t.swap.source = s.domWord s.swap.dom 9 ∧ t.swap.dom = s.swap.dom ∧
      (t.mreg 0xC0).getLsbD 0 = true ∧ (t.mreg 0xC0).getLsbD 1 = true ∧ (t.mreg 0xC0).getLsbD 3 = false ∧ t.ring = s.ring ∧
      RingOnly s t := by
  rw [exec_swapGo]
  unfold execSwapGo
  rw [hpend, if_neg Bool.false_ne_true]
  obtain ⟨hgo, hpending, -, hresume⟩ := showSwap_go { s with swap :=
    { s.swap with pend := true, source := gensrc s s.swap.dom, since := s.ring.frameNo, resume := false } }
  exact ⟨_, rfl, rfl, rfl, rfl, hgo, hpending, hresume, rfl, ringOnly_showSwap rfl⟩

theorem resume_shown {s : State} (hpend : s.swap.pend = false) :
    ∃ t, exec .swapResume s = .next t ∧ t.swap = { s.swap with resume := true } ∧ (t.mreg 0xC0).getLsbD 3 = true ∧
      t.ring = s.ring ∧ RingOnly s t := by
  rw [exec_swapResume]
  unfold execSwapResume
  rw [hpend, Bool.not_false, if_pos rfl]
  obtain ⟨-, -, -, hresume⟩ := showSwap_go { s with swap := { s.swap with resume := true } }
  exact ⟨_, rfl, rfl, hresume, rfl, ringOnly_showSwap rfl⟩

theorem swap_ends {s : State} (hpend : s.swap.pend = true) :
    ∃ t, exec .swapResume s = .next t ∧ t.swap.pend = false ∧ t.swap.paused = false ∧
      t.mreg (0x840 + 128 * s.swap.dom) = BitVec.ofNat 64 (field (s.domWord s.swap.dom 9) 0 48) ∧
      (t.mreg 0xC0).getLsbD 0 = false ∧ (t.mreg 0xC0).getLsbD 1 = false ∧ (t.mreg 0xC0).getLsbD 3 = true ∧ RingOnly s t := by
  rw [exec_swapResume]
  unfold execSwapResume
  rw [hpend, Bool.not_true, if_neg Bool.false_ne_true]
  dsimp only
  refine ⟨_, rfl, rfl, rfl, ?_, ?_⟩
  · rw [mreg_showSwap_ne _ (by omega)]
    exact State.mreg_setMreg_self ..
  · obtain ⟨hgo, hpending, -, hresume⟩ := showSwap_go
      { s.setMreg (0x840 + 128 * s.swap.dom) (BitVec.ofNat 64 (bitsOf (gensrc s s.swap.dom) 0 48)) with
        swap := { s.swap with pend := false, paused := false, resume := true } }
    exact ⟨hgo, hpending, hresume, ringOnly_showSwap (ringOnly_iff.2 ⟨_, _, _, rfl⟩)⟩

/-- The ring paused for the swap, before any slot is replaced. -/
def swapPaused (s : State) : State := (showSwap { s with swap := { s.swap with paused := true } }).raiseEvent 2

theorem swapPaused_spec {s : State} (hpend : s.swap.pend = true) :
    (swapPaused s).swap.paused = true ∧ (swapPaused s).swap.pend = true ∧ ((swapPaused s).mreg 0xC0).getLsbD 2 = true ∧
      ringStopped (swapPaused s) = true ∧ Raised 2 s (swapPaused s) ∧ RingOnly s (swapPaused s) := by
  obtain ⟨-, -, hpaused, -⟩ := showSwap_go { s with swap := { s.swap with paused := true } }
  refine ⟨rfl, hpend, ?_, ?_, raised_raiseEvent (mreg_showSwap_ne _ (by decide)) 2,
    RingOnly.raiseEvent (ringOnly_showSwap (ringOnly_iff.2 ⟨_, _, _, rfl⟩)) 2⟩
  · unfold swapPaused
    rw [State.mreg_raiseEvent_ne _ _ (by decide), hpaused]
  · simp [ringStopped, show (swapPaused s).swap.paused = true from rfl]

section Pauses

variable {s : State} (hpend : s.swap.pend = true) (hrun : s.swap.paused = false)
  (hseen : s.ringPos = 0 → s.swap.since + planLen s ≤ s.ring.frameNo)

include hpend hrun hseen

theorem execSwapPause_due : execSwapPause s = .next (swapSlots (swapPaused s)) := by
  unfold execSwapPause
  dsimp only
  rw [if_neg]
  · rfl
  · simpa [hpend, hrun] using hseen

theorem swap_pauses (hstore : s.ring.store = []) :
    ∃ t, exec .swapPause s = .next t ∧ t.swap.paused = true ∧ t.swap.pend = true ∧ (t.mreg 0xC0).getLsbD 2 = true ∧
      ringStopped t = true ∧ Raised 2 s t ∧ RingOnly s t := by
  have hnone : swapSlots (swapPaused s) = swapPaused s := by
    unfold swapSlots
    rw [show (swapPaused s).ring.store = [] from hstore]
    rfl
  rw [exec_swapPause, execSwapPause_due hpend hrun hseen, hnone]
  exact ⟨_, rfl, swapPaused_spec hpend⟩

/-- The image of a slot that the new generation brings. -/
def swapImage (s : State) (x : RingSlot) : BitVec 512 × Mem :=
  imageSlot s (BitVec.ofNat 64 (field s.swap.source 0 48)) (hSegidx x.header)

theorem swap_replaces {x : RingSlot} (hstore : s.ring.store = [x]) (hkind : hKind x.header = 0)
    (hdom : hDomain x.header = s.swap.dom) (hvalid : headerValid x.header = true)
    (hok : imageOk (swapImage s x).1 x.header (field s.swap.source 48 16) = true) :
    ∃ t, exec .swapPause s = .next t ∧ t.swap.paused = true ∧
      t.ring.store = replaced s.ring.store x (swapImage s x).1 (swapImage s x).2 ∧
      (monitorCount s = 0 → SlotsKept (fun _ => False) s t) := by
  have hslot : swapSlots (swapPaused s) = rewriteSlot (swapPaused s) x (swapImage s x).1 (swapImage s x).2 := by
    unfold swapSlots
    rw [show (swapPaused s).ring.store = [x] from hstore, List.foldl_cons, List.foldl_nil]
    have hmatch : (hKind x.header = 0 && hDomain x.header = (swapPaused s).swap.dom && headerValid x.header) = true := by
      have hdom' : hDomain x.header = (swapPaused s).swap.dom := hdom
      simp [hkind, ← hdom', hvalid]
    rw [if_pos hmatch]
    exact if_pos hok
  obtain ⟨hreplaced, hswap, hslots⟩ := rewriteSlot_spec (swapPaused s) x (swapImage s x).1 (swapImage s x).2
  rw [exec_swapPause, execSwapPause_due hpend hrun hseen, hslot]
  exact ⟨_, rfl, congrArg Swap.paused hswap, hreplaced, fun hmon => slotsKept_of_slots (hslots hmon) _⟩

end Pauses

/-! ### The obligation -/

/-- Settles O58: its clauses are the lemmas above, an event each. -/
theorem ringSteps : Obligations.RingSteps := by
  unfold Obligations.RingSteps
  intro s
  refine ⟨?_, stopped_ring_stands, link_lost s, ?_, fun hnone hpos => pause_elsewhere_ends hnone hpos, ?_, ?_,
    failure_declared s, fun hpos hboot hlatched hring hmode hnone =>
      release_begins_here hpos hboot hlatched hring hmode hnone,
    fun hpos hfailed hnone => release_begins_elsewhere hpos hfailed hnone, fun p c0 hsome hlate =>
      release_times_out hsome hlate, fun hpos hdue => heartbeat_sent hpos hdue, heartbeat_heard, ?_, ?_, ?_,
    swap_begins, resume_shown, ?_⟩
  · intro seq flit hrun htrained
    refine ⟨?_, ?_, ?_, fun hfirst => flit_discarded hrun htrained hfirst seq flit⟩
    · rintro k hport rfl hflits hplace hq _ hlogged
      exact flit_taken_up hrun htrained hport hflits hplace hq hlogged flit
    · rintro hport rfl
      exact flit_taken_down hrun htrained hport flit
    · rintro hport rfl _ hplace
      exact flit_without_place hrun htrained hport hplace flit
  · intro hnone hpos
    exact ⟨up_trained hnone hpos, down_trained hnone hpos, fun n rest hport hover hdelays hsound =>
      down_trained_over hnone hpos hport hover hdelays hsound⟩
  · intro c0 hsome hpos hover
    exact ⟨release_ends_here hsome hpos hover, release_goes_on_here hsome hpos hover⟩
  · intro k c0 hsome hk hpos
    exact ⟨release_ends_elsewhere hsome hk hpos, release_goes_on_elsewhere hsome hk hpos⟩
  · exact ⟨fun hdead => silent_declared ((dead_iff ..).2 hdead), fun hlive =>
      live_neighbour_stays (mt (dead_iff ..).1 hlive)⟩
  · intro x rest hstore hrun htrained
    exact ⟨slot_forwarded hstore hrun htrained, fun n ds hdelays hn hacked hsent =>
      slot_sent_on hstore hrun htrained hdelays hn hacked hsent⟩
  · intro lost rest hrefills
    exact ⟨refill_lands hrefills, refill_fails hrefills⟩
  · intro hpend
    refine ⟨fun hrun hseen => ⟨swap_pauses hpend hrun hseen, fun x hstore hkind hdom hvalid => ?_⟩, swap_ends hpend⟩
    exact swap_replaces hpend hrun hseen hstore hkind hdom hvalid

end Sys2Proof.Machine
end

section
/-! PROOFS. The machine after reset (02 R40), and the step of a context that fetches its instruction (02 R20, R28, 03 R63). -/

namespace Sys2Proof.Machine

open Sys2Proof.Said

/-! ### After reset (02 R40) -/

theorem slot_reset_zero : State.reset.slot 0 = bootSlot := rfl

theorem slot_reset_of_ne {k : Nat} (h : k ≠ 0) : State.reset.slot k = {} :=
  if_neg h

theorem core_reset (c : Nat) : State.reset.core c = {} := rfl

/-- A role with no register stored, no flag set and no write under way reads zero throughout. -/
theorem reads_zero {c : RoleCtx} (hregs : c.regs = []) (hflags : c.flags = 0) (hpend : c.pend = []) (n at' : Nat) :
    c.reg n at' = 0 ∧ c.flag n at' = false := by
  constructor
  · simp [RoleCtx.reg, latest, hregs, hpend]
  · simp [RoleCtx.flag, latest, hflags, hpend]

/-- Settles O49: slot 0 is the boot slot, every other slot and every core has its empty form. -/
theorem resetState : Obligations.ResetState := by
  refine ⟨fun k hk => ?_, by rw [slot_reset_zero]; nofun, rfl, rfl, by decide, by decide, rfl, rfl, fun k r n at' => ?_,
    fun k q => ?_, fun c b => ?_, canonical_reset⟩
  · rw [slot_reset_of_ne hk]
  · by_cases hk : k = 0
    · subst hk
      cases r <;> exact reads_zero rfl rfl rfl n at'
    · rw [State.role, slot_reset_of_ne hk]
      cases r <;> exact reads_zero rfl rfl rfl n at'
  · unfold State.queue
    by_cases hk : k = 0
    · subst hk
      exact ⟨rfl, rfl, rfl, rfl⟩
    · rw [slot_reset_of_ne hk]
      exact ⟨rfl, rfl, rfl, rfl⟩
  · rw [core_reset]
    exact ⟨rfl, rfl, rfl, rfl⟩

/-! ### A context that fetches (02 R28, 03 R63) -/

/-- A line without an error is used as it stands. -/
theorem codeCheck_sound {s : State} {slot line : Nat} {sup : Bool}
    (h : ∀ l, codeEntry s (coreOf slot) (s.slot slot).domain line sup = some l → l.err = []) :
    codeCheck s slot line sup = s := by
  unfold codeCheck
  dsimp only
  split
  · rfl
  · next l hl => rw [h l hl]; rfl

theorem fetchInstr_of_fetches {s : State} {i : Instr} (h : Fetches s i) :
    fetchInstr s = (s.modMe (fun c => { c with link := linkWord s }), some i) := by
  obtain ⟨hfree, hline, herr, d, hcached, hrole, hlong, hdecode⟩ := h
  have hpair : (isLongMajor (lineWord d (wordOf s.myRole.pc)) && decide (15 ≤ wordOf s.myRole.pc)) = false := by
    rw [Bool.and_eq_false_imp]
    intro hl
    simpa using hlong hl
  have hlink : linkWord s = lineWord d 0 := by rw [linkWord, hcached]
  unfold fetchInstr
  rw [hfree]
  simp only [if_neg hline, hcached, codeCheck_sound herr]
  unfold decodeAt
  simp only [hrole, ne_eq, not_true_eq_false, if_false, hpair, Bool.false_eq_true, hdecode, hlink]

/-- A context that fetches `i` runs it. -/
theorem runContext_of_fetches {s : State} {c : Context} {i : Instr} (h : Fetches { s with cur := c, issued := false } i) :
    runContext c s = exec i (State.modMe { s with cur := c, issued := false }
      (fun x => { x with link := linkWord { s with cur := c, issued := false } })) := by
  unfold runContext
  rw [fetchInstr_of_fetches h]

/-! ### The positions of a core (02 R20, 13 R269) -/

/-- The tries of a slot that took the opportunity, where one context alone took one. -/
theorem filter_taken {l : List Try} {x : Try} (h : l.filter (·.took) = [x]) (k : Nat) :
    l.filter (fun t => t.took && t.slot = k) = if x.slot = k then [x] else [] := by
  rw [← List.filter_filter, List.filter_comm, h]
  by_cases hk : x.slot = k <;> simp [hk]

/-- A slot that no chosen context stands in performs its accesses and issues nothing. -/
theorem runSlot_other {core pos j k : Nat} {l : List Try} (h : l.filter (·.took) = [⟨pos, 4 * core + j, true⟩]) (hk : k ≠ j)
    (o : Result) : runSlot core l o k = runAccesses o (4 * core + k) := by
  unfold runSlot
  rw [filter_taken h, if_neg (by dsimp only; omega)]
  rfl

theorem foldl_runSlot_others {core pos j : Nat} {l : List Try} (h : l.filter (·.took) = [⟨pos, 4 * core + j, true⟩])
    (ks : List Nat) (hk : j ∉ ks) (o : Result) : ks.foldl (runSlot core l) o = performed core ks o := by
  induction ks generalizing o with
  | nil => rfl
  | cons k ks ih =>
    rw [List.mem_cons, not_or] at hk
    rw [List.foldl_cons, runSlot_other h (Ne.symm hk.1), ih hk.2]
    rfl

/-- The slots of a core, split at one of them. -/
theorem range_four_split {j : Nat} (h : j < 4) : List.range 4 = List.range j ++ j :: (List.range 4).drop (j + 1) := by
  interval_cases j <;> rfl

theorem range_four_unsplit {j : Nat} (h : j < 4) : j ∉ (List.range 4).drop (j + 1) := by
  interval_cases j <;> decide

/-- The chosen context issues behind the accesses of its slot and those below, before those above. -/
theorem foldl_runSlot {core pos j : Nat} {l : List Try} {q s0 t : State} (hj : j < 4)
    (h0 : performed core (List.range (j + 1)) (.next q) = .next s0)
    (hl : l.filter (·.took) = [⟨pos, 4 * core + j, true⟩])
    (hrun : runContext (contextOf (4 * core + j) (positionRole pos)) s0 = .next t) (hissued : t.issued = true) :
    (List.range 4).foldl (runSlot core l) (.next q) =
      performed core ((List.range 4).drop (j + 1)) (.next (servedBy t core pos (4 * core + j))) := by
  rw [List.range_succ] at h0
  unfold performed at h0
  rw [List.foldl_append] at h0
  have hslot : runSlot core l (performed core (List.range j) (.next q)) j = .next (servedBy t core pos (4 * core + j)) := by
    unfold runSlot
    rw [filter_taken hl, if_pos rfl, List.foldl_cons, List.foldl_nil, performed]
    rw [List.foldl_cons, List.foldl_nil] at h0
    rw [h0]
    simp only [runTaken, hrun, hissued, if_true]
  calc (List.range 4).foldl (runSlot core l) (.next q)
      = (List.range j ++ j :: (List.range 4).drop (j + 1)).foldl (runSlot core l) (.next q) := by rw [← range_four_split hj]
    _ = _ := by
      rw [List.foldl_append, foldl_runSlot_others hl (List.range j) (by simp), List.foldl_cons, hslot,
        foldl_runSlot_others hl _ (range_four_unsplit hj)]

/-! ### One act (02 R20) -/

/-- A step of a powered machine runs the first act of its agenda. -/
theorem step_runAct {s : State} {a : Act} {rest : List Act} (hpower : s.powered = true) (hagenda : s.agenda = a :: rest)
    (ha : a ≠ .lookAhead) : step s = runAct a { s with agenda := rest } := by
  unfold step
  rw [hpower, hagenda]
  cases a with
  | lookAhead => exact absurd rfl ha
  | _ => rfl

/-- Settles O50: `runContext_of_fetches`, and for a core's positions `foldl_runSlot`. -/
theorem stepRunsDecoded : Obligations.StepRunsDecoded := by
  intro s rest hpower q
  refine ⟨?_, ?_, ?_⟩
  · intro slot r i hagenda s0 hf
    exact (step_runAct hpower hagenda (by simp)).trans (runContext_of_fetches (s := q) hf)
  · intro core pos j i sA s0 t hagenda hj hA h0 hl s1 hf hexec hissued
    have hstate : Result.state ((List.range 4).foldl (fun o j => runAccesses o (4 * core + j)) (.next q)) q = sA :=
      congrArg (Result.state · q) hA
    refine (step_runAct hpower hagenda (by simp)).trans ?_
    change runCore core q = _
    unfold runCore
    rw [hstate]
    dsimp only
    rw [foldl_runSlot hj h0 hl ((runContext_of_fetches hf).trans hexec) hissued]
  · intro c i hagenda
    exact step_runAct hpower hagenda (by simp)

end Sys2Proof.Machine
end

section
/-! SUPPORT. What a result of variable latency does, and what retiring does where a body has left more than an issue changes: the
laws that the statements on SYSR and SYSW rest on (04 R95, R96). -/

namespace Sys2Proof.Machine

open Sys2Proof.Said

/-! ### A result of variable latency (02 R32) -/

/-- The due time of a variable-latency result is a timed strand's own; choosing it touches the timing choices alone. -/
theorem dueIn_spec (s : State) (lat : Nat) :
    ∃ delays, (dueIn s lat).2 = { s with delays := delays } ∧ (isTimed s → (dueIn s lat).1 = s.now + lat) := by
  unfold dueIn
  split
  · exact ⟨s.delays, rfl, fun _ => rfl⟩
  · next h =>
    refine ⟨(takeDelay s).2.delays, ?_, fun ht => absurd ht h⟩
    dsimp only
    unfold takeDelay
    split <;> rfl

/-- What `writeInterlocked` does to the state found: the value is on its way to its register or queue, and the rest stays. -/
theorem writeInterlocked_spec (s : State) (d : BitVec 5) (lat : Nat) (v : Word) :
    let t := writeInterlocked s.found d lat v
    Touched s t ∧ t.myRole.nul = s.myRole.nul ∧ (∀ n at', t.myRole.reg n at' = s.found.myRole.reg n at') ∧ FlagsKept s t ∧
      ∃ due, (isTimed s → due = s.now + lat) ∧
        if pushesQueue s.cur.role d = none then
          t.myRole.vpend = s.found.myRole.vpend ++ [⟨.sreg d.toNat, { val := v, due := due }⟩] ∧
            ∀ q, t.queue s.me q = s.found.queue s.me q
        else t.myRole.vpend = s.found.myRole.vpend ∧
          ∀ q, t.queue s.me q = s.found.queue s.me q ++
            (if pushesQueue s.cur.role d = some q then [{ val := v, due := due }] else []) := by
  obtain ⟨delays, hdelays, hdue⟩ := dueIn_spec s.found lat
  have htimed : isTimed s → (dueIn s.found lat).1 = s.now + lat := fun h =>
    (hdue ((congrArg (· = true) (found_timed s s.me)).mpr h)).trans (congrArg (· + lat) (found_now s))
  have htouched : Touched s { s.found with delays := delays } := (touched_found s).delays delays
  unfold writeInterlocked writeLate
  simp only [hdelays, found_cur]
  cases hp : pushesQueue s.cur.role d with
  | none =>
    refine ⟨htouched.modMe _ rfl rfl, ?_, fun n at' => ?_, fun f at' => ?_, _, htimed, ?_⟩
    · rw [State.myRole_modMe]
      exact found_nul s
    · rw [State.myRole_modMe]
      rfl
    · rw [State.myRole_modMe]
      rfl
    · rw [if_pos rfl]
      refine ⟨by rw [State.myRole_modMe]; rfl, fun q => ?_⟩
      change (State.modMe { s.found with delays := delays } _).queue (State.me { s.found with delays := delays }) q = _
      unfold State.queue State.modMe State.modRole
      rw [State.slot_modSlot_self, Slot.modRole_queues]
      rfl
  | some q =>
    have hrole := myRole_setQueue { s.found with delays := delays } q
      (s.found.queue s.me q ++ [{ val := v, due := (dueIn s.found lat).1 }])
    refine ⟨htouched.setQueue q _, ?_, fun n at' => ?_, fun f at' => ?_, _, htimed, ?_⟩
    · exact (congrArg RoleCtx.nul hrole).trans (found_nul s)
    · exact congrArg (RoleCtx.reg · n at') hrole
    · exact congrArg (RoleCtx.flag · f at') hrole
    · rw [if_neg (by simp)]
      refine ⟨congrArg RoleCtx.vpend hrole, fun j => ?_⟩
      refine (queue_setQueue { s.found with delays := delays } s.me q j _).trans ?_
      by_cases hj : j = q
      · subst hj
        rw [if_pos rfl, if_pos rfl]
        rfl
      · rw [if_neg hj, if_neg (by simpa using Ne.symm hj), List.append_nil]
        rfl

/-- An instruction without a source whose body writes one result of variable latency gives it. -/
theorem lateWritten_close (i : Instr) (d : BitVec 5) (lat : Nat) (v : Word) (s : State) (hn : s.myRole.nul = 0) :
    let t := ((Did.done (writeInterlocked s.found d lat v)).popped { dst := some d }).close i
    Issued i (linkOf s.myRole i) 0 s t ∧ LateWritten { dst := some d } d lat v s t ∧ RegsKept none s t ∧ FlagsKept s t ∧
      RestKept s t ∧ BytesKept s t := by
  obtain ⟨htouched, hnul, hregs, hflags, due, hdue, hlate⟩ := writeInterlocked_spec s d lat v
  have hclose : ((Did.done (writeInterlocked s.found d lat v)).popped { dst := some d }).close i =
      retireTo i (linkOf s.myRole i) 0 (writeInterlocked s.found d lat v) := by
    simp only [Did.popped, Did.close, retire, popAll, popList, List.filterMap_nil, List.foldl_nil]
    rw [htouched.linkOf i, hnul, hn]
  rw [hclose]
  generalize writeInterlocked s.found d lat v = t at htouched hregs hflags hlate
  obtain ⟨hissued, hrest, hbytes⟩ := htouched.issued i (linkOf s.myRole i) 0
  obtain ⟨_, _, hrole, _, hqueue, _, _⟩ := retireTo_spec i (linkOf s.myRole i) 0 t
  rw [htouched.me] at hqueue
  refine ⟨hissued, ⟨due, hdue, ?_⟩, fun n at' _ => ?_, fun f at' => ?_, hrest, hbytes⟩
  · unfold QueuesMoved
    simp only [hqueue, hrole, Option.bind_some]
    by_cases hp : pushesQueue s.cur.role d = none
    · rw [if_pos hp] at hlate ⊢
      exact ⟨hlate.1, fun q => by simpa [popList] using hlate.2 q⟩
    · rw [if_neg hp] at hlate ⊢
      exact ⟨hlate.1, fun q => by simpa [popList] using hlate.2 q⟩
  · rw [hrole]
    exact hregs n at'
  · rw [hrole]
    exact hflags f at'

end Sys2Proof.Machine
end

section
/-! PROOFS. SYSR and SYSW of the system registers (02 R37 to R45, 04 R95, R96, 07 R133, R134, 20 R405, R406, R428, R429). -/

namespace Sys2Proof.Machine

open Sys2Proof.Said

/-! ### SYSR (04 R95) -/

theorem exec_sysr (st : BitVec 3) (d : BitVec 5) (n : BitVec 17) (s : State) :
    exec (.sysr st d n) s = .next (sysRead (.sysr st d n) n.toNat d s) := rfl

theorem exec_diagdRead (st : BitVec 3) (d : BitVec 5) (s : State) :
    exec (.diagdRead st d) s = .next (sysRead (.diagdRead st d) 0xC d s) := rfl

section Reads

variable {s : State} (i : Instr) {n : Nat} {d : BitVec 5} (hf : Free s) (hd : dstOk d s.cur.role = true)
  (hs : Supplied { dst := some d } s) (hn : sysAssigned n = true) (hp : sysPrivileged n = true → s.myRole.sup = true)

include hf hd hs hn hp

/-- A register that is no engine state comes with latency 1. -/
theorem sysRead_computes (he : sysEngine n = false) :
    Computes i { dst := some d } d 1 (sysValue s.found n) s (sysRead i n d s) := by
  have hnC : n ≠ 0xC := by rintro rfl; cases he
  unfold sysRead
  rw [gate_runs i _ (dstOk d) _ id _ s hf hn hd hp, operands_runs _ _ s hs]
  simp only [if_neg hnC, he, Bool.false_eq_true, if_false]
  exact computes_close i _ d 1 _ s rfl hf.2

/-- Engine state comes with its own latency. -/
theorem sysRead_engine (hnC : n ≠ 0xC) (he : sysEngine n = true) :
    sysRead i n d s = ((Did.done (writeInterlocked s.found d 8 (sysValue s.found n))).popped { dst := some d }).close i := by
  unfold sysRead
  rw [gate_runs i _ (dstOk d) _ id _ s hf hn hd hp, operands_runs _ _ s hs]
  simp only [if_neg hnC, he, if_true]

/-- So does a word of an array that sys.diaga may name. -/
theorem sysRead_diagd (hnC : n = 0xC) (ha : diagOk s.found false = true) :
    sysRead i n d s = ((Did.done (writeInterlocked s.found d 8 (diagRead s.found))).popped { dst := some d }).close i := by
  unfold sysRead
  rw [gate_runs i _ (dstOk d) _ id _ s hf hn hd hp, operands_runs _ _ s hs]
  simp only [if_pos hnC, ha, if_true]

end Reads

/-- The registers that a user role may read are those that are not privileged (02 R37). -/
theorem userReads_eq (n : BitVec 17) : userReads n = !sysPrivileged n.toNat := by
  simp only [userReads, sysPrivileged, sysReadOnly, ← BitVec.toNat_inj, Bool.not_not]
  grind

/-- A row of the table holds the number of a register of latency 1, and the value that the model reads there. -/
theorem systemRegister_model {s : State} {row : BitVec 17 × Word} (h : row ∈ systemRegister s) :
    sysAssigned row.1.toNat = true ∧ sysEngine row.1.toNat = false ∧ sysValue s.found row.1.toNat = row.2 := by
  have hstatus : statusOf s.cur.role s.found.myRole.sup s.found.myRole.psup = BitVec.ofNat 64 (4 * roleNum s.cur.role +
      (if s.found.myRole.psup then 2 else 0) + (if s.found.myRole.sup then 1 else 0)) := by rw [statusOf, Nat.mul_comm]
  simp only [systemRegister, List.mem_cons, List.not_mem_nil, or_false] at h
  rcases h with rfl | rfl | rfl | rfl | rfl | rfl | rfl | rfl | rfl | rfl | rfl | rfl | rfl | rfl
  case inr.inr.inl => exact ⟨rfl, rfl, hstatus⟩
  all_goals exact ⟨rfl, rfl, rfl⟩

theorem engineRegister_model {s : State} {row : BitVec 17 × Word} (h : row ∈ engineRegister s) :
    sysAssigned row.1.toNat = true ∧ row.1.toNat ≠ 0xC ∧ sysEngine row.1.toNat = true ∧
      sysValue s.found row.1.toNat = row.2 := by
  simp only [engineRegister, List.mem_cons, List.not_mem_nil, or_false] at h
  rcases h with rfl | rfl <;> exact ⟨rfl, nofun, rfl, rfl⟩

/-- Settles O23: `sysRead_computes` for the registers of latency 1, `lateWritten_close` for engine state. -/
theorem systemReads : Obligations.SystemReads := by
  intro st d s hf hd hs
  refine ⟨fun row hrow hp => ?_, fun row hrow hp => ?_, fun ha hp => ?_⟩
  · obtain ⟨hn, he, hval⟩ := systemRegister_model hrow
    have hpriv : sysPrivileged row.1.toNat = true → s.myRole.sup = true := fun h => hp (by rw [userReads_eq, h]; rfl)
    exact ⟨_, exec_sysr st d row.1 s, hval ▸ sysRead_computes (.sysr st d row.1) hf hd hs hn hpriv he⟩
  · obtain ⟨hn, hnC, he, hval⟩ := engineRegister_model hrow
    refine ⟨_, exec_sysr st d row.1 s, ?_⟩
    rw [sysRead_engine (.sysr st d row.1) hf hd hs hn (fun _ => hp) hnC he, hval]
    exact lateWritten_close _ d 8 row.2 s hf.2
  · refine ⟨_, exec_diagdRead st d s, ?_⟩
    rw [sysRead_diagd (.diagdRead st d) hf hd hs rfl (fun _ => hp) rfl ha]
    exact lateWritten_close _ d 8 _ s hf.2

end Sys2Proof.Machine
end

section
/-! PROOFS. SYSW of the system registers (02 R37 to R45, 04 R96, 07 R133, R134, 20 R405, R406, R428, R429). -/

namespace Sys2Proof.Machine

open Sys2Proof.Said

/-! ### What retiring reads of a state, and what SYSW leaves -/

/-- The clock, the issuing role's place in its chain and the slot's block are as found. -/
structure Issuable (s t : State) : Prop where
  cur : t.cur = s.cur
  vcc : t.vcc = s.vcc
  time : t.now = s.now
  pc : t.myRole.pc = s.myRole.pc
  link : t.myRole.link = s.myRole.link
  nul : t.myRole.nul = s.myRole.nul
  block : (t.slot s.me).block = (s.found.slot s.me).block

/-- And the issuing role's registers and flags, the slot's queues and every byte. -/
structure ContextKept (s t : State) : Prop extends Issuable s t where
  regs : ∀ n at', t.myRole.reg n at' = s.found.myRole.reg n at'
  flags : FlagsKept s t
  late : t.myRole.vpend = s.found.myRole.vpend
  queues : ∀ q, t.queue s.me q = s.found.queue s.me q
  bytes : BytesKept s t

theorem Issuable.me {s t : State} (h : Issuable s t) : t.me = s.me := by
  unfold State.me
  rw [h.cur]

theorem Issuable.linkOf {s t : State} (h : Issuable s t) (i : Instr) : linkOf t.myRole i = linkOf s.myRole i := by
  unfold Machine.linkOf
  rw [h.pc, h.link]

/-- A body without a pop that leaves such a state goes on behind its instruction. -/
theorem Issuable.close {s t : State} (h : Issuable s t) (i : Instr) (hn : s.myRole.nul = 0) {u : Use} (hu : popList s u = []) :
    ((Did.done t).popped u).close i = retireTo i (Machine.linkOf s.myRole i) 0 t := by
  have hpop : popAll t u = t := by rw [popAll_eq, popList_cur s t u h.cur, hu]; rfl
  change retire i (popAll t u).myRole.nul (popAll t u) = _
  rw [hpop, retire, h.linkOf i, h.nul, hn]

/-- An instruction whose body leaves such a state issues. -/
theorem Issuable.issued {s t : State} (h : Issuable s t) (i : Instr) :
    Issued i (Machine.linkOf s.myRole i) 0 s (retireTo i (Machine.linkOf s.myRole i) 0 t) := by
  obtain ⟨hissued, hcur, hrole, hblock, -⟩ := retireTo_spec i (Machine.linkOf s.myRole i) 0 t
  refine ⟨hissued, hcur.trans h.cur, by rw [hrole]; rfl, by rw [hrole]; rfl, ?_, ?_⟩
  · rw [hrole]
    exact congrArg (· + 1 + stallOf i) h.time
  · rw [← h.me, hblock, h.me, h.block, h.vcc, h.cur]

/-- An instruction without a pop whose body leaves such a state and the context writes nothing else. -/
theorem ContextKept.writesOnly {s t : State} (h : ContextKept s t) (i : Instr) {u : Use} (hu : popList s u = []) :
    WritesOnly i u s (retireTo i (Machine.linkOf s.myRole i) 0 t) := by
  obtain ⟨_, _, hrole, _, hqueue, _, hbytes⟩ := retireTo_spec i (Machine.linkOf s.myRole i) 0 t
  refine ⟨h.issued i, fun q => ?_, fun n at' _ => ?_, fun f at' => ?_, ?_, fun p => (hbytes p).trans (h.bytes p)⟩
  · rw [← h.me, hqueue, h.me, h.queues, hu]
    simp
  · rw [hrole]
    exact h.regs n at'
  · rw [hrole]
    exact h.flags f at'
  · rw [hrole]
    exact h.late

theorem contextKept_found (s : State) : ContextKept s s.found where
  cur := rfl
  vcc := rfl
  time := found_now s
  pc := found_pc s
  link := found_link s
  nul := found_nul s
  block := rfl
  regs _ _ := rfl
  flags _ _ := rfl
  late := rfl
  queues _ := rfl
  bytes p := found_bytes s p 1

/-- An update of special registers of a role. -/
def WritesSpecials (f : RoleCtx → RoleCtx) : Prop :=
  ∀ c, ∃ fpctl epc cause tval tvec diaga, f c =
    { c with fpctl := fpctl, epc := epc, cause := cause, tval := tval, tvec := tvec, diaga := diaga }

/-- An update of what a slot holds for the next cycle (04 R96). -/
def WritesNext (f : Slot → Slot) : Prop := ∀ x, ∃ ctl dom hang, f x = { x with ctlNext := ctl, domNext := dom, hangNext := hang }

theorem contextKept_modMe (s : State) (f : RoleCtx → RoleCtx) (hf : WritesSpecials f) :
    ContextKept s (s.found.modMe f) := by
  obtain ⟨_, _, _, _, _, _, hrole⟩ := hf s.found.myRole
  have hme : (s.found.modMe f).myRole = f s.found.myRole := State.myRole_modMe _ f
  have hslot : (s.found.modMe f).slot s.me = (s.found.slot s.me).modRole s.cur.role f := State.slot_modSlot_self _ _ _
  refine
    { cur := rfl, vcc := rfl, time := (State.clock_modMe _ _ f).trans (found_now s), pc := ?_, link := ?_, nul := ?_,
      block := ?_, regs := fun n at' => ?_, flags := fun n at' => ?_, late := ?_, queues := fun q => ?_,
      bytes := fun p => (bytes_modMe _ f p).trans (found_bytes s p 1) }
  · rw [hme, hrole]
    exact found_pc s
  · rw [hme, hrole]
    exact found_link s
  · rw [hme, hrole]
    exact found_nul s
  · rw [hslot, Slot.modRole_block]
  · rw [hme, hrole]
    rfl
  · rw [hme, hrole]
    rfl
  · rw [hme, hrole]
  · unfold State.queue
    rw [hslot, Slot.modRole_queues]

theorem contextKept_next (s : State) (f : Slot → Slot) (hf : WritesNext f) :
    ContextKept s (s.found.modSlot s.me f) := by
  obtain ⟨ctl, dom, hang, hx⟩ := hf (s.found.slot s.me)
  have hslot : (s.found.modSlot s.me f).slot s.me =
      { s.found.slot s.me with ctlNext := ctl, domNext := dom, hangNext := hang } :=
    (State.slot_modSlot_self _ _ _).trans hx
  have hrole : (s.found.modSlot s.me f).myRole = s.found.myRole := by
    unfold State.myRole State.role
    rw [State.me_modSlot, found_me, hslot, State.modSlot_cur]
    cases s.cur.role <;> rfl
  refine
    { cur := rfl, vcc := rfl, time := (State.clock_modSlot _ _ _ f (by rw [hx]; rfl)).trans (found_now s),
      pc := hrole ▸ found_pc s, link := hrole ▸ found_link s, nul := hrole ▸ found_nul s, block := by rw [hslot],
      regs := fun n at' => by rw [hrole], flags := fun n at' => by rw [hrole], late := by rw [hrole],
      queues := fun q => by unfold State.queue; rw [hslot],
      bytes := fun p => (bytes_modSlot _ _ f (by rw [hx]) p).trans (found_bytes s p 1) }

/-- A write of a register of a core that is not its ownership, its scratchpad or its repair. -/
theorem contextKept_modCore (s : State) (k : Nat) (f : Core → Core)
    (hf : ∀ c, ∃ summary einj, f c = { c with summary := summary, einj := einj }) : ContextKept s (s.found.modCore k f) := by
  obtain ⟨summary, einj, hc⟩ := hf (s.found.core k)
  have hcore : ∀ j, ∃ summary einj, (s.found.modCore k f).core j = { s.found.core j with summary := summary, einj := einj } := by
    intro j
    by_cases hj : j = k
    · subst hj
      exact ⟨summary, einj, (State.core_modCore_self _ _ _).trans hc⟩
    · exact ⟨_, _, State.core_modCore_ne _ hj f⟩
  refine { contextKept_found s with bytes := fun p => Eq.trans ?_ (found_bytes s p 1) }
  cases p with
  | spad c o =>
    obtain ⟨_, _, h⟩ := hcore c
    simp only [rawRead, h]
    rfl
  | window o =>
    obtain ⟨_, _, h⟩ := hcore ((o - 0x1000) / 128)
    simp only [rawRead, State.windowRead, h]
    rfl
  | _ => rfl

/-- A write of sys.snap. -/
theorem contextKept_snap (s : State) (v : Word) : ContextKept s { s.found with snap := v } :=
  { contextKept_found s with
    bytes := fun p => (show rawRead { s.found with snap := v } p 1 = rawRead s.found p 1 by cases p <;> rfl).trans
      (found_bytes s p 1) }

/-! ### What retiring leaves of a slot -/

theorem retireTo_slot (i : Instr) (pc : BitVec 32) (nul : Nat) (s : State) :
    let x := s.slot s.me
    let y := (retireTo i pc nul s).slot s.me
    y.ctl = x.ctl ∧ y.ctlNext = x.ctlNext ∧ y.domain = x.domain ∧ y.domNext = x.domNext ∧ y.hangIndex = x.hangIndex ∧
      y.hangNext = x.hangNext := by
  dsimp only
  rw [retireTo_eq, State.slot_mark, State.slot_modSlot_self]
  unfold Slot.retired
  cases s.cur.role <;> exact ⟨rfl, rfl, rfl, rfl, rfl, rfl⟩

theorem found_shared (s : State) :
    (s.found.slot s.me).ctl = (s.slot s.me).ctl ∧ (s.found.slot s.me).domain = (s.slot s.me).domain ∧
      (s.found.slot s.me).hangIndex = (s.slot s.me).hangIndex := by
  unfold State.found landSlot
  rw [State.slot_modSlot_self]
  exact ⟨rfl, rfl, rfl⟩

/-! ### SYSW (04 R96) -/

theorem exec_sysw (st : BitVec 3) (d : BitVec 5) (n : BitVec 17) (s : State) :
    exec (.sysw st d n) s = .next (sysWrite (.sysw st d n) n.toNat d s) := rfl

theorem exec_einjArm (st : BitVec 3) (d : BitVec 5) (s : State) :
    exec (.einjArm st d) s = .next (sysWrite (.einjArm st d) 0xE d s) := rfl

theorem exec_snapArm (st : BitVec 3) (d : BitVec 5) (s : State) :
    exec (.snapArm st d) s = .next (sysWrite (.snapArm st d) 0xF d s) := rfl

/-- A source that is no port pops nothing. -/
theorem popList_noPort {s : State} {d : BitVec 5} (h : noPort d s.cur.role = true) : popList s { srcs := [d] } = [] := by
  have hq : popsQueue s.cur.role d = none := if_neg (by simpa [noPort, imp_iff_not_or] using h)
  simp [popList, hq]

section Writes

variable {s : State} (i : Instr) {n : Nat} {d : BitVec 5} (hf : Free s) (hd : noPort d s.cur.role = true)
  (hs : Supplied { srcs := [d] } s) (hn : (sysAssigned n && !sysReadOnly n) = true)
  (hp : sysPrivileged n = true → s.myRole.sup = true)

include hf hd hs hn hp

/-- A write of a register other than sys.diagd stores its source, and the role goes on. -/
theorem sysWrite_stores (hnC : n ≠ 0xC) (hmode : n = 1 → field (sourceOf { srcs := [d] } s 0) 0 3 ≤ 4)
    (hkept : ContextKept s (sysStore s.found n (sourceOf { srcs := [d] } s 0))) :
    sysWrite i n d s = retireTo i (linkOf s.myRole i) 0 (sysStore s.found n (sourceOf { srcs := [d] } s 0)) := by
  have hmode' : (decide (n = 1) && decide (4 < bitsOf (sourceOf { srcs := [d] } s 0) 0 3)) = false := by
    rw [Bool.and_eq_false_imp]
    exact fun h => decide_eq_false (Nat.not_lt.mpr (hmode (of_decide_eq_true h)))
  unfold sysWrite
  rw [gate_runs i _ (noPort d) _ id _ s hf hn hd hp, operands_runs _ _ s hs]
  change Did.close i (Did.popped _ (if n = 0xC then _ else
    if (decide (n = 1) && decide (4 < bitsOf (sourceOf { srcs := [d] } s 0) 0 3)) = true then _ else _)) = _
  rw [if_neg hnC, hmode', if_neg Bool.false_ne_true]
  exact hkept.close i hf.2 (popList_noPort hd)

/-- So it writes that register and nothing else. -/
theorem sysWrite_writes (hnC : n ≠ 0xC) (hmode : n = 1 → field (sourceOf { srcs := [d] } s 0) 0 3 ≤ 4)
    (hkept : ContextKept s (sysStore s.found n (sourceOf { srcs := [d] } s 0))) :
    WritesOnly i { srcs := [d] } s (sysWrite i n d s) := by
  rw [sysWrite_stores i hf hd hs hn hp hnC hmode hkept]
  exact hkept.writesOnly i (popList_noPort hd)

/-- A write of special registers of the role. -/
theorem sysWrite_modMe {f : RoleCtx → RoleCtx} (hnC : n ≠ 0xC) (hmode : n = 1 → field (sourceOf { srcs := [d] } s 0) 0 3 ≤ 4)
    (hstore : sysStore s.found n (sourceOf { srcs := [d] } s 0) = s.found.modMe f) (hform : WritesSpecials f) :
    WritesOnly i { srcs := [d] } s (sysWrite i n d s) ∧
      ∃ next, (sysWrite i n d s).myRole = (f s.found.myRole).retired (linkOf s.myRole i) 0 next := by
  have hkept : ContextKept s (sysStore s.found n (sourceOf { srcs := [d] } s 0)) := hstore ▸ contextKept_modMe s f hform
  refine ⟨sysWrite_writes i hf hd hs hn hp hnC hmode hkept, ?_⟩
  rw [sysWrite_stores i hf hd hs hn hp hnC hmode hkept, hstore]
  obtain ⟨-, -, hrole, -⟩ := retireTo_spec i (linkOf s.myRole i) 0 (s.found.modMe f)
  rw [State.myRole_modMe] at hrole
  exact ⟨_, hrole⟩

/-- A write of what the slot holds for the next cycle. -/
theorem sysWrite_next {f : Slot → Slot} (hnC : n ≠ 0xC) (hn1 : n ≠ 1)
    (hstore : sysStore s.found n (sourceOf { srcs := [d] } s 0) = s.found.modSlot s.me f) (hform : WritesNext f) :
    WritesOnly i { srcs := [d] } s (sysWrite i n d s) ∧
      let x := f (s.found.slot s.me)
      let y := (sysWrite i n d s).slot s.me
      y.ctl = x.ctl ∧ y.ctlNext = x.ctlNext ∧ y.domain = x.domain ∧ y.domNext = x.domNext ∧ y.hangIndex = x.hangIndex ∧
        y.hangNext = x.hangNext := by
  have hkept : ContextKept s (sysStore s.found n (sourceOf { srcs := [d] } s 0)) := hstore ▸ contextKept_next s f hform
  refine ⟨sysWrite_writes i hf hd hs hn hp hnC (absurd · hn1) hkept, ?_⟩
  rw [sysWrite_stores i hf hd hs hn hp hnC (absurd · hn1) hkept, hstore, ← State.slot_modSlot_self s.found s.me f]
  exact retireTo_slot i (linkOf s.myRole i) 0 (s.found.modSlot s.me f)

/-- A write of what is no register of the role or the slot. -/
theorem sysWrite_outer (hnC : n ≠ 0xC) (hn1 : n ≠ 1)
    (hkept : ContextKept s (sysStore s.found n (sourceOf { srcs := [d] } s 0))) :
    WritesOnly i { srcs := [d] } s (sysWrite i n d s) ∧
      (∀ k, (sysWrite i n d s).core k = (sysStore s.found n (sourceOf { srcs := [d] } s 0)).core k) ∧
      (sysWrite i n d s).snap = (sysStore s.found n (sourceOf { srcs := [d] } s 0)).snap := by
  refine ⟨sysWrite_writes i hf hd hs hn hp hnC (absurd · hn1) hkept, ?_⟩
  rw [sysWrite_stores i hf hd hs hn hp hnC (absurd · hn1) hkept]
  exact ⟨fun _ => rfl, rfl⟩

end Writes

/-! ### The registers of a role (02 R37, R43, 07 R133, 20 R405, R406) -/

/-- The table of the role's registers is the model's: of each what SYSW stores in it, and that it leaves the others. -/
theorem roleRegister_model {row : BitVec 17 × Word × (RoleCtx → Word)} (h : row ∈ roleRegister) (s : State) (v : Word) :
    (sysAssigned row.1.toNat && !sysReadOnly row.1.toNat) = true ∧ row.1.toNat ≠ 0xC ∧ row.1.toNat ≠ 1 ∧
      ∃ f, sysStore s row.1.toNat v = s.modMe f ∧ WritesSpecials f ∧ (∀ c, row.2.2 (f c) = v &&& row.2.1) ∧
        ∀ other ∈ roleRegister, other.1 ≠ row.1 → ∀ c, other.2.2 (f c) = other.2.2 c := by
  have htval : v = v &&& 0xFFFFFFFFFFFFFFFF := (BitVec.and_allOnes).symm
  simp only [roleRegister, List.mem_cons, List.not_mem_nil, or_false] at h
  rcases h with rfl | rfl | rfl | rfl | rfl
  case inr.inr.inl =>
    exact ⟨rfl, nofun, nofun, _, rfl, fun c => ⟨_, _, _, _, _, _, rfl⟩, fun c => htval, by simp [roleRegister]⟩
  all_goals exact ⟨rfl, nofun, nofun, _, rfl, fun c => ⟨_, _, _, _, _, _, rfl⟩, fun c => rfl, by simp [roleRegister]⟩

theorem roleRegister_retired {row : BitVec 17 × Word × (RoleCtx → Word)} (h : row ∈ roleRegister) (c : RoleCtx)
    (pc : BitVec 32) (nul next : Nat) : row.2.2 (c.retired pc nul next) = row.2.2 c := by
  simp only [roleRegister, List.mem_cons, List.not_mem_nil, or_false] at h
  rcases h with rfl | rfl | rfl | rfl | rfl <;> rfl

/-! ### sys.snap (20 R429) -/

theorem field_eq_extract (x : Word) (lo w : Nat) : field x lo w = (x.extractLsb' lo w).toNat := by
  rw [field, BitVec.extractLsb'_toNat, Nat.shiftRight_eq_div_pow]

/-- Words that agree in a field's bits hold the same field. -/
theorem field_congr {x y : Word} {lo w : Nat} (h : ∀ i, i < w → x.getLsbD (lo + i) = y.getLsbD (lo + i)) :
    field x lo w = field y lo w := by
  rw [field_eq_extract, field_eq_extract]
  congr 1
  exact BitVec.eq_of_getLsbD_eq fun i hi => by simp [hi, h i hi]

theorem getLsbD_snapWrite (old v : Word) (i : Nat) :
    (snapWrite old v).getLsbD i =
      (((old.getLsbD i && (0xFFFFFFFA : Word).getLsbD i) || (v.getLsbD i && (0xFFFFFFFF00000005 : Word).getLsbD i)) &&
        !(v.getLsbD 0 && (8#64).getLsbD i)) := by
  unfold snapWrite
  cases h : v.getLsbD 0
  · simp only [Bool.false_eq_true, if_false, BitVec.getLsbD_and, BitVec.getLsbD_or, Bool.false_and, Bool.not_false, Bool.and_true]
  · simp only [if_true, BitVec.getLsbD_and, BitVec.getLsbD_or, BitVec.getLsbD_not, Bool.true_and]
    by_cases hi : i < 64
    · simp only [hi, decide_true, Bool.true_and]
    · simp only [BitVec.getLsbD_of_ge _ _ (Nat.not_lt.mp hi), Bool.false_and, Bool.or_false]

theorem snapWrite_spec (old v : Word) :
    field (snapWrite old v) 32 32 = field v 32 32 ∧ (snapWrite old v).getLsbD 0 = v.getLsbD 0 ∧
      (snapWrite old v).getLsbD 2 = v.getLsbD 2 ∧ (snapWrite old v).getLsbD 3 = (old.getLsbD 3 && !v.getLsbD 0) ∧
      field (snapWrite old v) 16 16 = field old 16 16 := by
  have hold : ∀ i : Fin 64, (0xFFFFFFFA : Word).getLsbD i = (i.val < 32 && i.val ≠ 0 && i.val ≠ 2) := by decide
  have hnew : ∀ i : Fin 64, (0xFFFFFFFF00000005 : Word).getLsbD i = (32 ≤ i.val || i.val = 0 || i.val = 2) := by decide
  have harm : ∀ i : Fin 64, (8#64).getLsbD i = decide (i.val = 3) := by decide
  have hbit : ∀ i, i < 64 → (snapWrite old v).getLsbD i =
      (((old.getLsbD i && (i < 32 && i ≠ 0 && i ≠ 2)) || (v.getLsbD i && (32 ≤ i || i = 0 || i = 2))) &&
        !(v.getLsbD 0 && i = 3)) := by
    intro i hi
    rw [getLsbD_snapWrite, hold ⟨i, hi⟩, hnew ⟨i, hi⟩, harm ⟨i, hi⟩]
  refine ⟨field_congr fun i hi => ?_, ?_, ?_, ?_, field_congr fun i hi => ?_⟩
  · rw [hbit _ (by omega)]
    grind
  · rw [hbit _ (by omega)]
    grind
  · rw [hbit _ (by omega)]
    grind
  · rw [hbit _ (by omega)]
    grind
  · rw [hbit _ (by omega)]
    grind

/-! ### The obligation -/

section Clauses

variable {s : State} (st : BitVec 3) {d : BitVec 5} (hf : Free s) (hd : noPort d s.cur.role = true)
  (hs : Supplied { srcs := [d] } s)

include hf hd hs

theorem sysw_roleRegister {row : BitVec 17 × Word × (RoleCtx → Word)} (hrow : row ∈ roleRegister) (hp : s.myRole.sup = true) :
    ∃ t, exec (.sysw st d row.1) s = .next t ∧ WritesOnly (.sysw st d row.1) { srcs := [d] } s t ∧
      row.2.2 t.myRole = sourceOf { srcs := [d] } s 0 &&& row.2.1 ∧
      ∀ other ∈ roleRegister, other.1 ≠ row.1 → other.2.2 t.myRole = other.2.2 s.found.myRole := by
  obtain ⟨hn, hnC, hn1, f, hstore, hform, hval, hothers⟩ := roleRegister_model hrow s.found (sourceOf { srcs := [d] } s 0)
  obtain ⟨hwrites, next, hrole⟩ :=
    sysWrite_modMe (.sysw st d row.1) hf hd hs hn (fun _ => hp) hnC (absurd · hn1) hstore hform
  refine ⟨_, exec_sysw st d row.1 s, hwrites, ?_, fun other ho hne => ?_⟩
  · rw [hrole, roleRegister_retired hrow, hval]
  · rw [hrole, roleRegister_retired ho, hothers other ho hne]

theorem sysw_fpctl (hmode : field (sourceOf { srcs := [d] } s 0) 0 3 ≤ 4)
    (hflags : s.cur.role = .computer → landedFlags s.found s.me = 0) :
    ∃ t, exec (.sysw st d 1) s = .next t ∧ WritesOnly (.sysw st d 1) { srcs := [d] } s t ∧
      t.myRole.fpctl = sourceOf { srcs := [d] } s 0 &&& 0x3F1F := by
  obtain ⟨hwrites, next, hrole⟩ := sysWrite_modMe (.sysw st d 1) hf hd hs (n := 1) rfl nofun nofun (fun _ => hmode) rfl
    (fun c => ⟨_, _, _, _, _, _, rfl⟩)
  refine ⟨_, exec_sysw st d 1 s, hwrites, ?_⟩
  have hzero : (if s.cur.role = .computer then landedFlags s.found s.me else 0) = 0 := by
    split
    · next h => exact hflags h
    · rfl
  refine (congrArg RoleCtx.fpctl hrole).trans ?_
  change sourceOf { srcs := [d] } s 0 &&& 0x3F1F ||| (if s.cur.role = .computer then landedFlags s.found s.me else 0) = _
  rw [hzero]
  exact BitVec.or_zero

end Clauses

/-- Settles O24: `roleRegister_model` for the registers of a role, `sysWrite_next` for what counts from the next cycle on,
`snapWrite_spec` for sys.snap. -/
theorem systemWrites : Obligations.SystemWrites := by
  intro st d s hf hd hs v
  refine ⟨fun row hrow hp => sysw_roleRegister st hf hd hs hrow hp, sysw_fpctl st hf hd hs, fun hp => ?_⟩
  obtain ⟨hctl, hdomain, hindex⟩ := found_shared s
  have hv : ∀ w, field v 0 w = v.toNat % 2 ^ w := fun w => by rw [field, Nat.pow_zero, Nat.div_one]
  refine ⟨?_, ?_, ?_, ?_, ?_, ?_⟩
  · obtain ⟨hwrites, hc, hcn, -⟩ := sysWrite_next (.sysw st d 0) hf hd hs (n := 0) rfl (fun _ => hp) nofun nofun rfl
      (fun x => ⟨_, _, _, rfl⟩)
    exact ⟨_, exec_sysw st d 0 s, hwrites, hc.trans hctl, hcn⟩
  · obtain ⟨hwrites, -, -, hc, hcn, -⟩ := sysWrite_next (.sysw st d 0xA) hf hd hs (n := 0xA) rfl (fun _ => hp) nofun nofun rfl
      (fun x => ⟨_, _, _, rfl⟩)
    exact ⟨_, exec_sysw st d 0xA s, hwrites, hc.trans hdomain, hcn.trans (congrArg some (hv 4).symm)⟩
  · obtain ⟨hwrites, hcores, -⟩ := sysWrite_outer (.sysw st d 0xD) hf hd hs (n := 0xD) rfl (fun _ => hp) nofun nofun
      (contextKept_modCore s _ _ fun c => ⟨_, _, rfl⟩)
    exact ⟨_, exec_sysw st d 0xD s, hwrites, congrArg Core.summary ((hcores _).trans (State.core_modCore_self s.found _ _))⟩
  · obtain ⟨hwrites, -, -, -, -, hc, hcn⟩ := sysWrite_next (.sysw st d 0x10) hf hd hs (n := 0x10) rfl (fun _ => hp) nofun nofun rfl
      (fun x => ⟨_, _, _, rfl⟩)
    exact ⟨_, exec_sysw st d 0x10 s, hwrites, hc.trans hindex, hcn.trans (congrArg some (hv 6).symm)⟩
  · obtain ⟨hwrites, hcores, -⟩ := sysWrite_outer (.einjArm st d) hf hd hs (n := 0xE) rfl (fun _ => hp) nofun nofun
      (contextKept_modCore s _ _ fun c => ⟨_, _, rfl⟩)
    exact ⟨_, exec_einjArm st d s, hwrites, congrArg Core.einj ((hcores _).trans (State.core_modCore_self s.found _ _))⟩
  · obtain ⟨hwrites, -, hsnap⟩ := sysWrite_outer (.snapArm st d) hf hd hs (n := 0xF) rfl (fun _ => hp) nofun nofun
      (contextKept_snap s _)
    exact ⟨_, exec_snapArm st d s, hwrites, hsnap ▸ snapWrite_spec s.snap v⟩

end Sys2Proof.Machine
end

section
/-! PROOFS. The diagnostic window (02 R43, R44, 20 R427, R428): raw writes of the scratchpad array with the wakes that they cause, repair
words, the error log. -/

namespace Sys2Proof.Machine

open Sys2Proof.Said

/-! ### What writes into the deep store and wakes leave alone

A raw write of a scratchpad row may wake monitors (15 R321); a wake writes records and lists of the deep store, and marks the pending
suspension of a slot. -/

/-- The context and the clocks are as in `s`, and every slot but for the mark of its suspension. -/
structure SlotsMarked (s t : State) : Prop where
  cur : t.cur = s.cur
  vcc : t.vcc = s.vcc
  cycle : t.cycle = s.cycle
  slot : ∀ k, ∃ susp, t.slot k = { s.slot k with susp := susp }

/-- So is every scratchpad's content. -/
structure WakeKept (s t : State) : Prop extends SlotsMarked s t where
  spad : ∀ k, (t.core k).spad = (s.core k).spad

theorem SlotsMarked.of_fields {s t : State} (hcur : t.cur = s.cur := by rfl) (hvcc : t.vcc = s.vcc := by rfl)
    (hcycle : t.cycle = s.cycle := by rfl) (hslots : t.slots = s.slots := by rfl) : SlotsMarked s t :=
  ⟨hcur, hvcc, hcycle, fun k => ⟨(s.slot k).susp, by rw [State.slot, hslots]; rfl⟩⟩

theorem SlotsMarked.comp {s t u : State} (g : SlotsMarked t u) (h : SlotsMarked s t) : SlotsMarked s u := by
  refine ⟨g.cur.trans h.cur, g.vcc.trans h.vcc, g.cycle.trans h.cycle, fun k => ?_⟩
  obtain ⟨x, hx⟩ := h.slot k
  obtain ⟨y, hy⟩ := g.slot k
  exact ⟨y, by rw [hy, hx]⟩

/-- Such a state is one from which an instruction retires. -/
theorem SlotsMarked.issuable {s t : State} (h : SlotsMarked s.found t) : Issuable s t := by
  obtain ⟨susp, hslot⟩ := h.slot s.me
  have hme : t.me = s.me := congrArg (fun c => c.slot.toNat) h.cur
  have hrole : t.myRole = s.found.myRole := by
    unfold State.myRole State.role
    rw [hme, h.cur, hslot]
    cases s.cur.role <;> rfl
  have htime : t.now = s.found.now := by
    unfold State.now State.clock
    rw [hme, hslot, h.vcc, h.cycle]
    rfl
  exact ⟨h.cur, h.vcc, htime.trans (found_now s), hrole ▸ found_pc s, hrole ▸ found_link s, hrole ▸ found_nul s, by rw [hslot]⟩

theorem WakeKept.of_fields {s t : State} (hcur : t.cur = s.cur := by rfl) (hvcc : t.vcc = s.vcc := by rfl)
    (hcycle : t.cycle = s.cycle := by rfl) (hcores : t.cores = s.cores := by rfl) (hslots : t.slots = s.slots := by rfl) :
    WakeKept s t :=
  ⟨.of_fields hcur hvcc hcycle hslots, fun k => by rw [State.core, hcores]; rfl⟩

theorem WakeKept.refl (s : State) : WakeKept s s := .of_fields

theorem WakeKept.comp {s t u : State} (g : WakeKept t u) (h : WakeKept s t) : WakeKept s u :=
  ⟨g.toSlotsMarked.comp h.toSlotsMarked, fun k => (g.spad k).trans (h.spad k)⟩

theorem WakeKept.foldl {α : Type} {f : State → α → State} (hf : ∀ s a, WakeKept s (f s a)) (l : List α) (s : State) :
    WakeKept s (l.foldl f s) :=
  List.foldlRecOn (motive := WakeKept s) l f (.refl s) fun _ h a _ => (hf _ a).comp h

/-- A change of a core's registers. -/
theorem wakeKept_modCore {s : State} {k : Nat} {f : Core → Core} (hf : (f (s.core k)).spad = (s.core k).spad) :
    WakeKept s (s.modCore k f) := by
  refine { WakeKept.of_fields (s := s) (t := s) with spad := fun j => ?_ }
  by_cases hj : j = k
  · subst hj
    rw [State.core_modCore_self, hf]
  · rw [State.core_modCore_ne _ hj]

section Writes

variable (s : State) (a : Nat)

theorem wakeKept_rawWrite (n v : Nat) : WakeKept s (rawWrite s (.deep a) n v) := .of_fields

theorem wakeKept_setMeta (m : BitVec 36) : WakeKept s (setMeta s (.deep a) m) := .of_fields

theorem wakeKept_setErr (e : Flips) : WakeKept s (setErr s (.deep a) e) := .of_fields

theorem wakeKept_setMetaErr (e : Flips) : WakeKept s (setMetaErr s (.deep a) e) := .of_fields

theorem wakeKept_modCluster (k : Nat) (f : Cluster → Cluster) : WakeKept s (s.modCluster k f) := .of_fields

theorem wakeKept_slotField (slot : Nat) : WakeKept s (slotField s slot).2 := by
  unfold slotField
  split
  · exact .refl s
  · exact .of_fields

theorem wakeKept_logError (cluster kind slot dom array code synd jidx : Nat) (addr md : Word) :
    WakeKept s (logError s cluster kind slot dom array code synd jidx addr md) := by
  unfold logError
  exact (wakeKept_modCluster ..).comp (wakeKept_slotField s slot)

theorem wakeKept_eccMeta (slot dom : Nat) : WakeKept s (eccMeta s (.deep a) slot dom) := by
  unfold eccMeta
  dsimp only
  split
  · exact .refl s
  · exact (wakeKept_logError ..).comp .of_fields

theorem wakeKept_eccUnit (slot dom : Nat) : WakeKept s (eccUnit s (.deep a) slot dom).1 := by
  have hmeta := wakeKept_eccMeta s a slot dom
  unfold eccUnit
  split
  · exact wakeKept_logError ..
  · dsimp only
    split_ifs
    · exact hmeta
    · exact (wakeKept_logError ..).comp (.comp .of_fields hmeta)
    · exact (wakeKept_logError ..).comp hmeta

theorem wakeKept_checkedLine (l : Nat) : WakeKept s (checkedLine s l) := by
  unfold checkedLine
  split
  · exact wakeKept_logError ..
  · exact .foldl (fun _ _ => wakeKept_eccUnit ..) _ s

theorem wakeKept_undoErrs (l at' : Nat) : WakeKept s (undoErrs s l at') :=
  .foldl (fun _ _ => .of_fields) _ s

theorem wakeKept_undoLog : WakeKept s (undoLog s a) := by
  unfold undoLog
  split
  · have hline := wakeKept_checkedLine s (a / 64 * 64)
    dsimp only
    generalize checkedLine s (a / 64 * 64) = s1 at hline ⊢
    split
    · exact (wakeKept_modCluster ..).comp ((wakeKept_undoErrs ..).comp (.comp .of_fields hline))
    · exact (wakeKept_undoErrs ..).comp (.comp .of_fields hline)
  · exact .refl s

theorem wakeKept_noteStall (slot : Nat) : WakeKept s (noteStall s slot (.deep a)) := by
  unfold noteStall
  dsimp only
  split
  · exact .refl s
  · exact (wakeKept_logError ..).comp .of_fields

theorem wakeKept_inject (c slot dom : Nat) : WakeKept s (inject s c (.deep a) slot dom) := by
  unfold inject
  split
  · exact (wakeKept_logError ..).comp ((wakeKept_modCore rfl).comp .of_fields)
  · exact .refl s

theorem wakeKept_writeNow (n v : Nat) (stamp : BitVec 36) (slot dom : Nat) :
    WakeKept s (writeNow s (.deep a) n v stamp slot dom) := by
  unfold writeNow
  extract_lets s0 s1 s2 s3 pend s4
  have hundo : WakeKept s s0 := wakeKept_undoLog s a
  have hdata : WakeKept s0 s2 := by
    refine (wakeKept_rawWrite ..).comp ?_
    unfold s1
    split
    · exact .refl s0
    · exact wakeKept_eccUnit ..
  have hbits : WakeKept s2 s3 := by
    unfold s3
    split
    · exact wakeKept_setErr ..
    · exact .refl s2
  exact (wakeKept_inject ..).comp ((wakeKept_setMeta ..).comp ((wakeKept_setMetaErr ..).comp
    ((wakeKept_setMeta ..).comp (hbits.comp (hdata.comp hundo)))))

theorem wakeKept_writeRaw (n v : Nat) (stamp : BitVec 36) (slot dom : Nat) :
    WakeKept s (writeRaw s (.deep a) n v stamp slot dom) := by
  unfold writeRaw
  split
  · exact WakeKept.comp .of_fields (wakeKept_noteStall s a slot)
  · exact wakeKept_writeNow ..

/-! ### Wakes (11 R225, 15 R321) -/

theorem wakeKept_listAppendRaw (cluster w : Nat) (va : Word) : WakeKept s (listAppendRaw s cluster w va) := by
  unfold listAppendRaw listTail
  dsimp only
  split
  · exact .of_fields
  · next p hp =>
    split_ifs at hp
    cases hp
    exact (wakeKept_writeRaw ..).comp .of_fields

theorem wakeKept_placeResumeRaw (cluster : Nat) (e : Ready) : WakeKept s (placeResumeRaw s cluster e) := by
  unfold placeResumeRaw
  split
  · exact .of_fields
  · exact (wakeKept_listAppendRaw ..).comp .of_fields

theorem wakeKept_wakeRaw (cluster : Nat) (ref : RecRef) : WakeKept s (wakeRaw s cluster ref) := by
  unfold wakeRaw
  split
  · next k _ =>
    refine { WakeKept.of_fields (s := s) (t := s) with slot := fun j => ?_ }
    by_cases hj : j = k
    · subst hj
      exact ⟨_, State.slot_modSlot_self ..⟩
    · exact ⟨(s.slot j).susp, State.slot_modSlot_ne _ hj _⟩
  · exact (wakeKept_placeResumeRaw ..).comp (wakeKept_writeRaw ..)

end Writes

theorem wakeKept_wakeLine (fuel : Nat) : ∀ (s : State) (p : Place), WakeKept s (wakeLine s p fuel) := by
  induction fuel with
  | zero => exact fun s _ => .refl s
  | succ n ih =>
    intro s p
    unfold wakeLine
    dsimp only
    split
    · exact .refl s
    · split
      · exact .refl s
      · exact ((ih _ _).comp ((ih _ _).comp ((ih _ _).comp (wakeKept_wakeRaw ..)))).comp .of_fields

theorem wakeKept_wakeUndo (fuel : Nat) : ∀ s : State, WakeKept s (wakeUndo s fuel) := by
  induction fuel with
  | zero => exact fun s => .refl s
  | succ n ih =>
    intro s
    unfold wakeUndo
    dsimp only
    split
    · exact .refl s
    · exact ((ih _).comp (wakeKept_wakeLine ..)).comp .of_fields

theorem wakeKept_wakeWriters (s : State) (p : Place) : WakeKept s (wakeWriters s p) := by
  unfold wakeWriters
  dsimp only
  split
  · exact .refl s
  · exact (wakeKept_wakeUndo ..).comp (wakeKept_wakeLine ..)

/-! ### An injection that meets a scratchpad line (20 R428) -/

theorem logError_record (s : State) {slot : Nat} (hslot : slot < noSlot) (cluster kind dom array code synd jidx : Nat)
    (addr md : Word) :
    let t := logError s cluster kind slot dom array code synd jidx addr md
    t.cores = s.cores ∧
      ((t.cluster cluster).log.get (s.cluster cluster).logHead 0).extractLsb' 56 8 = BitVec.ofNat 8 kind := by
  unfold logError slotField
  rw [if_pos hslot]
  refine ⟨rfl, ?_⟩
  dsimp only
  rw [State.cluster_modCluster_self, Sp.get_put_self, BitVec.extractLsb'_append_eq_of_add_le (by omega)]
  repeat rw [BitVec.extractLsb'_append_eq_of_le (by omega)]
  exact BitVec.extractLsb'_eq_self

/-- The injection disarms itself and leaves its record of KIND 10. -/
theorem inject_spad {s : State} {c o slot : Nat} (h : einjMatches s c (.spad c o) = true) (hslot : slot < noSlot) (dom : Nat) :
    let t := inject s c (.spad c o) slot dom
    SlotsMarked s t ∧ (t.core c).einj = (s.core c).einj &&& ~~~1#64 ∧
      ((t.cluster (clusterOf slot)).log.get (s.cluster (clusterOf slot)).logHead 0).extractLsb' 56 8 = 10#8 := by
  have hlog : logCluster slot = clusterOf slot := if_pos hslot
  unfold inject
  rw [if_pos h]
  extract_lets e pos flips l s1 s2 s3
  have heinj : (s3.core c).einj = (s.core c).einj &&& ~~~1#64 := by
    simp only [s3, s2, s1, l, Place.line, setErr, rawWrite, State.core_modCore_self]
  obtain ⟨hcores, hrec⟩ := logError_record s3 hslot (logCluster slot) 10 dom (Place.array (.spad c o)) 0 0 0 l.addr e
  rw [← hlog]
  refine ⟨(wakeKept_logError ..).toSlotsMarked.comp (.of_fields (s := s) (t := s3)), ?_, hrec⟩
  rw [State.core, hcores]
  exact heinj

/-! ### Raw writes (02 R44) -/

theorem rawPoke_spec (c : Core) (bank row word : Nat) (v : Word) :
    (rawPoke c bank row word v).spad = Mem.writeNat c.spad (rawIndex bank row (8 * word)) 8 v.toNat ∧
      (rawPoke c bank row word v).einj = c.einj := by
  unfold rawPoke
  dsimp only
  split <;> exact ⟨rfl, rfl⟩

/-- Where no injection is armed, a raw write changes the word of the array, and else no scratchpad. -/
theorem rawStore_unarmed {s : State} {k : Nat} (h : (s.core k).einj.getLsbD 0 = false) (bank row word : Nat) (v : Word) :
    let t := rawStore s k bank row word v
    SlotsMarked s t ∧ (t.core k).spad = Mem.writeNat (s.core k).spad (rawIndex bank row (8 * word)) 8 v.toNat := by
  obtain ⟨hspad, heinj⟩ := rawPoke_spec (s.core k) bank row word v
  have hpoke : ((s.modCore k (fun c => rawPoke c bank row word v)).core k) = rawPoke (s.core k) bank row word v :=
    State.core_modCore_self ..
  unfold rawStore
  dsimp only
  split
  · next l _ =>
    rw [inject_unarmed (by rw [hpoke, heinj]; exact h)]
    have hwake := wakeKept_wakeWriters (s.modCore k (fun c => rawPoke c bank row word v)) (.spad k (64 * l))
    exact ⟨hwake.toSlotsMarked.comp .of_fields, by rw [hwake.spad, hpoke, hspad]⟩
  · exact ⟨.of_fields, by rw [hpoke, hspad]⟩

/-- An injection armed for its line meets a raw write, with its record. -/
theorem rawStore_armed {s : State} {k l bank row : Nat} (hl : rawLine (s.core k) bank row = some l)
    (h : einjMatches s k (.spad k (64 * l)) = true) (hmon : monitorCount s = 0) (word : Nat) (v : Word) (hme : s.me < noSlot) :
    let t := rawStore s k bank row word v
    SlotsMarked s t ∧ (t.core k).einj = (s.core k).einj &&& ~~~1#64 ∧
      ((t.cluster (clusterOf s.me)).log.get (s.cluster (clusterOf s.me)).logHead 0).extractLsb' 56 8 = 10#8 := by
  have hpoke : ((s.modCore k (fun c => rawPoke c bank row word v)).core k).einj = (s.core k).einj := by
    rw [State.core_modCore_self]
    exact (rawPoke_spec ..).2
  have hmatch : einjMatches (s.modCore k (fun c => rawPoke c bank row word v)) k (.spad k (64 * l)) = true := by
    unfold einjMatches at h ⊢
    rw [hpoke]
    exact h
  obtain ⟨hslots, heinj, hrec⟩ := inject_spad hmatch hme (s.slot s.me).domain
  have hmon' : Unmonitored (s.modCore k (fun c => rawPoke c bank row word v)) := (monitorCount_eq_zero_iff s).1 hmon
  unfold rawStore
  simp only [hl]
  rw [wakeWriters_unmonitored ((writeKept_inject ..).monitors hmon')]
  exact ⟨hslots.comp .of_fields, heinj.trans (by rw [hpoke]), hrec⟩

/-! ### SYSW of sys.diagd -/

theorem exec_diagdWrite (st : BitVec 3) (d : BitVec 5) (s : State) :
    exec (.diagdWrite st d) s = .next (sysWrite (.diagdWrite st d) 0xC d s) := rfl

theorem exec_errorLogClear (st : BitVec 3) (d : BitVec 5) (s : State) :
    exec (.errorLogClear st d) s = .next (sysWrite (.diagdWrite st d) 0xC d s) := rfl

section Window

variable {s : State} (st : BitVec 3) {d : BitVec 5} (hf : Free s) (hd : noPort d s.cur.role = true)
  (hs : Supplied { srcs := [d] } s) (hp : s.myRole.sup = true)

include hf hd hs hp

/-- A write at an allowed address has its effect, and the role goes on. -/
theorem sysWrite_diagd (ha : diagOk s.found true = true) (h : Issuable s (diagWrite s.found (sourceOf { srcs := [d] } s 0))) :
    sysWrite (.diagdWrite st d) 0xC d s = retireTo (.diagdWrite st d) (linkOf s.myRole (.diagdWrite st d)) 0
      (diagWrite s.found (sourceOf { srcs := [d] } s 0)) := by
  unfold sysWrite
  rw [gate_runs _ (sysAssigned 0xC && !sysReadOnly 0xC) (noPort d) (sysPrivileged 0xC) id _ s hf rfl hd (fun _ => hp),
    operands_runs _ _ s hs]
  change Did.close _ (Did.popped _ (if diagOk s.found true then .done (diagWrite s.found (sourceOf { srcs := [d] } s 0)) else _)) = _
  rw [ha, if_pos rfl]
  exact h.close _ hf.2 (popList_noPort hd)

theorem diagdWrite_issued (ha : diagOk s.found true = true) {u : State}
    (hu : diagWrite s.found (sourceOf { srcs := [d] } s 0) = u) (h : SlotsMarked s.found u) :
    ∃ t, exec (.diagdWrite st d) s = .next t ∧ Issued (.diagdWrite st d) (linkOf s.myRole (.diagdWrite st d)) 0 s t ∧
      t.cores = u.cores ∧ t.clusters = u.clusters := by
  subst hu
  refine ⟨_, exec_diagdWrite st d s, ?_⟩
  rw [sysWrite_diagd st hf hd hs hp ha h.issuable]
  exact ⟨h.issuable.issued _, rfl, rfl⟩

end Window

/-! #### The spaces (02 R43) -/

/-- Space 0: a word of the scratchpad array. -/
theorem diag_rows {s : State} (hspace : field s.myRole.diaga 60 4 = 0) (hrow : field s.myRole.diaga 3 12 < 2052) (v : Word) :
    diagOk s true = true ∧ diagWrite s v =
      rawStore s (coreOf s.me) (field s.myRole.diaga 15 5) (field s.myRole.diaga 3 12) (field s.myRole.diaga 0 3) v := by
  have hspace' : bitsOf s.myRole.diaga 60 4 = 0 := hspace
  unfold diagOk diagWrite
  simp only [hspace']
  exact ⟨decide_eq_true hrow, rfl⟩

/-- Space 2: the repair word of a bank. -/
theorem diag_repair {s : State} (hspace : field s.myRole.diaga 60 4 = 2) (hbank : field s.myRole.diaga 0 20 < 32) (v : Word) :
    diagOk s true = true ∧ diagWrite s v = s.modCore (coreOf s.me)
      (fun c => { c with repair := c.repair.put (field s.myRole.diaga 0 20) (v &&& repairEntries) 0 }) := by
  have hspace' : bitsOf s.myRole.diaga 60 4 = 2 := hspace
  unfold diagOk diagWrite
  simp only [hspace']
  exact ⟨decide_eq_true hbank, rfl⟩

/-- Word 0x400 of space 6: the error log as a whole. -/
theorem diag_log {s : State} (hspace : field s.myRole.diaga 60 4 = 6) (hword : field s.myRole.diaga 0 20 = 0x400) (v : Word) :
    diagOk s true = true ∧ diagWrite s v = logWrite s v := by
  have hspace' : bitsOf s.myRole.diaga 60 4 = 6 := hspace
  unfold diagOk diagWrite
  simp only [hspace']
  exact ⟨decide_eq_true (le_of_eq hword), if_pos hword⟩

theorem logWrite_zero (s : State) :
    logWrite s 0 = s.modCluster (clusterOf s.me) (fun c => { c with log := [], logHead := 0, logLost := 0 }) := if_pos rfl

theorem logWrite_zero_log (s : State) : ((logWrite s 0).cluster (clusterOf s.me)).log = [] := by
  rw [logWrite_zero, State.cluster_modCluster_self]

theorem logWrite_zero_bytes (s : State) (p : Place) (n : Nat) : rawRead (logWrite s 0) p n = rawRead s p n := by
  rw [logWrite_zero]
  cases p <;> rfl

/-- Settles O25: `diagWrite` of each space, by `rawStore_unarmed` and `rawStore_armed` for the scratchpad array. -/
theorem diagnosticWrites : Obligations.DiagnosticWrites := by
  intro st d s hf hd hs hp v a
  have hme : s.found.me < noSlot := s.cur.slot.isLt
  refine ⟨fun hspace hword => ?_, fun hspace hrow harm => ?_, fun l hspace hrow hline harm hmon => ?_,
    fun hspace hword hzero => ?_⟩
  · obtain ⟨ha, hu⟩ := diag_repair hspace hword v
    obtain ⟨t, hexec, hissued, hcores, -⟩ := diagdWrite_issued st hf hd hs hp ha hu .of_fields
    have hcore : (t.core (coreOf s.me)).repair =
        (s.core (coreOf s.me)).repair.put (field a 0 20) (v &&& repairEntries) 0 := by
      rw [State.core, hcores]
      exact congrArg Core.repair (State.core_modCore_self s.found (coreOf s.me) _)
    refine ⟨t, hexec, hissued, ?_, fun b hb => ?_⟩
    · rw [hcore, Sp.get_put_self]
      rfl
    · rw [hcore, Sp.get_put_ne _ hb]
  · obtain ⟨ha, hu⟩ := diag_rows hspace hrow v
    obtain ⟨hslots, hspad⟩ := rawStore_unarmed (s := s.found) harm (field a 15 5) (field a 3 12) (field a 0 3) v
    obtain ⟨t, hexec, hissued, hcores, -⟩ := diagdWrite_issued st hf hd hs hp ha hu hslots
    have hcore : (t.core (coreOf s.me)).spad = Mem.writeNat (s.core (coreOf s.me)).spad
        ((field a 15 5 * 2052 + field a 3 12) * 64 + 8 * field a 0 3) 8 v.toNat := by
      rw [State.core, hcores]
      exact hspad
    refine ⟨t, hexec, hissued, ?_, fun i hi => ?_⟩
    · rw [hcore, Mem.readNat_writeNat]
      exact Nat.mod_eq_of_lt v.isLt
    · rw [hcore, Mem.byte_writeNat_outside _ _ _ _ _ hi]
  · obtain ⟨ha, hu⟩ := diag_rows hspace hrow v
    obtain ⟨hslots, heinj, hrec⟩ := rawStore_armed (s := s.found) hline harm hmon (field a 0 3) v hme
    obtain ⟨t, hexec, hissued, hcores, hclusters⟩ := diagdWrite_issued st hf hd hs hp ha hu hslots
    refine ⟨t, hexec, hissued, ?_, ?_⟩
    · rw [State.core, hcores]
      exact heinj
    · dsimp only
      rw [State.cluster, hclusters]
      exact hrec
  · obtain ⟨ha, hwrite⟩ := diag_log hspace hword v
    have hu : diagWrite s.found (sourceOf { srcs := [d] } s 0) = logWrite s.found 0 := hwrite.trans (congrArg _ hzero)
    have hslots : SlotsMarked s.found (logWrite s.found 0) := logWrite_zero s.found ▸ .of_fields
    refine ⟨_, exec_errorLogClear st d s, ?_⟩
    rw [sysWrite_diagd st hf hd hs hp ha (hu ▸ hslots.issuable), hu]
    obtain ⟨hissued, -, -, -, -, -, hbytes⟩ := retireTo_spec (.diagdWrite st d) (linkOf s.myRole (.diagdWrite st d)) 0
      (logWrite s.found 0)
    refine ⟨hissued, fun n => ?_, fun p => (hbytes p).trans ((logWrite_zero_bytes ..).trans (found_bytes s p 1))⟩
    exact congrArg (Sp.get · n 0) (logWrite_zero_log s.found)

end Sys2Proof.Machine
end

section
/-! O59. The clause on this package's own KVPUT with MODE 0 asks of the starting state alone that the command may read each unit of its
source. `kvMovePosition` asks it again before each position, of the state that the positions before it have written. Where the entry counts
as marked, its own line is recognised by a page walk (`ownLine`), and a position may have written the page table that the walk goes through.
No KVPUT of the machine marks a destination; the statement leaves `marked` free. -/

namespace Sys2Proof.Machine

open Sys2Proof.Said Sys2Proof.Tests

/-- A KVPUT of tokens 0 and 1 of one block, 8 bytes each, from virtual address 65,520, that counts as having marked 24 bytes there. -/
def markedPut : JEntry := { kvOf (.kvputStore 0 (copyX 0x100)) 0 with vd := 65520, marked := 24 }

/-- The command is due. Its source stands at 0x10000, in a PEND line that the micro-TLB maps for reading; the third unit's address, 65,536,
leads by a walk to the same line, for writing. The block stands at 0x80000, over the leaf of that walk. -/
def overTables : State :=
  { holding .computer { slotOf [] with journal := [markedPut] } with
    cores := [(0, { utlb := [⟨1, 4095, 4, 0xC000000000010000, 0⟩, ⟨1, 0x30, 16, 0xC000000000300000, 0⟩] })],
    undo := [(0, { lines := [0x2000] })],
    mgmt := [(0x248, 0x400000), (0x250, 1), (0x880, 0x200000)],
    deepMeta := [(0x400, 0xA00000000)],
    deep := [(0x80000, 0x40), (0x80007, 0xC0), (0x200002, 0x08), (0x200007, 0x80), (0x300007, 0x80), (0x400002, 0x08), (0x400009, 0x02),
      (0x40000C, 0x03), (0x40000E, 0x81)] }

/-- Where byte `o` of the source stands. -/
def putSource (o : Nat) : Place := .deep (0x10000 + o)

/-- Where byte `o` of the two tokens stands in the block. -/
def putTarget (o : Nat) : Place := .deep (0x80000 + o)

theorem markedPut_due : OwnDue overTables 0 1 0 markedPut := by
  unfold OwnDue
  decide +kernel

theorem overTables_quiet : AllQuiet overTables := Tests.quiet (by decide +kernel)

theorem overTables_blockEntry : blockEntry overTables 0 = 0x810003000002000000000000080000#128 := by decide +kernel

theorem overTables_names : TableNames overTables 0 markedPut (markedPut.vb.toNat / 64) .read 0x300000 0 := by
  refine ⟨leads_to (by decide +kernel), by decide, by decide, by decide +kernel, ?_⟩
  unfold BlockStands
  decide +kernel

theorem markedPut_copyAt : CopyAt overTables 0 markedPut .read markedPut.dst 16 putSource :=
  copy_at 16 rfl (by decide +kernel) (by decide)

/-- The two units that the command moves. -/
theorem unit_of_sixteen {o : Nat} (l : o < 16) (m : o % 8 = 0) : o = 0 ∨ o = 8 := by omega

/-- In the starting state both units of the source may be read: the walk finds their line to be the command's own. -/
theorem putSource_allowed {o : Nat} (l : o < 16) (m : o % 8 = 0) :
    Sound overTables (putSource o) ∧ sourceAllowed 0 markedPut overTables (putSource o) = true := by
  rcases unit_of_sixteen l m with rfl | rfl <;> decide +kernel

theorem putTarget_ready {o : Nat} (l : o < 16) (m : o % 8 = 0) :
    Usable overTables (putTarget o) ∧ Sound overTables (putTarget o) ∧ undoFirst overTables (0x80000 + o) = false := by
  refine ⟨usable (by omega) (by omega), ?_⟩
  rcases unit_of_sixteen l m with rfl | rfl <;> decide +kernel

theorem putSource_line_ne {o o' : Nat} (l : o < 16) (l' : o' < 16) : (putSource o).line ≠ (putTarget o').line := by
  intro h
  injection h
  omega

/-- The first token's write ends the walk's mapping, so the second token is refused. -/
theorem markedPut_refused : ((kvPart overTables 0 1).slot 0).journal.map (·.err) = [0x300] := by decide +kernel

/-- Refutes O59: a KVPUT with MODE 0 whose first position overwrites the page-table leaf by which its second position's line is recognised
as its own settles with code 0x300, though every unit of its source may be read when it starts. -/
theorem not_hostAndNeighbours : ¬ Obligations.HostAndNeighbours := by
  unfold Obligations.HostAndNeighbours
  intro h
  obtain ⟨-, -, -, -, -, -, own, -⟩ := h overTables
  have size : kvLen (blockEntry overTables 0) / 64 * markedPut.kvCount = 16 := by
    rw [overTables_blockEntry]
    decide +kernel
  have far (o : Nat) : (blockBase (blockEntry overTables 0)).plus
      (kvLen (blockEntry overTables 0) / 64 * (markedPut.vb.toNat % 64) + o) = putTarget o := by
    rw [overTables_blockEntry]
    exact congrArg (fun n => Place.deep (0x80000 + n)) (Nat.zero_add o)
  obtain ⟨-, put⟩ := (own 0 1 0 markedPut 0x300000 0 markedPut_due overTables_quiet).2 putSource rfl rfl (by decide) overTables_names
    (by rw [overTables_blockEntry]; decide) (by rw [overTables_blockEntry]; decide) (by rw [overTables_blockEntry]; decide)
    (by
      intro o l m
      simp only [far]
      exact ⟨(putTarget_ready (size ▸ l) m).1, fun _ => (putTarget_ready (size ▸ l) m).2.1⟩)
    (fun o l m _ => (putSource_allowed (size ▸ l) m).1)
    (by
      intro o o' l l' _ _
      simp only [far]
      exact putSource_line_ne (size ▸ l) (size ▸ l'))
  obtain ⟨t, run, -, -, journal, -⟩ := put (by decide +kernel) (by decide +kernel) (size.symm ▸ markedPut_copyAt)
    (fun o l m _ => (putSource_allowed (size ▸ l) m).2)
    (by
      intro o l m a q
      simp only [far] at q
      cases q
      exact (putTarget_ready (size ▸ l) m).2.2)
  have next : t = kvPart overTables 0 1 := (Host.Outcome.next.inj run).symm
  have claimed : (t.slot 0).journal.map (·.err) = [0] := congrArg (List.map (·.err)) journal
  rw [next, markedPut_refused] at claimed
  exact absurd claimed (by decide)

end Sys2Proof.Machine
end

section
/-! PROOFS. Instruction words (03 R47 to R61): the fields of a word read back the parts that it is put together from, so that the decoder
undoes the encoder, layout by layout; and the words that the spec works out. -/

namespace Sys2Proof

/-! ### The fields of a word (03 R47 to R58) -/

/-- A field that lies within the low part of a word. The word's width stands as a literal, so the pattern leaves it to unification. -/
@[simp] theorem extract_low {m n s k : Nat} (x : BitVec m) (y : BitVec n) (h : s + k ≤ n) :
    (no_index (x ++ y)).extractLsb' s k = y.extractLsb' s k := BitVec.extractLsb'_append_eq_of_add_le h

/-- A field that lies above the low part of a word. -/
@[simp] theorem extract_high {m n s k : Nat} (x : BitVec m) (y : BitVec n) (h : n ≤ s) :
    (no_index (x ++ y)).extractLsb' s k = x.extractLsb' (s - n) k := BitVec.extractLsb'_append_eq_of_le h

/-! ### What the decoders accept (03 R48, R59) -/

/-- The decoder of short words reads words of short majors alone. -/
theorem majorOf_of_decodeShort {w : InstrWord} {i : Instr} (h : decodeShort w = .ok i) : majorOf w < 0x60 := by
  by_contra hmajor
  unfold decodeShort at h
  split at h <;> first | omega | cases h

/-- The decoder of pairs reads words of long majors alone. -/
theorem isLongMajor_of_decodeLong {w x : InstrWord} {i : Instr} (h : decodeLong w x = .ok i) : isLongMajor w = true := by
  unfold decodeLong at h
  unfold isLongMajor
  split at h <;> first | (simp only [decide_eq_true_eq]; omega) | cases h

/-- An instruction whose word the decoder of short words reads back. -/
theorem decode_short {i : Instr} {w x : InstrWord} (hcode : encode i = (w, x)) (hread : decodeShort w = .ok i)
    (hlimits : i.wellFormed = true) : decode (encode i).1 (encode i).2 = .ok i := by
  have hshort : isLongMajor w = false :=
    decide_eq_false fun h => absurd h.1 (Nat.not_le.mpr (majorOf_of_decodeShort hread))
  simp [hcode, decode, hshort, hread, limited, hlimits]

/-- An instruction whose pair of words the decoder of pairs reads back. -/
theorem decode_long {i : Instr} {w x : InstrWord} (hcode : encode i = (w, x)) (hread : decodeLong w x = .ok i)
    (hlimits : i.wellFormed = true) : decode (encode i).1 (encode i).2 = .ok i := by
  simp [hcode, decode, isLongMajor_of_decodeLong hread, hread, limited, hlimits]

/-! ### Short layouts (03 R49 to R53)

The decoder reads a word through its fields alone. A lemma for each layout says so of the words in it: if every word with these fields is
read as `i`, the word of `i` is. -/

/-- Three register fields and a 7-bit function. -/
theorem decode_regs {i : Instr} {major fn : BitVec 7} {st : BitVec 3} {d a b : BitVec 5}
    (hcode : encode i = (major ++ st ++ d ++ a ++ b ++ fn, 0))
    (hread : ∀ v : InstrWord, majorOf v = major.toNat → v.extractLsb' 0 7 = fn → v.extractLsb' 22 3 = st →
      v.extractLsb' 17 5 = d → v.extractLsb' 12 5 = a → v.extractLsb' 7 5 = b → decodeShort v = .ok i)
    (hlimits : i.wellFormed = true) : decode (encode i).1 (encode i).2 = .ok i :=
  decode_short hcode (hread _ (by simp [majorOf]) (by simp) (by simp) (by simp) (by simp) (by simp)) hlimits

/-- Three register fields, a 4-bit function and a 3-bit field. -/
theorem decode_ordered {i : Instr} {major : BitVec 7} {fn : BitVec 4} {st o : BitVec 3} {d a b : BitVec 5}
    (hcode : encode i = (major ++ st ++ d ++ a ++ b ++ fn ++ o, 0))
    (hread : ∀ v : InstrWord, majorOf v = major.toNat → v.extractLsb' 3 4 = fn → v.extractLsb' 22 3 = st →
      v.extractLsb' 17 5 = d → v.extractLsb' 12 5 = a → v.extractLsb' 7 5 = b → v.extractLsb' 0 3 = o → decodeShort v = .ok i)
    (hlimits : i.wellFormed = true) : decode (encode i).1 (encode i).2 = .ok i :=
  decode_short hcode (hread _ (by simp [majorOf]) (by simp) (by simp) (by simp) (by simp) (by simp) (by simp)) hlimits

/-- Two register fields and a 12-bit immediate. -/
theorem decode_imm {i : Instr} {major : BitVec 7} {st : BitVec 3} {d a : BitVec 5} {imm : BitVec 12}
    (hcode : encode i = (major ++ st ++ d ++ a ++ imm, 0))
    (hread : ∀ v : InstrWord, majorOf v = major.toNat → v.extractLsb' 22 3 = st → v.extractLsb' 17 5 = d →
      v.extractLsb' 12 5 = a → v.extractLsb' 0 12 = imm → decodeShort v = .ok i)
    (hlimits : i.wellFormed = true) : decode (encode i).1 (encode i).2 = .ok i :=
  decode_short hcode (hread _ (by simp [majorOf]) (by simp) (by simp) (by simp) (by simp)) hlimits

/-- Two register fields and two 6-bit fields. -/
theorem decode_bits {i : Instr} {major : BitVec 7} {st : BitVec 3} {d a : BitVec 5} {w p : BitVec 6}
    (hcode : encode i = (major ++ st ++ d ++ a ++ w ++ p, 0))
    (hread : ∀ v : InstrWord, majorOf v = major.toNat → v.extractLsb' 22 3 = st → v.extractLsb' 17 5 = d →
      v.extractLsb' 12 5 = a → v.extractLsb' 6 6 = w → v.extractLsb' 0 6 = p → decodeShort v = .ok i)
    (hlimits : i.wellFormed = true) : decode (encode i).1 (encode i).2 = .ok i :=
  decode_short hcode (hread _ (by simp [majorOf]) (by simp) (by simp) (by simp) (by simp) (by simp)) hlimits

/-- Two register fields, a line offset and a word index. -/
theorem decode_branch {i : Instr} {major : BitVec 7} {st : BitVec 3} {a b : BitVec 5} {off : BitVec 8} {tw : BitVec 4}
    (hcode : encode i = (major ++ st ++ a ++ b ++ off ++ tw, 0))
    (hread : ∀ v : InstrWord, majorOf v = major.toNat → v.extractLsb' 22 3 = st → v.extractLsb' 17 5 = a →
      v.extractLsb' 12 5 = b → v.extractLsb' 4 8 = off → v.extractLsb' 0 4 = tw → decodeShort v = .ok i)
    (hlimits : i.wellFormed = true) : decode (encode i).1 (encode i).2 = .ok i :=
  decode_short hcode (hread _ (by simp [majorOf]) (by simp) (by simp) (by simp) (by simp) (by simp)) hlimits

/-- Two register fields, a stream and a displacement. -/
theorem decode_access {i : Instr} {major : BitVec 7} {st : BitVec 3} {t base : BitVec 5} {stream : BitVec 4} {disp : BitVec 8}
    (hcode : encode i = (major ++ st ++ t ++ base ++ stream ++ disp, 0))
    (hread : ∀ v : InstrWord, majorOf v = major.toNat → v.extractLsb' 22 3 = st → v.extractLsb' 17 5 = t →
      v.extractLsb' 12 5 = base → v.extractLsb' 8 4 = stream → v.extractLsb' 0 8 = disp → decodeShort v = .ok i)
    (hlimits : i.wellFormed = true) : decode (encode i).1 (encode i).2 = .ok i :=
  decode_short hcode (hread _ (by simp [majorOf]) (by simp) (by simp) (by simp) (by simp) (by simp)) hlimits

/-- A register field and a 17-bit field. -/
theorem decode_wide {i : Instr} {major : BitVec 7} {st : BitVec 3} {d : BitVec 5} {imm : BitVec 17}
    (hcode : encode i = (major ++ st ++ d ++ imm, 0))
    (hread : ∀ v : InstrWord, majorOf v = major.toNat → v.extractLsb' 22 3 = st → v.extractLsb' 17 5 = d →
      v.extractLsb' 0 17 = imm → decodeShort v = .ok i)
    (hlimits : i.wellFormed = true) : decode (encode i).1 (encode i).2 = .ok i :=
  decode_short hcode (hread _ (by simp [majorOf]) (by simp) (by simp) (by simp)) hlimits

/-- A 3-bit function and a token group. -/
theorem decode_token {i : Instr} {major : BitVec 7} {st k : BitVec 3} {z : BitVec 15} {n : BitVec 4}
    (hcode : encode i = (major ++ st ++ z ++ k ++ n, 0))
    (hread : ∀ v : InstrWord, majorOf v = major.toNat → v.extractLsb' 4 3 = k → v.extractLsb' 22 3 = st → v.extractLsb' 7 15 = z →
      v.extractLsb' 0 4 = n → decodeShort v = .ok i)
    (hlimits : i.wellFormed = true) : decode (encode i).1 (encode i).2 = .ok i :=
  decode_short hcode (hread _ (by simp [majorOf]) (by simp) (by simp) (by simp) (by simp)) hlimits

/-- A line offset of 18 bits and a word index. -/
theorem decode_jump {i : Instr} {major : BitVec 7} {st : BitVec 3} {off : BitVec 18} {tw : BitVec 4}
    (hcode : encode i = (major ++ st ++ off ++ tw, 0))
    (hread : ∀ v : InstrWord, majorOf v = major.toNat → v.extractLsb' 22 3 = st → v.extractLsb' 4 18 = off →
      v.extractLsb' 0 4 = tw → decodeShort v = .ok i)
    (hlimits : i.wellFormed = true) : decode (encode i).1 (encode i).2 = .ok i :=
  decode_short hcode (hread _ (by simp [majorOf]) (by simp) (by simp) (by simp)) hlimits

/-- A sense, a predicate, a line offset and a word index. -/
theorem decode_predicate {i : Instr} {major : BitVec 7} {sense : BitVec 2} {st f : BitVec 3} {z : BitVec 5} {off : BitVec 8}
    {tw : BitVec 4}
    (hcode : encode i = (major ++ st ++ sense ++ f ++ z ++ off ++ tw, 0))
    (hread : ∀ v : InstrWord, majorOf v = major.toNat → v.extractLsb' 21 1 = sense.extractLsb' 1 1 → v.extractLsb' 20 2 = sense →
      v.extractLsb' 22 3 = st → v.extractLsb' 17 3 = f → v.extractLsb' 12 5 = z → v.extractLsb' 4 8 = off →
      v.extractLsb' 0 4 = tw → decodeShort v = .ok i)
    (hlimits : i.wellFormed = true) : decode (encode i).1 (encode i).2 = .ok i :=
  decode_short hcode
    (hread _ (by simp [majorOf]) (by simp) (by simp) (by simp) (by simp) (by simp) (by simp) (by simp)) hlimits

/-- Three register fields, the direction of an ordered access, its order, its extension and its width. -/
theorem decode_ordered_access {i : Instr} {major : BitVec 7} {st ord : BitVec 3} {d a b : BitVec 5} {dir sx : BitVec 1}
    {width : BitVec 2}
    (hcode : encode i = (major ++ st ++ d ++ a ++ b ++ dir ++ ord ++ sx ++ width, 0))
    (hread : ∀ v : InstrWord, majorOf v = major.toNat → v.extractLsb' 6 1 = dir → v.extractLsb' 22 3 = st →
      v.extractLsb' 17 5 = d → v.extractLsb' 12 5 = a → v.extractLsb' 7 5 = b → v.extractLsb' 3 3 = ord → v.extractLsb' 2 1 = sx →
      v.extractLsb' 0 2 = width → decodeShort v = .ok i)
    (hlimits : i.wellFormed = true) : decode (encode i).1 (encode i).2 = .ok i :=
  decode_short hcode
    (hread _ (by simp [majorOf]) (by simp) (by simp) (by simp) (by simp) (by simp) (by simp) (by simp) (by simp)) hlimits

/-! ### Majors with functions (03 R60) -/

section

variable {w : InstrWord}

theorem decodeShort_arith (h : majorOf w = 0x01) : decodeShort w = decodeArith w := by rw [decodeShort, h]; rfl
theorem decodeShort_atomicW (h : majorOf w = 0x43) : decodeShort w = decodeAtomicW w := by rw [decodeShort, h]; rfl
theorem decodeShort_atomicD (h : majorOf w = 0x44) : decodeShort w = decodeAtomicD w := by rw [decodeShort, h]; rfl
theorem decodeShort_waita (h : majorOf w = 0x45) : decodeShort w = decodeWaita w := by rw [decodeShort, h]; rfl
theorem decodeShort_phaser (h : majorOf w = 0x46) : decodeShort w = decodePhaser w := by rw [decodeShort, h]; rfl
theorem decodeShort_strand (h : majorOf w = 0x48) : decodeShort w = decodeStrand w := by rw [decodeShort, h]; rfl
theorem decodeShort_frame (h : majorOf w = 0x49) : decodeShort w = decodeFrame w := by rw [decodeShort, h]; rfl
theorem decodeShort_barrier (h : majorOf w = 0x4A) : decodeShort w = decodeBarrier w := by rw [decodeShort, h]; rfl
theorem decodeShort_staging (h : majorOf w = 0x4B) : decodeShort w = decodeStaging w := by rw [decodeShort, h]; rfl
theorem decodeShort_system (h : majorOf w = 0x4C) : decodeShort w = decodeSystem w := by rw [decodeShort, h]; rfl
theorem decodeShort_journal (h : majorOf w = 0x50) : decodeShort w = decodeJournal w := by rw [decodeShort, h]; rfl

end

/-! ### Pairs (03 R54)

As for the short layouts, with the operands of both words together. -/

section

variable {st : BitVec 3} {w x : InstrWord}

theorem decodeLong_vector (h : majorOf w = 0x60) : decodeLong w x = decodeVector w x := by rw [decodeLong, h]; rfl
theorem decodeLong_tile (h : majorOf w = 0x61) : decodeLong w x = decodeTile w x := by rw [decodeLong, h]; rfl
theorem decodeLong_matrix (h : majorOf w = 0x62) : decodeLong w x = decodeMatrix w x := by rw [decodeLong, h]; rfl
theorem decodeLong_copy (h : majorOf w = 0x63) : decodeLong w x = decodeCopy w x := by rw [decodeLong, h]; rfl
theorem decodeLong_cas (h : majorOf w = 0x64) : decodeLong w x = decodeCas w x := by rw [decodeLong, h]; rfl

theorem decode_vx {major : BitVec 7} {fn : BitVec 6} {v : VxOps} {f : BitVec 3 → VxOps → Instr}
    (hcode : encode (f st v) = encVx major fn st v)
    (hread : ∀ w x : InstrWord, majorOf w = major.toNat → w.extractLsb' 0 6 = fn →
      decodeLong w x = .ok (f (w.extractLsb' 22 3) (vxOps w x)))
    (hlimits : (f st v).wellFormed = true) : decode (encode (f st v)).1 (encode (f st v)).2 = .ok (f st v) :=
  decode_long hcode ((hread _ _ (by simp [majorOf]) (by simp)).trans (by simp [vxOps])) hlimits

theorem decode_mx {major : BitVec 7} {fn : BitVec 7} {m : MxOps} {f : BitVec 3 → MxOps → Instr}
    (hcode : encode (f st m) = encMx major fn st m)
    (hread : ∀ w x : InstrWord, majorOf w = major.toNat → w.extractLsb' 0 7 = fn →
      decodeLong w x = .ok (f (w.extractLsb' 22 3) (mxOps w x)))
    (hlimits : (f st m).wellFormed = true) : decode (encode (f st m)).1 (encode (f st m)).2 = .ok (f st m) :=
  decode_long hcode ((hread _ _ (by simp [majorOf]) (by simp)).trans (by simp [mxOps])) hlimits

theorem decode_ex {major : BitVec 7} {fn : BitVec 7} {x : ExOps} {f : BitVec 3 → ExOps → Instr}
    (hcode : encode (f st x) = encEx major fn st x)
    (hread : ∀ w y : InstrWord, majorOf w = major.toNat → w.extractLsb' 0 7 = fn → exOps w y = x →
      decodeLong w y = .ok (f (w.extractLsb' 22 3) x))
    (hlimits : (f st x).wellFormed = true) : decode (encode (f st x)).1 (encode (f st x)).2 = .ok (f st x) :=
  decode_long hcode ((hread _ _ (by simp [majorOf]) (by simp) (by simp [exOps])).trans (by simp)) hlimits

end

/-- A function of which the high part alone names the instruction. -/
theorem function_div {w : InstrWord} (k : Nat) (hk : k ≤ 7) :
    (w.extractLsb' 0 7).toNat / 2 ^ k = (w.extractLsb' k (7 - k)).toNat := by
  interval_cases k <;> simp [BitVec.extractLsb'_toNat, Nat.shiftRight_eq_div_pow] <;> omega

/-- The functions 56 to 63 of major 0x01 are SEL's, one for each predicate. -/
theorem decodeArith_sel {w : InstrWord} (h : w.extractLsb' 3 4 = 7) :
    decodeArith w =
      .ok (.sel (w.extractLsb' 22 3) (w.extractLsb' 0 3) (w.extractLsb' 17 5) (w.extractLsb' 12 5) (w.extractLsb' 7 5)) := by
  have hfn : (w.extractLsb' 0 7).toNat / 8 = 7 := (function_div 3 (by decide)).trans (congrArg BitVec.toNat h)
  unfold decodeArith
  split <;> first | omega | exact if_pos hfn

/-- The functions 16 to 31 of major 0x4A are TKSIG's, one for each token group. -/
theorem decodeBarrier_tksig {w : InstrWord} (h : w.extractLsb' 4 3 = 1) :
    decodeBarrier w = need (w.extractLsb' 7 15 == 0) (.tksig (w.extractLsb' 22 3) (w.extractLsb' 0 4)) := by
  have hfn : (w.extractLsb' 0 7).toNat / 16 = 1 := (function_div 4 (by decide)).trans (congrArg BitVec.toNat h)
  unfold decodeBarrier
  split <;> first | omega | exact if_pos hfn

/-- The functions 32 to 47 of major 0x4A are TKWAIT's, one for each token group. -/
theorem decodeBarrier_tkwait {w : InstrWord} (h : w.extractLsb' 4 3 = 2) :
    decodeBarrier w = need (w.extractLsb' 7 15 == 0) (.tkwait (w.extractLsb' 22 3) (w.extractLsb' 0 4)) := by
  have hfn : (w.extractLsb' 0 7).toNat / 16 = 2 := (function_div 4 (by decide)).trans (congrArg BitVec.toNat h)
  unfold decodeBarrier
  split <;> first | omega | exact (if_neg (by omega)).trans (if_pos hfn)

/-! ### The decoder undoes the encoder -/

/-- SYSW names no register whose write is an instruction of its own. -/
theorem syswOk_own {reg : BitVec 17} (h : syswOk reg = true) : reg ≠ 0xC ∧ reg ≠ 0xE ∧ reg ≠ 0xF := by
  refine ⟨?_, ?_, ?_⟩ <;> rintro rfl <;> exact absurd h (by decide)

theorem kvputMode_of_store {x : ExOps} (h : kvputStoreOk x = true) : kvputMode x = 0 := by
  simp only [kvputStoreOk, Bool.and_eq_true, decide_eq_true_eq] at h
  obtain ⟨⟨-, hmode⟩, -⟩ := h
  exact hmode

theorem kvputMode_of_retain {x : ExOps} (h : kvputRetainOk x = true) : kvputMode x = 1 := by
  simp only [kvputRetainOk, Bool.and_eq_true, decide_eq_true_eq] at h
  obtain ⟨⟨⟨-, hmode⟩, -⟩, -⟩ := h
  exact hmode

theorem kvputMode_of_release {x : ExOps} (h : kvputReleaseOk x = true) : kvputMode x = 2 := by
  simp only [kvputReleaseOk, Bool.and_eq_true, decide_eq_true_eq] at h
  obtain ⟨⟨⟨-, hmode⟩, -⟩, -⟩ := h
  exact hmode

/-- Each case is a layout; the decoder finds the function and the operands in the fields that the encoder put them in, and zeros in the
others. -/
theorem decode_encode (i : Instr) (hlimits : i.wellFormed = true) (hword : i.hasWord = true) :
    decode (encode i).1 (encode i).2 = .ok i := by
  cases i
  -- 0x01: arithmetic and logic.
  case add | sub | and | or | xor | andn | orn | shl | shr | sar | rotl | min | max | minu | maxu | slt | sltu | seq | sne
      | mul | mulh | mulhu | div | divu | rem | remu | clz | ctz | popc | brev | bswap =>
    exact decode_regs rfl
      (fun _ hm hf hst hd ha hb => by rw [decodeShort_arith hm, decodeArith, hf, hst, hd, ha, hb]; rfl) hlimits
  -- 0x02 to 0x10: immediate forms; 0x2A: JI.
  case addImm | andImm | orImm | xorImm | shlImm | shrImm | sarImm | rotlImm | sltImm | sltuImm | seqImm | sneImm | minImm
      | maxImm | mulImm | ji =>
    exact decode_imm rfl (fun _ hm hst hd ha hi => by rw [decodeShort, hm, hst, hd, ha, hi]; rfl) hlimits
  -- 0x11 to 0x14: bit fields.
  case exts | extz | ins | alignup =>
    exact decode_bits rfl (fun _ hm hst hd ha hw hp => by rw [decodeShort, hm, hst, hd, ha, hw, hp]; rfl) hlimits
  -- 0x15: LEA.
  case lea =>
    exact decode_ordered rfl (fun _ hm hf hst hd ha hb ho => by rw [decodeShort, hm, hf, hst, hd, ha, hb, ho]; rfl) hlimits
  -- 0x16: WRAP.
  case wrap =>
    exact decode_regs rfl (fun _ hm hf hst hd ha hb => by rw [decodeShort, hm, hf, hst, hd, ha, hb]; rfl) hlimits
  -- 0x17: MOVI, 0x4F: TRAP.
  case movi | trap =>
    exact decode_wide rfl (fun _ hm hst hd hi => by rw [decodeShort, hm, hst, hd, hi]; rfl) hlimits
  -- 0x20 to 0x27: branches on registers.
  case beq | bne | blt | bge | bltu | bgeu | loop =>
    exact decode_branch rfl (fun _ hm hst ha hb ho ht => by rw [decodeShort, hm, hst, ha, hb, ho, ht]; rfl) hlimits
  -- 0x30 to 0x3B: plain accesses.
  case ldB | ldBu | ldH | ldHu | ldW | ldWu | ldD | stB | stH | stW | stD =>
    exact decode_access rfl (fun _ hm hst ht hb hs hd => by rw [decodeShort, hm, hst, ht, hb, hs, hd]; rfl) hlimits
  -- 0x43: atomics of 32 bits.
  case aaddW | aandW | aorW | axorW | aminSW | amaxSW | aminUW | amaxUW | afaddW | aexchW | aincwW | adecwW =>
    exact decode_ordered rfl
      (fun _ hm hf hst hd ha hb ho => by rw [decodeShort_atomicW hm, decodeAtomicW, hf, hst, hd, ha, hb, ho]; rfl) hlimits
  -- 0x44: atomics of 64 bits.
  case aaddD | aandD | aorD | axorD | aminSD | amaxSD | aminUD | amaxUD | aexchD | aincwD | adecwD =>
    exact decode_ordered rfl
      (fun _ hm hf hst hd ha hb ho => by rw [decodeShort_atomicD hm, decodeAtomicD, hf, hst, hd, ha, hb, ho]; rfl) hlimits
  -- 0x45: WAITA.
  case waitaW | waitaD =>
    exact decode_regs rfl
      (fun _ hm hf hst hd ha hb => by rw [decodeShort_waita hm, decodeWaita, hf, hst, hd, ha, hb]; rfl) hlimits
  -- 0x46: phasers.
  case phnew | phregS | phregW | phregSw | phdrop | phsig | phwait | phnext | phlink | phqry =>
    exact decode_regs rfl
      (fun _ hm hf hst hd ha hb => by rw [decodeShort_phaser hm, decodePhaser, hf, hst, hd, ha, hb]; rfl) hlimits
  -- 0x48: strands and events.
  case spawn | spawnj | join | exit | yield | susp | self | prio | evset | evclr | evwait | evtest =>
    exact decode_regs rfl
      (fun _ hm hf hst hd ha hb => by rw [decodeShort_strand hm, decodeStrand, hf, hst, hd, ha, hb]; rfl) hlimits
  -- 0x49: timetables and scopes.
  case twait | frameq | bend | scope | cancel | scqry | scack =>
    exact decode_regs rfl
      (fun _ hm hf hst hd ha hb => by rw [decodeShort_frame hm, decodeFrame, hf, hst, hd, ha, hb]; rfl) hlimits
  -- 0x4A: barriers.
  case tbinit | tbexp | tbarv | tbwait =>
    exact decode_regs rfl
      (fun _ hm hf hst hd ha hb => by rw [decodeShort_barrier hm, decodeBarrier, hf, hst, hd, ha, hb]; rfl) hlimits
  -- 0x4B: staging.
  case seghdr | stgrel | parkSet =>
    exact decode_regs rfl
      (fun _ hm hf hst hd ha hb => by rw [decodeShort_staging hm, decodeStaging, hf, hst, hd, ha, hb]; rfl) hlimits
  -- 0x4C: system instructions.
  case nop | eret | halt | brk | tick =>
    exact decode_regs rfl
      (fun _ hm hf hst hd ha hb => by rw [decodeShort_system hm, decodeSystem, hf, hst, hd, ha, hb]; rfl) hlimits
  -- 0x50: journal, snapshot, checkpoint, translation.
  case jrnlStore | replay | snap | ckptClose | tlbinv =>
    exact decode_regs rfl
      (fun _ hm hf hst hd ha hb => by rw [decodeShort_journal hm, decodeJournal, hf, hst, hd, ha, hb]; rfl) hlimits
  -- 0x01: SEL, with the predicate in the function.
  case sel =>
    exact decode_ordered rfl
      (fun _ hm hf hst hd ha hb ho => by rw [decodeShort_arith hm, decodeArith_sel hf, hst, hd, ha, hb, ho]) hlimits
  -- 0x4A: TKSIG and TKWAIT, with the token group in the function.
  case tksig =>
    exact decode_token rfl
      (fun _ hm hk hst hz hn => by rw [decodeShort_barrier hm, decodeBarrier_tksig hk, hst, hz, hn]; rfl) hlimits
  case tkwait =>
    exact decode_token rfl
      (fun _ hm hk hst hz hn => by rw [decodeShort_barrier hm, decodeBarrier_tkwait hk, hst, hz, hn]; rfl) hlimits
  -- 0x4B: STGQ.
  case stgq =>
    exact decode_short rfl ((decodeShort_staging (by simp [majorOf])).trans (by simp [decodeStaging, need])) hlimits
  -- 0x28, 0x29: jumps.
  case j | jl =>
    exact decode_jump rfl (fun _ hm hst ho ht => by rw [decodeShort, hm, hst, ho, ht]; rfl) hlimits
  -- 0x26: branches on a predicate.
  case bf | bfN =>
    exact decode_predicate rfl
      (fun _ hm hn hs hst hf hz ho ht => by rw [decodeShort, hm, hn, hs, hst, hf, hz, ho, ht]; rfl) hlimits
  -- 0x40: ordered accesses.
  case ldo | sto =>
    exact decode_ordered_access rfl
      (fun _ hm hr hst hd ha hb ho hx hw => by rw [decodeShort, hm, hr, hst, hd, ha, hb, ho, hx, hw]; rfl) hlimits
  -- 0x18 to 0x1A: comparisons, predicates, nullification; 0x3C, 0x3D: queue accesses; 0x41, 0x42: fences.
  case fcmp | flog | nul | ldq | stq | fence | xfence =>
    exact decode_short rfl (by simp [majorOf, decodeShort, need]) hlimits
  -- 0x4D, 0x4E: system registers; the write or read of some is an instruction of its own.
  case diagdRead | diagdWrite | einjArm | snapArm =>
    exact decode_wide rfl (fun _ hm hst hd hi => by rw [decodeShort, hm, hst, hd, hi]; rfl) hlimits
  case sysr reg =>
    have hreg : reg ≠ 0xC := fun h => absurd (h ▸ hlimits : sysrOk 0xC = true) (by decide)
    exact decode_wide rfl
      (fun _ hm hst hd hi => by rw [decodeShort, hm, hst, hd, hi]; exact if_neg (by simpa using hreg)) hlimits
  case sysw reg =>
    obtain ⟨hdiagd, heinj, hsnap⟩ := syswOk_own hlimits
    exact decode_wide rfl
      (fun _ hm hst hd hi => by
        rw [decodeShort, hm, hst, hd, hi]
        exact (if_neg (by simpa using hdiagd)).trans
          ((if_neg (by simpa using heinj)).trans (if_neg (by simpa using hsnap)))) hlimits
  -- 0x65: long immediates.
  case movl | lhi =>
    exact decode_long rfl (by simp [majorOf, decodeLong, need]) hlimits
  -- 0x60: vector.
  case vld | vst | vmov | vbcst | viota | vadd | vsub | vmul | vfma | vfms | vmin | vmax | vabs | vneg | vdiv | vsqrt | vrsq | vrcp
      | vexp2 | vlog2 | vand | vor | vxor | vshl | vshr | vsar | vcmp | vsel | vpop | vmlog | vshuf | vrot | vext | vins | vred
      | vscan | vcvt | vqnt | vdeq | vtag | vhad | vcon | vopld =>
    exact decode_vx rfl (fun _ _ hm hf => by rw [decodeLong_vector hm, decodeVector, hf]; rfl) hlimits
  -- 0x61: bit tiles.
  case bld | bst | brow | bfill | bpopr | bpopc | btrn | bcomp | bclos | blog | vselb =>
    exact decode_vx rfl (fun _ _ hm hf => by rw [decodeLong_tile hm, decodeTile, hf]; rfl) hlimits
  -- 0x62: matrix and outer comparison.
  case mlds | mflip | mstr | mzero | mpset | mpget | mdrain | ocld | ocmp =>
    exact decode_mx rfl (fun _ _ hm hf => by rw [decodeLong_matrix hm, decodeMatrix, hf]; rfl) hlimits
  -- 0x63: copy unit.
  case cpy | cpyt | kvget | msg | dtld =>
    exact decode_ex rfl (fun _ _ hm hf hx => by rw [decodeLong_copy hm, decodeCopy, hf, hx]; rfl) hlimits
  -- 0x63: KVPUT, whose MODE tells its three apart.
  case kvputStore =>
    exact decode_ex rfl
      (fun _ _ hm hf hx => by rw [decodeLong_copy hm, decodeCopy, hf, hx, kvputMode_of_store hlimits]; rfl) hlimits
  case kvputRetain =>
    exact decode_ex rfl
      (fun _ _ hm hf hx => by rw [decodeLong_copy hm, decodeCopy, hf, hx, kvputMode_of_retain hlimits]; rfl) hlimits
  case kvputRelease =>
    exact decode_ex rfl
      (fun _ _ hm hf hx => by rw [decodeLong_copy hm, decodeCopy, hf, hx, kvputMode_of_release hlimits]; rfl) hlimits
  -- 0x64: ACAS and AADDB.
  case acas | aaddb =>
    exact decode_ex rfl (fun _ _ hm hf hx => by rw [decodeLong_cas hm, decodeCas, hf, hx]; rfl) hlimits
  -- A row that shares another's word, and a step without a word.
  all_goals exact nomatch hword

/-- Settles O52: by `decode_encode`, layout by layout; the words that two rows share are the same expression in the encoder. -/
theorem decodeEncode : Obligations.DecodeEncode :=
  ⟨decode_encode, fun _ _ _ _ => ⟨rfl, rfl, rfl, rfl, rfl, rfl, rfl⟩⟩

/-- Settles O51: the decoder evaluated at each pair of words. -/
theorem decodeWords : Obligations.DecodeWords := by
  unfold Obligations.DecodeWords
  decide

end Sys2Proof
end

section
/-! PROOFS. Refused instructions (03 R59, R62 to R64, 20 R407): who may issue an instruction is what its gate says; a role that the
gate turns away traps, and what entry of such a trap leaves is said once, for every cause. -/

namespace Sys2Proof.Machine
open Sys2Proof.Said

/-! ### Entry of a trap (20 R407) -/

/-- The slot of state `x` once `q` is entered with the clock at `now`; `u` is what stays of a suspension. -/
def Slot.entered (x : Slot) (q : TrapReq) (now : Nat) (u : Option Susp) : Slot :=
  let taker := takerEntry (x.role q.role) q
  let y := (x.modRoles holdRole).setRole q.role { taker with nextIssue := Nat.max taker.nextIssue (now + 1), blockUntil := 0 }
  { (y.modRoles (fun c => { c with images := imageOf c :: c.images })) with
    susp := u, trap := none, handlers := (q.role, q.cause) :: x.handlers, stored := x.stored && q.cause != 14, draining := false }

/-- What trap entry edits outside its slot: the clusters' monitors, the phasers' waiters, and when a snapshot is due. -/
def State.withWaits (s : State) (g : Sp Cluster) (w : List (RecRef × Nat × Nat)) (a : Option (Nat × Nat)) : State :=
  { s with clusters := g, phWait := w, snapAt := a }

section

variable (s : State) (g : Sp Cluster) (w : List (RecRef × Nat × Nat)) (a : Option (Nat × Nat)) (k : Nat)

@[simp] theorem State.slot_withWaits : (s.withWaits g w a).slot k = s.slot k := rfl
@[simp] theorem State.clock_withWaits : (s.withWaits g w a).clock k = s.clock k := rfl
theorem rawRead_withWaits (p : Place) (n : Nat) : rawRead (s.withWaits g w a) p n = rawRead s p n := by cases p <;> rfl

@[simp] theorem State.modSlot_withWaits (f : Slot → Slot) :
    (s.withWaits g w a).modSlot k f = (s.modSlot k f).withWaits g w a := rfl

end

/-- The roles of a slot are not its suspension or its trap. -/
theorem Slot.role_trap (x : Slot) (r : Role) (u : Option Susp) (o : Option TrapReq) :
    ({ x with susp := u, trap := o } : Slot).role r = x.role r := by cases r <;> rfl

/-- Giving up a suspension edits the slot, the monitors and the phasers' waiters alone. -/
theorem dropSuspension_modSlot (s : State) (k : Nat) (f : Slot → Slot) :
    ∃ u g w, dropSuspension (s.modSlot k f) k = (s.modSlot k (fun x => { f x with susp := u })).withWaits g w s.snapAt := by
  unfold dropSuspension
  split
  · dsimp only
    rw [State.modSlot_modSlot]
    exact ⟨none, _, _, rfl⟩
  · exact ⟨(f (s.slot k)).susp, s.clusters, s.phWait, rfl⟩

/-- Firing a snapshot sets when it is latched alone. -/
theorem fireSnapshot_withWaits (s : State) (g : Sp Cluster) (w : List (RecRef × Nat × Nat)) (a : Option (Nat × Nat)) (src : Nat) :
    ∃ a', fireSnapshot (s.withWaits g w a) src = s.withWaits g w a' := by
  unfold fireSnapshot
  split
  · exact ⟨_, rfl⟩
  · exact ⟨a, rfl⟩

/-- A cached line without an error is fetched as it stands. -/
theorem codeFill_cached {s : State} {slot line : Nat} {sup : Bool} {d : BitVec 512}
    (hsound : ∀ l, codeEntry s (coreOf slot) (s.slot slot).domain line sup = some l → l.err = [])
    (hcached : cachedLine s (coreOf slot) (s.slot slot).domain line sup = some d) : codeFill s slot line sup = (s, .ok d) := by
  unfold codeFill
  simp only [hcached, codeCheck_sound hsound]

theorem Slot.domain_entered (x : Slot) (q : TrapReq) (now : Nat) (u : Option Susp) : (x.entered q now u).domain = x.domain := by
  unfold Slot.entered Slot.setRole
  cases q.role <;> rfl

/-- Bits 31 to 28 of a line's first word, the role whose code it is (02 R28). -/
theorem bitsOf_role (w : InstrWord) : bitsOf (BitVec.setWidth 64 w) 28 4 = w.toNat / 2 ^ 28 := by
  unfold bitsOf
  rw [BitVec.toNat_setWidth, Nat.mod_eq_of_lt (by omega)]
  omega

/-- A trap whose vector line is a code line of the taker, cached and without errors, is entered. -/
theorem enterTrap_entered {s : State} {k : Nat} {q : TrapReq} {line : Nat} {d : BitVec 512}
    (hline : (s.role k q.role).tvec.toNat % 2 ^ 28 + q.cause = line) (hlast : line ≤ 0xFFFFFFE)
    (hsound : ∀ l, codeEntry s (coreOf k) (s.slot k).domain line true = some l → l.err = [])
    (hcached : cachedLine s (coreOf k) (s.slot k).domain line true = some d)
    (hrole : (lineWord d 0).toNat / 2 ^ 28 = roleNum q.role) :
    ∃ u g w a, enterTrap (s.modSlot k (fun x => { x with trap := some q })) k q =
      (s.modSlot k (fun x => x.entered q (s.clock k) u)).withWaits g w a := by
  obtain ⟨u, g, w, hdrop⟩ := dropSuspension_modSlot s k (fun x => { x with trap := some q })
  unfold enterTrap
  extract_lets s0 line' now s1 s2
  have htvec : line' = line := by
    unfold line' s0
    rw [hdrop, ← hline, State.role, State.slot_withWaits, State.slot_modSlot_self]
    exact congrArg (fun c : RoleCtx => c.tvec.toNat % 2 ^ 28 + q.cause) (Slot.role_trap (s.slot k) q.role u (some q))
  have hs1 : s1 = (s.modSlot k (fun x => x.entered q (s.clock k) u)).withWaits g w s.snapAt := by
    have hnow : now = s.clock k := by
      unfold now s0
      rw [hdrop, State.clock_withWaits]
      exact s.clock_modSlot k k (fun x => { x with trap := some q, susp := u }) rfl
    unfold s1 s0
    rw [hdrop, State.modSlot_withWaits, State.modSlot_modSlot, hnow]
    obtain ⟨r, c, v, as, src⟩ := q
    cases r <;> rfl
  obtain ⟨a, hs2⟩ : ∃ a, s2 = (s.modSlot k (fun x => x.entered q (s.clock k) u)).withWaits g w a := by
    unfold s2
    rw [hs1]
    split
    · exact fireSnapshot_withWaits ..
    · exact ⟨s.snapAt, rfl⟩
  have hdomain : (s2.slot k).domain = (s.slot k).domain := by
    rw [hs2, State.slot_withWaits, State.slot_modSlot_self, Slot.domain_entered]
  have hfill : codeFill s2 k line true = (s2, .ok d) := by
    rw [hs2] at hdomain ⊢
    exact codeFill_cached (by rw [hdomain]; exact hsound) (by rw [hdomain]; exact hcached)
  refine ⟨u, g, w, a, ?_⟩
  rw [htvec, if_neg (by unfold endLine; omega), hfill, ← hs2]
  exact if_pos ((bitsOf_role _).trans hrole)

/-- A synchronous trap that stands in its slot, other than PREEMPT, waits for the other roles' windows and for results alone. -/
theorem trapReady_trap (s : State) (k : Nat) (o : Option TrapReq) (q : TrapReq) (hcause : q.cause ≠ 14) (hsync : q.async = false) :
    trapReady (s.modSlot k (fun x => { x with trap := o })) k q = (windowsClosed s k (some q.role) && resultsLanded s k) := by
  have hrole : ∀ r, (s.modSlot k (fun x => { x with trap := o })).role k r = s.role k r := fun r => by
    rw [State.role, State.slot_modSlot_self]
    exact Slot.role_trap (s.slot k) r (s.slot k).susp o
  have hqueue : ∀ n, (s.modSlot k (fun x => { x with trap := o })).queue k n = s.queue k n := fun n => by
    rw [State.queue, State.slot_modSlot_self]; rfl
  have hclock : (s.modSlot k (fun x => { x with trap := o })).clock k = s.clock k := s.clock_modSlot k k _ rfl
  simp [trapReady, windowsClosed, resultsLanded, hrole, hqueue, hclock, hsync, hcause]

/-- The request of a precise trap of the issuing role. -/
def State.precise (s : State) (c : Nat) (v : Word) : TrapReq := ⟨s.cur.role, c, v, false, s.cur.role⟩

/-- A precise trap that nothing delays is entered at once. -/
theorem trapNow_entered {s : State} {c : Nat} (v : Word) (h : Vectored s c) (hcause : c ≠ 14) :
    ∃ u g w a, s.trapNow c v = (s.modSlot s.me (fun x => x.entered (s.precise c v) s.now u)).withWaits g w a := by
  obtain ⟨hfree, hwindows, hlanded, hlast, hsound, d, hcached, hrole⟩ := h
  have hready : trapReady (s.modSlot s.me (fun x => { x with trap := some (s.precise c v) })) s.me (s.precise c v) = true := by
    rw [trapReady_trap s s.me _ (s.precise c v) hcause rfl]
    exact Bool.and_eq_true_iff.mpr ⟨hwindows, hlanded⟩
  rw [show s.trapNow c v = raiseTrap s s.me (s.precise c v) from rfl]
  unfold raiseTrap startTrap
  have hcause' : (s.precise c v).cause ≠ 14 := hcause
  simp only [hfree, if_neg hcause', hready, if_true]
  exact enterTrap_entered rfl hlast hsound hcached hrole

/-! ### What the entered slot holds -/

section

variable (x : Slot) (q : TrapReq) (now : Nat) (u : Option Susp)

/-- The taker: its entry, its next issue behind this cycle, its registers kept for the handler. -/
theorem Slot.role_entered_taker : ∃ n l, (x.entered q now u).role q.role =
    { takerEntry (x.role q.role) q with nextIssue := n, blockUntil := 0, images := l } := by
  obtain ⟨r, c, v, as, src⟩ := q
  cases r <;> exact ⟨_, _, rfl⟩

/-- Another role: held, its registers kept for the handler. -/
theorem Slot.role_entered_ne {r : Role} (h : r ≠ q.role) :
    ∃ l, (x.entered q now u).role r = { holdRole (x.role r) with images := l } := by
  obtain ⟨r', c, v, as, src⟩ := q
  cases r' <;> cases r <;> first | exact absurd rfl h | exact ⟨_, rfl⟩

/-- What entry leaves of a slot, and the trap that stands open. -/
theorem Slot.entered_rest : (x.entered q now u).handlers = (q.role, q.cause) :: x.handlers ∧
    (x.entered q now u).queues = x.queues ∧ (x.entered q now u).tokens = x.tokens ∧ (x.entered q now u).rows = x.rows ∧
    (x.entered q now u).tiles = x.tiles ∧ (x.entered q now u).halted = x.halted := by
  obtain ⟨r, c, v, as, src⟩ := q
  cases r <;> exact ⟨rfl, rfl, rfl, rfl, rfl, rfl⟩

end

theorem reg_takerEntry (c : RoleCtx) (q : TrapReq) (n at' : Nat) : (takerEntry c q).reg n at' = c.reg n at' := rfl

theorem reg_holdRole (c : RoleCtx) (n at' : Nat) : (holdRole c).reg n at' = c.reg n at' := by
  unfold holdRole
  split <;> rfl

/-- A precise trap that nothing delays leaves what 20 R407 says. -/
theorem trapNow_traps {s : State} {c : Nat} (v : Word) (h : Vectored s c) (hcause : c ≠ 14) (hheld : s.myRole.held = false) :
    Traps s c v s.myRole.pc (s.trapNow c v).mark := by
  obtain ⟨u, g, w, a, ht⟩ := trapNow_entered v h hcause
  obtain ⟨-, -, -, hlast, -⟩ := h
  have hslot : (s.trapNow c v).slot s.me = (s.slot s.me).entered (s.precise c v) s.now u := by
    rw [ht, State.slot_withWaits, State.slot_modSlot_self]
  have hcur : (s.trapNow c v).cur = s.cur := by rw [ht]; rfl
  have hme : (s.trapNow c v).me = s.me := congrArg (fun z : Context => z.slot.toNat) hcur
  obtain ⟨n, l, htaker⟩ := (s.slot s.me).role_entered_taker (s.precise c v) s.now u
  have htaker : (s.trapNow c v).mark.role s.me s.cur.role =
      { takerEntry s.myRole (s.precise c v) with nextIssue := n, blockUntil := 0, images := l } := by
    rw [State.role, State.slot_mark, hslot]
    exact htaker
  have hmine : (s.trapNow c v).mark.myRole =
      { takerEntry s.myRole (s.precise c v) with nextIssue := n, blockUntil := 0, images := l } := by
    rw [State.myRole_mark, State.myRole, hme, hcur]
    exact htaker
  have hothers : ∀ r, r ≠ s.cur.role → ∃ l, (s.trapNow c v).mark.role s.me r = { holdRole (s.role s.me r) with images := l } :=
    fun r hr => by
      rw [State.role, State.slot_mark, hslot]
      exact (s.slot s.me).role_entered_ne (s.precise c v) s.now u hr
  obtain ⟨hhandlers, hqueues, htokens, hrows, htiles, hhalted⟩ := (s.slot s.me).entered_rest (s.precise c v) s.now u
  exact
    { issued := rfl
      epc := by rw [hmine]; simp [takerEntry, hheld]
      cause := by rw [hmine]; simp [takerEntry, causeWord, State.precise]
      tval := by rw [hmine]; rfl
      psup := by rw [hmine]; rfl
      sup := by rw [hmine]; rfl
      nul := by rw [hmine]; rfl
      opened := by rw [State.slot_mark, hslot]; exact hhandlers
      pc := by rw [hmine]; exact congrArg (codeAddr · 1) (Nat.mod_eq_of_lt (Nat.lt_of_le_of_lt hlast (by decide)))
      held := by
        intro r hr hpresent hexited hfree
        obtain ⟨l, hr⟩ := hothers r hr
        rw [hr]
        simp [holdRole, hpresent, hexited, hfree]
      regs := by
        intro r n at'
        by_cases hr : r = s.cur.role
        · subst hr
          rw [htaker]
          exact reg_takerEntry _ (s.precise c v) n at'
        · obtain ⟨l, hr⟩ := hothers r hr
          rw [hr]
          exact reg_holdRole _ n at'
      queues := fun n => by rw [State.queue, State.slot_mark, hslot]; exact congrArg (Sp.get · n []) hqueues
      engine := by rw [State.slot_mark, hslot]; exact ⟨htokens, hrows, htiles⟩
      others := fun k hk => by rw [State.slot_mark, ht, State.slot_withWaits, State.slot_modSlot_ne _ hk]
      bytes := fun p => by
        rw [rawRead_mark, ht, rawRead_withWaits]
        exact bytes_modSlot s s.me _ hhalted p }

/-! ### Who may issue an instruction (03 R62, R63) -/

/-- The instruction passes the gate, whose role check and privilege are these; its own limits hold. -/
def Gated (i : Instr) (roles : Role → Bool) (sup : Bool) (s : State) : Prop :=
  ∃ null body, exec i s = .next (gate i true roles sup null body s)

theorem dtld_gated (st : BitVec 3) (x : ExOps) (s : State) : Gated (.dtld st x) anyRole true s := by
  unfold Gated exec execDtld pushCopy
  exact ⟨_, _, rfl⟩

/-- A role that the gate of an instruction shuts out takes ILL with the instruction's words. -/
theorem Gated.traps_ill {i : Instr} {roles : Role → Bool} {sup : Bool} {s : State} (h : Gated i roles sup s)
    (hfree : blockedBy s s.me s.cur.role = none) (hheld : s.myRole.held = false) (hrole : roles s.cur.role = false)
    (hv : Vectored s 1) : ∃ t, exec i s = .next t ∧ Traps s 1 (wordsOf i) s.myRole.pc t := by
  obtain ⟨null, body, hexec⟩ := h
  rw [hexec, gate_ill i true roles sup null body s hfree (by simp [hrole])]
  exact ⟨_, rfl, trapNow_traps _ hv (by decide) hheld⟩

/-- A user role takes PRIV at a supervisor instruction. -/
theorem Gated.traps_priv {i : Instr} {roles : Role → Bool} {s : State} (h : Gated i roles true s)
    (hfree : blockedBy s s.me s.cur.role = none) (hheld : s.myRole.held = false) (hrole : roles s.cur.role = true)
    (hu : s.myRole.sup = false) (hv : Vectored s 2) : ∃ t, exec i s = .next t ∧ Traps s 2 (wordsOf i) s.myRole.pc t := by
  obtain ⟨null, body, hexec⟩ := h
  rw [hexec, gate_priv i true roles null body s hfree rfl hrole hu]
  exact ⟨_, rfl, trapNow_traps _ hv (by decide) hheld⟩

/-- A role that may take its next instruction is not held. -/
theorem held_of_unblocked {s : State} (h : blockedBy s s.me s.cur.role = none) : s.myRole.held = false := by
  by_contra hheld
  rw [Bool.not_eq_false] at hheld
  unfold blockedBy at h
  dsimp only at h
  rw [if_pos (show ((s.slot s.me).role s.cur.role).held = true from hheld)] at h
  split at h <;> cases h

/-- A field that is no port is a destination. -/
theorem dstOk_of_noPort {d : BitVec 5} {r : Role} (h : noPort d r = true) : dstOk d r = true := by
  cases r
  case computer =>
    have hport : ¬ 28 ≤ d.toNat := by simpa [noPort] using h
    have hne : d ≠ 30 ∧ d ≠ 31 := ⟨by rintro rfl; exact hport (by decide), by rintro rfl; exact hport (by decide)⟩
    simpa [dstOk] using hne
  all_goals rfl

/-- The gate of a supervisor instruction, which lets every role in for which the field `d` is no port. -/
def Supervised (i : Instr) (d : BitVec 5) (s : State) : Prop :=
  ∃ roles, Gated i roles true s ∧ ∀ r, noPort d r = true → roles r = true

theorem Supervised.of_anyRole {i : Instr} {d : BitVec 5} {s : State} (h : Gated i anyRole true s) : Supervised i d s :=
  ⟨anyRole, h, fun _ _ => rfl⟩

theorem Supervised.of_dstOk {i : Instr} {d : BitVec 5} {s : State} (h : Gated i (dstOk d) true s) : Supervised i d s :=
  ⟨dstOk d, h, fun _ => dstOk_of_noPort⟩

theorem Supervised.of_noPort {i : Instr} {d : BitVec 5} {s : State} (h : Gated i (noPort d) true s) : Supervised i d s :=
  ⟨noPort d, h, fun _ => id⟩

section

variable (st : BitVec 3) (d a b : BitVec 5) (q : BitVec 2) (r : BitVec 1) (stream : BitVec 4) (disp : BitVec 8) (ord : BitVec 3)
  (w : BitVec 2) (sx : BitVec 1) (mask : BitVec 16) (x : ExOps) (v : VxOps) (m : MxOps) (s : State)

/-- Every supervisor instruction checks privilege, and its role check is that of its d field. -/
theorem privileged_supervised : ∀ i ∈ privileged st d a b x, Supervised i d s := by
  refine List.forall_iff_forall_mem.1 ?_
  -- ERET and HALT.
  iterate 2 refine ⟨.of_anyRole ⟨_, _, rfl⟩, ?_⟩
  -- JRNL, REPLAY, SNAP and CKPT, which write `s[d]`.
  iterate 4 refine ⟨.of_dstOk ⟨_, _, rfl⟩, ?_⟩
  -- TLBINV.
  refine ⟨.of_anyRole ⟨_, _, rfl⟩, ?_⟩
  -- SYSR, the diagnostic read among them, which writes `s[d]`.
  iterate 12 refine ⟨.of_dstOk ⟨_, _, rfl⟩, ?_⟩
  -- SYSW, the diagnostic write and the two arming writes among them, whose `s[d]` is no port.
  iterate 12 refine ⟨.of_noPort ⟨_, _, rfl⟩, ?_⟩
  exact .of_anyRole (dtld_gated st x s)

/-- Plain and ordered accesses, XFENCE, atomics, WAITA, ACAS, AADDB and the barrier instructions are the loader's and the storer's. -/
theorem notComputer_gated : ∀ i ∈ notComputer st d a b stream disp ord w sx mask x, Gated i memRole false s := by
  refine List.forall_iff_forall_mem.1 ?_
  and_intros <;> exact ⟨_, _, rfl⟩

/-- STGREL and the pushes of the vector and matrix engines are the computer's. -/
theorem onlyOfComputer_gated : ∀ i ∈ onlyOfComputer st v m,
    Gated i onlyComputer false s ∨ ∃ ok, Gated i (fun z => z = .computer && ok) false s := by
  refine List.forall_iff_forall_mem.1 ?_
  refine ⟨.inl ⟨_, _, rfl⟩, ?_⟩
  and_intros <;> exact .inr ⟨_, _, _, rfl⟩

/-- The gate shuts out every role that may not issue an instruction. -/
theorem wrongRole_gated : ∀ row ∈ wrongRole st d a b q r stream disp ord w sx mask x v m,
    ∃ roles, Gated row.1 roles false s ∧ roles row.2 = false := by
  intro row hrow
  unfold wrongRole at hrow
  rw [List.mem_append, List.mem_append, List.mem_map, List.mem_flatMap] at hrow
  rcases hrow with (⟨i, hi, rfl⟩ | ⟨i, hi, hrow⟩) | hrow
  · exact ⟨memRole, notComputer_gated st d a b stream disp ord w sx mask x s i hi, rfl⟩
  · have hrole : row.1 = i ∧ row.2 ≠ .computer := by
      simp only [List.mem_cons, List.not_mem_nil, or_false] at hrow
      rcases hrow with rfl | rfl <;> exact ⟨rfl, nofun⟩
    obtain ⟨rfl, hrole⟩ := hrole
    rcases onlyOfComputer_gated st v m s row.1 hi with h | ⟨ok, h⟩
    · exact ⟨onlyComputer, h, decide_eq_false hrole⟩
    · exact ⟨_, h, by simp [hrole]⟩
  · revert row
    refine List.forall_iff_forall_mem.1 ?_
    and_intros <;> exact ⟨_, ⟨_, _, rfl⟩, rfl⟩

end

/-- Settles O20: by the gate of each instruction, whose traps are entered before the NUL window is looked at. -/
theorem privilegeAndRoleTraps : Obligations.PrivilegeAndRoleTraps := by
  intro st d a b q r stream disp ord w sx mask x v m s hfree
  have hheld := held_of_unblocked hfree
  constructor
  · intro i hi hu hport hv
    obtain ⟨roles, hgated, hroles⟩ := privileged_supervised st d a b x s i hi
    exact hgated.traps_priv hfree hheld (hroles _ hport) hu hv
  · intro row hrow hrole hv
    obtain ⟨roles, hgated, hroles⟩ := wrongRole_gated st d a b q r stream disp ord w sx mask x v m s row hrow
    exact hgated.traps_ill hfree hheld (hrole ▸ hroles) hv

end Sys2Proof.Machine
end
